-- ==== Sys2Proof/Word.lean ====
section
/-!
DEFINITION. Word: the word types of the Juham and their plainest arithmetic (R4, R6).
-/
namespace Sys2Proof

/-- A 64-bit register or memory word (R6). -/
abbrev Word := BitVec 64

/-- A byte. -/
abbrev Byte := BitVec 8

/-- A 512-bit vector register (R89). -/
abbrev Vec := BitVec 512

/-- A null mark per byte of a vector token (R140). -/
abbrev NullMask := BitVec 64

end Sys2Proof
end

