-- ==== Sys2Proof/Config.lean ====
section
/-!
DEFINITION. Config: the constants of the Juham that the chapters give, and the values the spec leaves open, as opaque
constants without a body: no proof sees what they are (log entries 5, 6, 15).
-/
namespace Sys2Proof.Config

/-- A value the spec does not state, one for each count of State.fresh (log entry 5). -/
opaque freeWord : Nat → BitVec 64

/-- The value of a special function where the model's enclosure does not decide the rounding (log entry 15). -/
opaque freeSfu : Nat → BitVec 32 → BitVec 32

/-- Whether a signature verifies with ML-DSA-87: key, digest of what is signed, signature (R9, R375, R387, R388, R391, R395, R397; log
entry 6). -/
opaque sigOk : Nat → BitVec 512 → List (BitVec 8) → Bool

/-- The key that signs firmware (R395; log entry 6). -/
opaque vendorKey : Nat

/-- Whether an image's signature verifies for a tenant: tenant, key identifier of its note, digest, signature (R9, R80; log entry 6). -/
opaque imageOk : Nat → BitVec 64 → BitVec 512 → List (BitVec 8) → Bool

/-- The bytes of the signature of the device identity key over some bytes (R9, R386; log entry 6). -/
opaque signature : List (BitVec 8) → Nat → BitVec 8

/-- The words of the device identity public key (R387; log entry 6). -/
opaque identityKey : Nat → BitVec 64

/-- Whether another package lacks a launch queue of a tenant: package, tenant, queue (R275; log entry 24). -/
opaque lacksQueue : Nat → Nat → Nat → Bool

/-- The issue cycles of a power window that a core's share of a package limit, in amperes, allows (R404; log entry 7). -/
opaque coreShare : Nat → Nat

/-- Clks of a Weave slot and slots of a frame (R372). -/
def slotClk : Nat := 16384
/-- Clks of a frame (R372). -/
def frameClk : Nat := 1048576
/-- Drain budget after a slot edge (R38). -/
def drainClk : Nat := 2048
/-- Resend interval of NACKed requests (R187, R254, R285, R287, R298, R306, R370). -/
def resendClk : Nat := 256
/-- Resend interval of a NACKed TLB miss (R194). -/
def walkResendClk : Nat := 64
/-- Clks of message wait before a swap (R263). -/
def swapClk : Nat := 4096
/-- Heartbeat interval, and silence that makes an agent dead (R278, R396). -/
def beatClk : Nat := 4096
/-- Silence that makes an agent dead (R278, R396). -/
def deadClk : Nat := 16384
/-- Least duration of a first-use trap (R340). -/
def firstUseClk : Nat := 2048
/-- Wait at a Hoop before a gang mma is dropped (R313). -/
def hoopClk : Nat := 65536
/-- Idle clks before donation (R381). -/
def donateClk : Nat := 256
/-- Power window (R404). -/
def windowClk : Nat := 256

/-- Device identity of this part: counter 0x03FF (Table 23.9). -/
def eventSet : BitVec 64 := 0x96000001

end Sys2Proof.Config
end

