-- ==== Sys2Proof/Machine/Digest.lean ====
section
/-!
DEFINITION. Machine/Digest: SHA3-512 (R9, R386), as the published standard has it (PRESUMED: the spec names it and does not write it
out; log entry 6).
-/
namespace Sys2Proof.Machine

/-- The walk that visits the 24 lanes other than lane 0, from column 1 of row 0 on: column y of row 2x + 3y comes after column x of
row y; the lane of step t is turned by the triangular number (t + 1)(t + 2)/2. Answers pairs of lane number and turn. -/
def spongeWalk : Nat → Nat → Nat → List (Nat × Nat)
  | 0, _, _ => []
  | k + 1, x, y => (x + 5 * y, (25 - (k + 1) + 1) * (25 - (k + 1)) / 2 % 64) :: spongeWalk k y ((2 * x + 3 * y) % 5)

/-- How far a lane is turned; lane 0 is not on the walk and keeps its place. -/
def turnOf (i : Nat) : Nat := ((spongeWalk 24 1 0).find? (·.1 = i)).elim 0 (·.2)

/-- The turns of the 25 lanes in order. -/
def turns : List Nat := (List.range 25).map turnOf

/-- The 8-bit feedback register that makes the round constants: its polynomial is x^8 + x^6 + x^5 + x^4 + 1. -/
def nextSeed (r : Nat) : Nat := if 2 * r < 256 then 2 * r else (2 * r) ^^^ 0x171

/-- The round constant that seven bits of the register give, bit j of them standing at bit 2^j - 1, and the register after them. -/
def seedWord : Nat → Nat → Nat × Nat
  | 0, r => (0, r)
  | k + 1, r => let (w, r') := seedWord k (nextSeed r); (w + (if r % 2 = 1 then 2 ^ (2 ^ (6 - k) - 1) else 0), r')

/-- The constants of k rounds, from a state of the register on. -/
def seedWords : Nat → Nat → List Word
  | 0, _ => []
  | k + 1, r => let (w, r') := seedWord 7 r; BitVec.ofNat 64 w :: seedWords k r'

/-- Lane in column x of row y, both counted modulo 5. -/
def digestLane (a : List Word) (x y : Nat) : Word := a.getD (x % 5 + 5 * (y % 5)) 0

/-- The parity of a column. -/
def parity (a : List Word) (x : Nat) : Word := (List.range 5).foldl (fun w y => w ^^^ digestLane a x y) 0

/-- Every lane takes in the parities of the two columns beside it. -/
def mixColumns (a : List Word) : List Word :=
  let ps := (List.range 5).map (parity a)
  let d := (List.range 5).map fun x => ps.getD ((x + 4) % 5) 0 ^^^ (ps.getD ((x + 1) % 5) 0).rotateLeft 1
  a.mapIdx fun i v => v ^^^ d.getD (i % 5) 0

/-- Every lane is turned and moves: what comes to column x of row y was in column x + 3y of row x. -/
def scatter (a : List Word) : List Word :=
  let moved := a.mapIdx fun i v => v.rotateLeft (turns.getD i 0)
  (List.range 25).map fun i => digestLane moved (i % 5 + 3 * (i / 5)) (i % 5)

/-- Every lane takes in the two lanes after it in its row. -/
def mixRows (a : List Word) : List Word :=
  a.mapIdx fun i v => v ^^^ (digestLane a (i % 5 + 2) (i / 5) &&& ~~~ digestLane a (i % 5 + 1) (i / 5))

/-- One round, with its constant. -/
def spongeRound (a : List Word) (k : Word) : List Word :=
  (mixRows (scatter (mixColumns a))).mapIdx fun i v => if i = 0 then v ^^^ k else v

/-- The lane of eight bytes, lowest first. -/
def lane64 (bs : List Byte) : Word := BitVec.ofNat 64 (bs.foldr (fun b n => b.toNat + 256 * n) 0)

/-- Takes in a padded message, 72 bytes at a time, into lanes 0 to 8. -/
def absorb : Nat → List Word → List Byte → List Word
  | 0, a, _ => a
  | n + 1, a, bs =>
    let taken := a.mapIdx fun i v => if i < 9 then v ^^^ lane64 ((bs.drop (8 * i)).take 8) else v
    absorb n ((seedWords 24 1).foldl spongeRound taken) (bs.drop 72)

/-- SHA3-512, byte 0 in bits 7:0: the padding of a message begins with bits 011 and ends with the last bit of its block. -/
def sha3 (bs : List Byte) : BitVec 512 :=
  let blocks := bs.length / 72 + 1
  let gap := 72 * blocks - bs.length
  let pad : List Byte := (List.range gap).map fun i => (if i = 0 then 0x06 else 0) ||| (if i + 1 = gap then 0x80 else 0)
  let a := absorb blocks (List.replicate 25 0) (bs ++ pad)
  (List.range 8).foldl (fun r i => r ||| (a.getD i 0).setWidth 512 <<< (64 * i)) 0

end Sys2Proof.Machine
end

