-- ==== Sys2Proof/Syntax.lean ====
section
/-!
DEFINITION. Syntax: the instructions and device steps of the Juham, one constructor of Instr per row of
spec/opcode_table.json, and the operands an instruction carries (03_encoding_and_opcode_map, Tables 3.3 to 3.8). A row is
named by its constructor; what an encoded instruction holds besides its row (its FN, predicate mode, immediate, LSID
parcel, selector, result parcels, literal) is the structure Operands, one shape for every class of tails (R45), and an
instruction of a block is the pair, Insn. The constructors carry no fields because the compiler bounds the number of
constructors that do below the 407 rows of the table.
-/
namespace Sys2Proof

/-- Predicate mode (R19, Table 2.1). PM = 01 is no constructor: it is an illegal encoding. -/
inductive PM where | always | ifTrue | ifFalse
deriving DecidableEq, Repr

/-- Operand slots a target byte can name (R44, Table 3.3). Slot c of a three-input form is slot a of its opx (R48). -/
inductive OpSlot where | a | b | p
deriving DecidableEq, Repr

/-- A target byte: the consumer's index and its slot (R44). -/
structure Tgt where
  idx : BitVec 6
  slot : OpSlot
deriving DecidableEq, Repr

/-- A result parcel: two target bytes, either of which may be 0xFF, "no target" (R44). -/
structure RP where
  fst : Option Tgt
  snd : Option Tgt
deriving DecidableEq, Repr

/-- Integer conditions (Table 3.7). -/
inductive Cc where | eq | ne | ltS | leS | gtS | geS | ltU | leU | gtU | geU | tst | tstn
deriving DecidableEq, Repr

/-- Lane conditions of vicmp (Table 8.5). -/
inductive Vcc where | eq | ne | ltS | leS | ltU | leU | tst
deriving DecidableEq, Repr

/-- FP conditions (Table 3.7). -/
inductive Fc where | eq | ne | lt | le | gt | ge | un | ord
deriving DecidableEq, Repr

/-- FP lane types (Table 3.7, T). -/
inductive FpT where | s | h | bf
deriving DecidableEq, Repr

/-- Integer lane widths (Table 3.7, W). -/
inductive IW where | b | h | w | d
deriving DecidableEq, Repr

/-- Scopes (Table 3.7). -/
inductive Scope where | slot | core | quad | die | pkg | sys
deriving DecidableEq, Repr

/-- Conversions, named destination then source (Table 3.7). -/
inductive Cv where | hS | bfS | sH | sBf | e4S | e5S | sE4 | sE5 | wS | lS | sW | sL
deriving DecidableEq, Repr

/-- Every row of spec/opcode_table.json: the device's own steps and the instruction forms of Table 3.8. -/
inductive Instr where
  | powerGood
  | stageReached
  | coreReset
  | blockDecode
  | blockCommit
  | resumeFill
  | invalidationReceived
  | memoryReply
  | storeQueueDepart
  | homeStoreAccept
  | wideningDrain
  | homeFeRequest
  | waitRetryTimer
  | homeAmo
  | homeCas
  | rd
  | wr
  | sa
  | rrd
  | evict
  | replw
  | acki
  | acku
  | rack
  | walkRequest
  | walkResend
  | walkDone
  | mapEngineRequest
  | descriptorCount
  | splitStep
  | migrationArrival
  | migrationResend
  | arrivalQueueAdvance
  | slotFill
  | contextDisplace
  | messageWaitSwap
  | deliver
  | sendResend
  | handlerStart
  | spawnRequest
  | spawnwResend
  | setJoinHome
  | setLeaveHome
  | barrierArrive
  | gjoinRefused
  | launchRecordAccept
  | launchRequestAccept
  | launchResend
  | dispatchBegin
  | grantRequest
  | grant
  | grantComplete
  | heartbeat
  | dieDead
  | egoFrontEnd
  | egoResend
  | tailwFill
  | arbiterStart
  | copy
  | reduceAdd
  | multicast
  | compress
  | engineCommandComplete
  | ecfgSet
  | ecfgResume
  | ecancelRequest
  | mmaCommand
  | mmaResult
  | mzeroCommand
  | mstRead
  | hoopStart
  | hoopTimeout
  | firstUseTrapEnd
  | slotEdge
  | slotHandover
  | overrun
  | donation
  | frameBoundary
  | logSeal
  | powerWindow
  | pmbusLimit
  | set
  | remapCore
  | remapVault
  | remapSlice
  | range
  | weave
  | policy
  | unfence
  | attest
  | window
  | diefence
  | diejoin
  | chanrecal
  | fwstage
  | fwswitch
  | pair
  | rect
  | debugSetBreakpoint
  | debugClearBreakpoint
  | debugStop
  | debugResume
  | debugReadRegisters
  | debugWriteRegisters
  | trace
  | ptloadLidAnswer
  | handleRead
  | handleWrite
  | handleFill
  | rimAccess
  | rimPortFail
  | tamperMeshBreak
  | voltageGlitch
  | clockGlitch
  | uncorrectableError
  | read
  | write
  | movi
  | moviL
  | movl
  | mov
  | null
  | enter
  | leave
  | br
  | call
  | jmp
  | callr
  | ret
  | halt
  | opx
  | add
  | sub
  | neg
  | addW
  | subW
  | addsS
  | subsS
  | addsU
  | subsU
  | addi
  | mul
  | mulhS
  | mulhU
  | mulW
  | divS
  | divU
  | remS
  | remU
  | and
  | or
  | xor
  | andn
  | orn
  | xnor
  | not
  | andi
  | ori
  | xori
  | shl
  | shr
  | sar
  | rol
  | ror
  | shli
  | shri
  | sari
  | roli
  | rori
  | clz
  | ctz
  | popc
  | brev
  | bswap
  | sextB
  | sextH
  | sextW
  | zextB
  | zextH
  | zextW
  | bfxU
  | bfxS
  | bfi
  | minS
  | maxS
  | minU
  | maxU
  | cmp
  | cmpi
  | sel
  | pand
  | por
  | pxor
  | pnot
  | packp
  | unpkp
  | addsc
  | fadd
  | fsub
  | fmul
  | fdiv
  | fmin
  | fmax
  | fsqrt
  | fabs
  | fneg
  | fcpys
  | fma
  | fms
  | fnma
  | fnms
  | fcmp
  | fcvt
  | fclass
  | fseed
  | vfadd
  | vfsub
  | vfmul
  | vfdiv
  | vfmin
  | vfmax
  | vfabs
  | vfneg
  | vfma
  | vfms
  | vfnma
  | vfnms
  | vfcmp
  | vadd
  | vsub
  | vmul
  | vminS
  | vmaxS
  | vminU
  | vmaxU
  | vabsd
  | vaddsS
  | vaddsU
  | vsubsS
  | vsubsU
  | vand
  | vor
  | vxor
  | vandn
  | vnot
  | vshl
  | vshr
  | vsar
  | vicmp
  | vsel
  | vredRsumF
  | vredRmaxF
  | vredRminF
  | vredRsumW
  | vredRsumD
  | vredRmaxW
  | vredRminW
  | vperm
  | vshuf
  | vrot
  | vzipLo
  | vzipHi
  | vuzpEv
  | vuzpOd
  | vbcast
  | vext
  | vins
  | vcvt
  | vdotSs
  | vdotSu
  | vdotUu
  | vexp2
  | vlog2
  | vrcp
  | vrsqrt
  | vsin
  | vcos
  | vtanh
  | vsigm
  | verf
  | tunpk
  | vpackHW
  | vpackBW
  | vpackBH
  | vunpkHB
  | vunpkWB
  | vunpkWH
  | vunpkHBu
  | vunpkWBu
  | vunpkWHu
  | vpand
  | vpor
  | vpxor
  | vpnot
  | vpcnt
  | vpfirst
  | sbind
  | sfree
  | sstat
  | vmovi
  | ldB
  | ldBu
  | ldH
  | ldHu
  | ldW
  | ldWu
  | ldD
  | stB
  | stH
  | stW
  | stD
  | ldacqW
  | ldacqWu
  | ldacqD
  | strelW
  | strelD
  | vld
  | vldb
  | vgathW
  | vgathD
  | vst
  | vscatW
  | vscatD
  | ldfw
  | ldfwe
  | ldfn
  | ldfne
  | stfw
  | stfn
  | fepurge
  | fefill
  | amoSwap
  | amoAdd
  | amoAnd
  | amoOr
  | amoXor
  | amoMinS
  | amoMaxS
  | amoMaxU
  | casW
  | casD
  | casQ
  | fenceAcq
  | fenceRel
  | fenceFull
  | harvest
  | mprobe
  | minsert
  | mupsert
  | mremove
  | mcreate
  | mdestroy
  | mstat
  | migr
  | spawn
  | spawnw
  | send
  | sendNw
  | recv
  | recvNw
  | mkcont
  | yield
  | gnew
  | gjoin
  | gleave
  | bar
  | barNw
  | launch
  | launchi
  | mgath
  | mldb
  | mmaEfp8
  | mmaE4
  | mmaE5
  | mmaI8
  | mmaBf
  | mmaH
  | mzero
  | mst
  | mstBf
  | mgang
  | ecfg
  | ego
  | ecancel
  | brk
  | tlbinv
  | tlbinva
  | dcflush
  | dcinv
  | icinv
  | ptload
  | ctrrd
  | svc
  | trap
  | eret
  | srrd
  | srwr
  | srPartPre
  | remapReissue
  | rimPortUp
  | backInService
  | firmwareSwitched
  | rateQuotaCrossed
  | signedImageLoad
  | frameAssign
  | tenantCreate
  | partitionCreate
deriving DecidableEq, Repr

/-- What an encoded instruction holds besides its row (R42 to R48): FN, predicate mode, the immediate or displacement,
the LSID parcel (LSID and OFF), the MS selector, the result parcels in order, and the literal of movl. A field that the
form's class does not have is zero or empty. -/
structure Operands where
  fn : BitVec 5
  pm : PM
  imm : BitVec 32
  lsid : BitVec 4
  off : BitVec 12
  sel : BitVec 16
  outs : List RP
  lit : BitVec 64
deriving DecidableEq, Repr

/-- An instruction of a block: its row and its operands. -/
structure Insn where
  row : Instr
  x : Operands
deriving DecidableEq, Repr

end Sys2Proof
end

