-- ==== Sys2Proof/WellFormed.lean ====
section
/-!
DEFINITION. WellFormed: Table 3.8 as a table of forms, and which instructions an encoding can carry (R44 to R48, R55):
an FN of the row, result parcels within the class, first targets present in single-result forms, reserved bits of
immediates zero, OFF zero where the form has none.
-/
namespace Sys2Proof

/-- Tail classes (R45, Table 3.4). -/
inductive Cls where | n | t | t2 | i16 | i16x | i32 | d | m | m2 | ms
deriving DecidableEq, Repr

/-- The reserved parts of a form's immediate or parcels (R46, R48, R149, R282): any value; only the low bits; eight
copies of bit 7 above a byte when W is .b; PM 00 only (opx); primary result parcel 0xFFFF (bar.nw). -/
inductive ImmRule where | any | low (n : Nat) | vmovi | opx | statusOnly
deriving DecidableEq, Repr

/-- One row of Table 3.8: OP, its FN values, tail class, most result parcels, whether every result parcel must name a
first target, data slots a, b, c used, whether OFF may be non-zero, and the rule of its immediate. -/
structure Form where
  op : Nat
  fns : List Nat
  cls : Cls
  maxR : Nat
  single : Bool
  a : Bool
  b : Bool
  c : Bool
  off : Bool
  imm : ImmRule
deriving DecidableEq, Repr

/-- The form of an instruction row (Table 3.8 and the tables of the instruction chapters); none for a device step. -/
def Instr.form : Instr → Option Form
  | .powerGood => none
  | .stageReached => none
  | .coreReset => none
  | .blockDecode => none
  | .blockCommit => none
  | .resumeFill => none
  | .invalidationReceived => none
  | .memoryReply => none
  | .storeQueueDepart => none
  | .homeStoreAccept => none
  | .wideningDrain => none
  | .homeFeRequest => none
  | .waitRetryTimer => none
  | .homeAmo => none
  | .homeCas => none
  | .rd => none
  | .wr => none
  | .sa => none
  | .rrd => none
  | .evict => none
  | .replw => none
  | .acki => none
  | .acku => none
  | .rack => none
  | .walkRequest => none
  | .walkResend => none
  | .walkDone => none
  | .mapEngineRequest => none
  | .descriptorCount => none
  | .splitStep => none
  | .migrationArrival => none
  | .migrationResend => none
  | .arrivalQueueAdvance => none
  | .slotFill => none
  | .contextDisplace => none
  | .messageWaitSwap => none
  | .deliver => none
  | .sendResend => none
  | .handlerStart => none
  | .spawnRequest => none
  | .spawnwResend => none
  | .setJoinHome => none
  | .setLeaveHome => none
  | .barrierArrive => none
  | .gjoinRefused => none
  | .launchRecordAccept => none
  | .launchRequestAccept => none
  | .launchResend => none
  | .dispatchBegin => none
  | .grantRequest => none
  | .grant => none
  | .grantComplete => none
  | .heartbeat => none
  | .dieDead => none
  | .egoFrontEnd => none
  | .egoResend => none
  | .tailwFill => none
  | .arbiterStart => none
  | .copy => none
  | .reduceAdd => none
  | .multicast => none
  | .compress => none
  | .engineCommandComplete => none
  | .ecfgSet => none
  | .ecfgResume => none
  | .ecancelRequest => none
  | .mmaCommand => none
  | .mmaResult => none
  | .mzeroCommand => none
  | .mstRead => none
  | .hoopStart => none
  | .hoopTimeout => none
  | .firstUseTrapEnd => none
  | .slotEdge => none
  | .slotHandover => none
  | .overrun => none
  | .donation => none
  | .frameBoundary => none
  | .logSeal => none
  | .powerWindow => none
  | .pmbusLimit => none
  | .set => none
  | .remapCore => none
  | .remapVault => none
  | .remapSlice => none
  | .range => none
  | .weave => none
  | .policy => none
  | .unfence => none
  | .attest => none
  | .window => none
  | .diefence => none
  | .diejoin => none
  | .chanrecal => none
  | .fwstage => none
  | .fwswitch => none
  | .pair => none
  | .rect => none
  | .debugSetBreakpoint => none
  | .debugClearBreakpoint => none
  | .debugStop => none
  | .debugResume => none
  | .debugReadRegisters => none
  | .debugWriteRegisters => none
  | .trace => none
  | .ptloadLidAnswer => none
  | .handleRead => none
  | .handleWrite => none
  | .handleFill => none
  | .rimAccess => none
  | .rimPortFail => none
  | .tamperMeshBreak => none
  | .voltageGlitch => none
  | .clockGlitch => none
  | .uncorrectableError => none
  | .read => some ⟨0x00, List.range 24, .t, 3, true, false, false, false, false, .any⟩
  | .write => some ⟨0x01, List.range 24, .n, 0, false, true, false, false, false, .any⟩
  | .movi => some ⟨0x02, [0], .i16, 2, true, false, false, false, false, .any⟩
  | .moviL => some ⟨0x02, [1], .i32, 1, true, false, false, false, false, .any⟩
  | .movl => some ⟨0x03, [0, 4, 8, 12, 16, 20, 24, 28], .t, 3, true, false, false, false, false, .any⟩
  | .mov => some ⟨0x04, [0], .t, 3, true, true, false, false, false, .any⟩
  | .null => some ⟨0x04, [1], .t, 3, true, false, false, false, false, .any⟩
  | .enter => some ⟨0x05, List.range 32, .t, 3, true, true, false, false, false, .any⟩
  | .leave => some ⟨0x06, List.range 32, .t, 3, true, true, false, false, false, .any⟩
  | .br => some ⟨0x07, [0, 1, 2, 3], .d, 0, false, false, false, false, false, .any⟩
  | .call => some ⟨0x08, [0, 1, 2, 3], .d, 0, false, false, false, false, false, .any⟩
  | .jmp => some ⟨0x09, [0, 1, 2, 3], .n, 0, false, true, false, false, false, .any⟩
  | .callr => some ⟨0x0A, [0, 1, 2, 3], .n, 0, false, true, false, false, false, .any⟩
  | .ret => some ⟨0x0B, [0, 1, 2, 3], .n, 0, false, true, false, false, false, .any⟩
  | .halt => some ⟨0x0C, [0, 1, 2, 3], .n, 0, false, false, false, false, false, .any⟩
  | .opx => some ⟨0x0D, [0], .n, 0, false, true, false, false, false, .opx⟩
  | .add => some ⟨0x10, [0], .t, 3, true, true, true, false, false, .any⟩
  | .sub => some ⟨0x10, [1], .t, 3, true, true, true, false, false, .any⟩
  | .neg => some ⟨0x10, [2], .t, 3, true, true, false, false, false, .any⟩
  | .addW => some ⟨0x10, [3], .t, 3, true, true, true, false, false, .any⟩
  | .subW => some ⟨0x10, [4], .t, 3, true, true, true, false, false, .any⟩
  | .addsS => some ⟨0x10, [5], .t, 3, true, true, true, false, false, .any⟩
  | .subsS => some ⟨0x10, [6], .t, 3, true, true, true, false, false, .any⟩
  | .addsU => some ⟨0x10, [7], .t, 3, true, true, true, false, false, .any⟩
  | .subsU => some ⟨0x10, [8], .t, 3, true, true, true, false, false, .any⟩
  | .addi => some ⟨0x11, [0], .i16, 2, true, true, false, false, false, .any⟩
  | .mul => some ⟨0x12, [0], .t, 3, true, true, true, false, false, .any⟩
  | .mulhS => some ⟨0x12, [1], .t, 3, true, true, true, false, false, .any⟩
  | .mulhU => some ⟨0x12, [2], .t, 3, true, true, true, false, false, .any⟩
  | .mulW => some ⟨0x12, [3], .t, 3, true, true, true, false, false, .any⟩
  | .divS => some ⟨0x13, [0], .t, 3, true, true, true, false, false, .any⟩
  | .divU => some ⟨0x13, [1], .t, 3, true, true, true, false, false, .any⟩
  | .remS => some ⟨0x13, [2], .t, 3, true, true, true, false, false, .any⟩
  | .remU => some ⟨0x13, [3], .t, 3, true, true, true, false, false, .any⟩
  | .and => some ⟨0x14, [0], .t, 3, true, true, true, false, false, .any⟩
  | .or => some ⟨0x14, [1], .t, 3, true, true, true, false, false, .any⟩
  | .xor => some ⟨0x14, [2], .t, 3, true, true, true, false, false, .any⟩
  | .andn => some ⟨0x14, [3], .t, 3, true, true, true, false, false, .any⟩
  | .orn => some ⟨0x14, [4], .t, 3, true, true, true, false, false, .any⟩
  | .xnor => some ⟨0x14, [5], .t, 3, true, true, true, false, false, .any⟩
  | .not => some ⟨0x14, [6], .t, 3, true, true, false, false, false, .any⟩
  | .andi => some ⟨0x15, [0], .i16, 2, true, true, false, false, false, .any⟩
  | .ori => some ⟨0x15, [1], .i16, 2, true, true, false, false, false, .any⟩
  | .xori => some ⟨0x15, [2], .i16, 2, true, true, false, false, false, .any⟩
  | .shl => some ⟨0x16, [0], .t, 3, true, true, true, false, false, .any⟩
  | .shr => some ⟨0x16, [1], .t, 3, true, true, true, false, false, .any⟩
  | .sar => some ⟨0x16, [2], .t, 3, true, true, true, false, false, .any⟩
  | .rol => some ⟨0x16, [3], .t, 3, true, true, true, false, false, .any⟩
  | .ror => some ⟨0x16, [4], .t, 3, true, true, true, false, false, .any⟩
  | .shli => some ⟨0x17, [0], .i16, 2, true, true, false, false, false, .low 6⟩
  | .shri => some ⟨0x17, [1], .i16, 2, true, true, false, false, false, .low 6⟩
  | .sari => some ⟨0x17, [2], .i16, 2, true, true, false, false, false, .low 6⟩
  | .roli => some ⟨0x17, [3], .i16, 2, true, true, false, false, false, .low 6⟩
  | .rori => some ⟨0x17, [4], .i16, 2, true, true, false, false, false, .low 6⟩
  | .clz => some ⟨0x18, [0], .t, 3, true, true, false, false, false, .any⟩
  | .ctz => some ⟨0x18, [1], .t, 3, true, true, false, false, false, .any⟩
  | .popc => some ⟨0x18, [2], .t, 3, true, true, false, false, false, .any⟩
  | .brev => some ⟨0x18, [3], .t, 3, true, true, false, false, false, .any⟩
  | .bswap => some ⟨0x18, [4], .t, 3, true, true, false, false, false, .any⟩
  | .sextB => some ⟨0x18, [5], .t, 3, true, true, false, false, false, .any⟩
  | .sextH => some ⟨0x18, [6], .t, 3, true, true, false, false, false, .any⟩
  | .sextW => some ⟨0x18, [7], .t, 3, true, true, false, false, false, .any⟩
  | .zextB => some ⟨0x18, [8], .t, 3, true, true, false, false, false, .any⟩
  | .zextH => some ⟨0x18, [9], .t, 3, true, true, false, false, false, .any⟩
  | .zextW => some ⟨0x18, [10], .t, 3, true, true, false, false, false, .any⟩
  | .bfxU => some ⟨0x19, [0], .i16, 2, true, true, false, false, false, .low 12⟩
  | .bfxS => some ⟨0x19, [1], .i16, 2, true, true, false, false, false, .low 12⟩
  | .bfi => some ⟨0x1A, [0], .i16, 2, true, true, true, false, false, .low 12⟩
  | .minS => some ⟨0x1B, [0], .t, 3, true, true, true, false, false, .any⟩
  | .maxS => some ⟨0x1B, [1], .t, 3, true, true, true, false, false, .any⟩
  | .minU => some ⟨0x1B, [2], .t, 3, true, true, true, false, false, .any⟩
  | .maxU => some ⟨0x1B, [3], .t, 3, true, true, true, false, false, .any⟩
  | .cmp => some ⟨0x1C, List.range 12, .t, 3, true, true, true, false, false, .any⟩
  | .cmpi => some ⟨0x1D, List.range 12, .i16, 2, true, true, false, false, false, .any⟩
  | .sel => some ⟨0x1E, [0], .t, 3, true, true, true, true, false, .any⟩
  | .pand => some ⟨0x1F, [0], .t, 3, true, true, true, false, false, .any⟩
  | .por => some ⟨0x1F, [1], .t, 3, true, true, true, false, false, .any⟩
  | .pxor => some ⟨0x1F, [2], .t, 3, true, true, true, false, false, .any⟩
  | .pnot => some ⟨0x1F, [3], .t, 3, true, true, false, false, false, .any⟩
  | .packp => some ⟨0x20, List.range 8, .t, 3, true, true, true, false, false, .any⟩
  | .unpkp => some ⟨0x21, List.range 8, .t, 3, true, true, false, false, false, .any⟩
  | .addsc => some ⟨0x22, List.range 7, .t, 3, true, true, true, false, false, .any⟩
  | .fadd => some ⟨0x30, [0], .t, 3, true, true, true, false, false, .any⟩
  | .fsub => some ⟨0x30, [1], .t, 3, true, true, true, false, false, .any⟩
  | .fmul => some ⟨0x30, [2], .t, 3, true, true, true, false, false, .any⟩
  | .fdiv => some ⟨0x30, [3], .t, 3, true, true, true, false, false, .any⟩
  | .fmin => some ⟨0x30, [4], .t, 3, true, true, true, false, false, .any⟩
  | .fmax => some ⟨0x30, [5], .t, 3, true, true, true, false, false, .any⟩
  | .fsqrt => some ⟨0x30, [6], .t, 3, true, true, false, false, false, .any⟩
  | .fabs => some ⟨0x30, [7], .t, 3, true, true, false, false, false, .any⟩
  | .fneg => some ⟨0x30, [8], .t, 3, true, true, false, false, false, .any⟩
  | .fcpys => some ⟨0x30, [9], .t, 3, true, true, true, false, false, .any⟩
  | .fma => some ⟨0x31, [0], .t, 3, true, true, true, true, false, .any⟩
  | .fms => some ⟨0x31, [1], .t, 3, true, true, true, true, false, .any⟩
  | .fnma => some ⟨0x31, [2], .t, 3, true, true, true, true, false, .any⟩
  | .fnms => some ⟨0x31, [3], .t, 3, true, true, true, true, false, .any⟩
  | .fcmp => some ⟨0x32, List.range 8, .t, 3, true, true, true, false, false, .any⟩
  | .fcvt => some ⟨0x33, List.range 12, .t, 3, true, true, false, false, false, .any⟩
  | .fclass => some ⟨0x34, [0], .t, 3, true, true, false, false, false, .any⟩
  | .fseed => some ⟨0x35, [0], .n, 0, false, true, false, false, false, .any⟩
  | .vfadd => some ⟨0x40, [0, 1, 2], .t, 3, true, true, true, false, false, .any⟩
  | .vfsub => some ⟨0x40, [4, 5, 6], .t, 3, true, true, true, false, false, .any⟩
  | .vfmul => some ⟨0x40, [8, 9, 10], .t, 3, true, true, true, false, false, .any⟩
  | .vfdiv => some ⟨0x40, [12, 13, 14], .t, 3, true, true, true, false, false, .any⟩
  | .vfmin => some ⟨0x40, [16, 17, 18], .t, 3, true, true, true, false, false, .any⟩
  | .vfmax => some ⟨0x40, [20, 21, 22], .t, 3, true, true, true, false, false, .any⟩
  | .vfabs => some ⟨0x40, [24, 25, 26], .t, 3, true, true, false, false, false, .any⟩
  | .vfneg => some ⟨0x40, [28, 29, 30], .t, 3, true, true, false, false, false, .any⟩
  | .vfma => some ⟨0x41, [0, 1, 2], .t, 3, true, true, true, true, false, .any⟩
  | .vfms => some ⟨0x41, [4, 5, 6], .t, 3, true, true, true, true, false, .any⟩
  | .vfnma => some ⟨0x41, [8, 9, 10], .t, 3, true, true, true, true, false, .any⟩
  | .vfnms => some ⟨0x41, [12, 13, 14], .t, 3, true, true, true, true, false, .any⟩
  | .vfcmp => some ⟨0x46, [0, 1, 2, 4, 5, 6, 8, 9, 10, 12, 13, 14, 16, 17, 18, 20, 21, 22, 24, 25, 26, 28, 29, 30], .t, 3, true, true, true, false, false, .any⟩
  | .vadd => some ⟨0x42, [0, 1, 2, 3], .t, 3, true, true, true, false, false, .any⟩
  | .vsub => some ⟨0x42, [4, 5, 6, 7], .t, 3, true, true, true, false, false, .any⟩
  | .vmul => some ⟨0x42, [8, 9, 10, 11], .t, 3, true, true, true, false, false, .any⟩
  | .vminS => some ⟨0x42, [12, 13, 14, 15], .t, 3, true, true, true, false, false, .any⟩
  | .vmaxS => some ⟨0x42, [16, 17, 18, 19], .t, 3, true, true, true, false, false, .any⟩
  | .vminU => some ⟨0x42, [20, 21, 22, 23], .t, 3, true, true, true, false, false, .any⟩
  | .vmaxU => some ⟨0x42, [24, 25, 26, 27], .t, 3, true, true, true, false, false, .any⟩
  | .vabsd => some ⟨0x42, [28, 29, 30, 31], .t, 3, true, true, true, false, false, .any⟩
  | .vaddsS => some ⟨0x43, [0, 1, 2, 3], .t, 3, true, true, true, false, false, .any⟩
  | .vaddsU => some ⟨0x43, [4, 5, 6, 7], .t, 3, true, true, true, false, false, .any⟩
  | .vsubsS => some ⟨0x43, [8, 9, 10, 11], .t, 3, true, true, true, false, false, .any⟩
  | .vsubsU => some ⟨0x43, [12, 13, 14, 15], .t, 3, true, true, true, false, false, .any⟩
  | .vand => some ⟨0x44, [0], .t, 3, true, true, true, false, false, .any⟩
  | .vor => some ⟨0x44, [1], .t, 3, true, true, true, false, false, .any⟩
  | .vxor => some ⟨0x44, [2], .t, 3, true, true, true, false, false, .any⟩
  | .vandn => some ⟨0x44, [3], .t, 3, true, true, true, false, false, .any⟩
  | .vnot => some ⟨0x44, [4], .t, 3, true, true, false, false, false, .any⟩
  | .vshl => some ⟨0x45, [0, 1, 2, 3], .t, 3, true, true, true, false, false, .any⟩
  | .vshr => some ⟨0x45, [4, 5, 6, 7], .t, 3, true, true, true, false, false, .any⟩
  | .vsar => some ⟨0x45, [8, 9, 10, 11], .t, 3, true, true, true, false, false, .any⟩
  | .vicmp => some ⟨0x47, List.range 28, .t, 3, true, true, true, false, false, .any⟩
  | .vsel => some ⟨0x48, [0], .t, 3, true, true, true, true, false, .any⟩
  | .vredRsumF => some ⟨0x49, [0], .t, 3, true, true, false, false, false, .any⟩
  | .vredRmaxF => some ⟨0x49, [1], .t, 3, true, true, false, false, false, .any⟩
  | .vredRminF => some ⟨0x49, [2], .t, 3, true, true, false, false, false, .any⟩
  | .vredRsumW => some ⟨0x49, [3], .t, 3, true, true, false, false, false, .any⟩
  | .vredRsumD => some ⟨0x49, [4], .t, 3, true, true, false, false, false, .any⟩
  | .vredRmaxW => some ⟨0x49, [5], .t, 3, true, true, false, false, false, .any⟩
  | .vredRminW => some ⟨0x49, [6], .t, 3, true, true, false, false, false, .any⟩
  | .vperm => some ⟨0x4A, [0], .t, 3, true, true, true, false, false, .any⟩
  | .vshuf => some ⟨0x4A, [1], .i16, 2, true, true, false, false, false, .low 8⟩
  | .vrot => some ⟨0x4A, [2], .i16, 2, true, true, false, false, false, .low 6⟩
  | .vzipLo => some ⟨0x4A, [3], .t, 3, true, true, true, false, false, .any⟩
  | .vzipHi => some ⟨0x4A, [4], .t, 3, true, true, true, false, false, .any⟩
  | .vuzpEv => some ⟨0x4A, [5], .t, 3, true, true, true, false, false, .any⟩
  | .vuzpOd => some ⟨0x4A, [6], .t, 3, true, true, true, false, false, .any⟩
  | .vbcast => some ⟨0x4B, [0, 1, 2, 3], .t, 3, true, true, false, false, false, .any⟩
  | .vext => some ⟨0x4C, [0, 1, 2, 3], .t, 3, true, true, true, false, false, .any⟩
  | .vins => some ⟨0x4C, [4, 5, 6, 7], .t, 3, true, true, true, true, false, .any⟩
  | .vcvt => some ⟨0x4D, List.range 12, .t, 3, true, true, false, false, false, .any⟩
  | .vdotSs => some ⟨0x4E, [0], .t, 3, true, true, true, true, false, .any⟩
  | .vdotSu => some ⟨0x4E, [1], .t, 3, true, true, true, true, false, .any⟩
  | .vdotUu => some ⟨0x4E, [2], .t, 3, true, true, true, true, false, .any⟩
  | .vexp2 => some ⟨0x4F, [0], .t, 3, true, true, false, false, false, .any⟩
  | .vlog2 => some ⟨0x4F, [1], .t, 3, true, true, false, false, false, .any⟩
  | .vrcp => some ⟨0x4F, [2], .t, 3, true, true, false, false, false, .any⟩
  | .vrsqrt => some ⟨0x4F, [3], .t, 3, true, true, false, false, false, .any⟩
  | .vsin => some ⟨0x4F, [4], .t, 3, true, true, false, false, false, .any⟩
  | .vcos => some ⟨0x4F, [5], .t, 3, true, true, false, false, false, .any⟩
  | .vtanh => some ⟨0x4F, [6], .t, 3, true, true, false, false, false, .any⟩
  | .vsigm => some ⟨0x4F, [7], .t, 3, true, true, false, false, false, .any⟩
  | .verf => some ⟨0x4F, [8], .t, 3, true, true, false, false, false, .any⟩
  | .tunpk => some ⟨0x50, [0], .t, 3, true, true, false, false, false, .any⟩
  | .vpackHW => some ⟨0x51, [0], .t, 3, true, true, false, false, false, .any⟩
  | .vpackBW => some ⟨0x51, [1], .t, 3, true, true, false, false, false, .any⟩
  | .vpackBH => some ⟨0x51, [2], .t, 3, true, true, false, false, false, .any⟩
  | .vunpkHB => some ⟨0x51, [3], .t, 3, true, true, false, false, false, .any⟩
  | .vunpkWB => some ⟨0x51, [4], .t, 3, true, true, false, false, false, .any⟩
  | .vunpkWH => some ⟨0x51, [5], .t, 3, true, true, false, false, false, .any⟩
  | .vunpkHBu => some ⟨0x51, [6], .t, 3, true, true, false, false, false, .any⟩
  | .vunpkWBu => some ⟨0x51, [7], .t, 3, true, true, false, false, false, .any⟩
  | .vunpkWHu => some ⟨0x51, [8], .t, 3, true, true, false, false, false, .any⟩
  | .vpand => some ⟨0x52, [0], .t, 3, true, true, true, false, false, .any⟩
  | .vpor => some ⟨0x52, [1], .t, 3, true, true, true, false, false, .any⟩
  | .vpxor => some ⟨0x52, [2], .t, 3, true, true, true, false, false, .any⟩
  | .vpnot => some ⟨0x52, [3], .t, 3, true, true, false, false, false, .any⟩
  | .vpcnt => some ⟨0x52, [4], .t, 3, true, true, false, false, false, .any⟩
  | .vpfirst => some ⟨0x52, [5], .t, 3, true, true, false, false, false, .any⟩
  | .sbind => some ⟨0x53, [0, 1], .n, 0, false, true, false, false, false, .any⟩
  | .sfree => some ⟨0x53, [2, 3], .n, 0, false, false, false, false, false, .any⟩
  | .sstat => some ⟨0x53, [4, 5], .t, 3, true, false, false, false, false, .any⟩
  | .vmovi => some ⟨0x54, [0, 1, 2, 3], .i16, 2, true, false, false, false, false, .vmovi⟩
  | .ldB => some ⟨0x60, [0], .m, 2, true, true, false, false, true, .any⟩
  | .ldBu => some ⟨0x60, [1], .m, 2, true, true, false, false, true, .any⟩
  | .ldH => some ⟨0x60, [2], .m, 2, true, true, false, false, true, .any⟩
  | .ldHu => some ⟨0x60, [3], .m, 2, true, true, false, false, true, .any⟩
  | .ldW => some ⟨0x60, [4], .m, 2, true, true, false, false, true, .any⟩
  | .ldWu => some ⟨0x60, [5], .m, 2, true, true, false, false, true, .any⟩
  | .ldD => some ⟨0x60, [6], .m, 2, true, true, false, false, true, .any⟩
  | .stB => some ⟨0x61, [0], .m, 0, true, true, true, false, true, .any⟩
  | .stH => some ⟨0x61, [1], .m, 0, true, true, true, false, true, .any⟩
  | .stW => some ⟨0x61, [2], .m, 0, true, true, true, false, true, .any⟩
  | .stD => some ⟨0x61, [3], .m, 0, true, true, true, false, true, .any⟩
  | .ldacqW => some ⟨0x62, [0, 4, 8, 12, 16, 20], .m, 2, true, true, false, false, true, .any⟩
  | .ldacqWu => some ⟨0x62, [1, 5, 9, 13, 17, 21], .m, 2, true, true, false, false, true, .any⟩
  | .ldacqD => some ⟨0x62, [2, 6, 10, 14, 18, 22], .m, 2, true, true, false, false, true, .any⟩
  | .strelW => some ⟨0x63, [0, 4, 8, 12, 16, 20], .m, 0, true, true, true, false, true, .any⟩
  | .strelD => some ⟨0x63, [1, 5, 9, 13, 17, 21], .m, 0, true, true, true, false, true, .any⟩
  | .vld => some ⟨0x64, [0], .m, 2, true, true, false, false, true, .any⟩
  | .vldb => some ⟨0x64, [1], .m, 2, true, true, false, false, true, .any⟩
  | .vgathW => some ⟨0x64, [2], .m, 2, true, true, true, false, true, .any⟩
  | .vgathD => some ⟨0x64, [3], .m, 2, true, true, true, false, true, .any⟩
  | .vst => some ⟨0x65, [0], .m, 0, true, true, true, false, true, .any⟩
  | .vscatW => some ⟨0x65, [2], .m, 0, true, true, true, true, true, .any⟩
  | .vscatD => some ⟨0x65, [3], .m, 0, true, true, true, true, true, .any⟩
  | .ldfw => some ⟨0x66, [0], .m, 2, true, true, false, false, true, .any⟩
  | .ldfwe => some ⟨0x66, [1], .m, 2, true, true, false, false, true, .any⟩
  | .ldfn => some ⟨0x66, [2], .m2, 2, false, true, false, false, true, .any⟩
  | .ldfne => some ⟨0x66, [3], .m2, 2, false, true, false, false, true, .any⟩
  | .stfw => some ⟨0x67, [0], .m, 0, true, true, true, false, true, .any⟩
  | .stfn => some ⟨0x67, [1], .m, 2, true, true, true, false, true, .any⟩
  | .fepurge => some ⟨0x67, [2], .m, 0, true, true, false, false, true, .any⟩
  | .fefill => some ⟨0x67, [3], .m, 0, true, true, true, false, true, .any⟩
  | .amoSwap => some ⟨0x68, [0, 1], .m, 2, true, true, true, false, true, .any⟩
  | .amoAdd => some ⟨0x68, [4, 5], .m, 2, true, true, true, false, true, .any⟩
  | .amoAnd => some ⟨0x68, [8, 9], .m, 2, true, true, true, false, true, .any⟩
  | .amoOr => some ⟨0x68, [12, 13], .m, 2, true, true, true, false, true, .any⟩
  | .amoXor => some ⟨0x68, [16, 17], .m, 2, true, true, true, false, true, .any⟩
  | .amoMinS => some ⟨0x68, [20, 21], .m, 2, true, true, true, false, true, .any⟩
  | .amoMaxS => some ⟨0x68, [24, 25], .m, 2, true, true, true, false, true, .any⟩
  | .amoMaxU => some ⟨0x68, [28, 29], .m, 2, true, true, true, false, true, .any⟩
  | .casW => some ⟨0x69, [0], .m, 2, true, true, true, true, true, .any⟩
  | .casD => some ⟨0x69, [1], .m, 2, true, true, true, true, true, .any⟩
  | .casQ => some ⟨0x69, [2], .m, 2, true, true, true, true, true, .any⟩
  | .fenceAcq => some ⟨0x6A, [0, 4, 8, 12, 16, 20], .m, 0, true, false, false, false, false, .any⟩
  | .fenceRel => some ⟨0x6A, [1, 5, 9, 13, 17, 21], .m, 0, true, false, false, false, false, .any⟩
  | .fenceFull => some ⟨0x6A, [2, 6, 10, 14, 18, 22], .m, 0, true, false, false, false, false, .any⟩
  | .harvest => some ⟨0x6B, [0], .m, 2, true, true, true, false, false, .any⟩
  | .mprobe => some ⟨0x70, [0], .m2, 2, false, true, true, false, false, .any⟩
  | .minsert => some ⟨0x71, [0], .m2, 2, false, true, true, true, false, .any⟩
  | .mupsert => some ⟨0x71, [1], .m2, 2, false, true, true, true, false, .any⟩
  | .mremove => some ⟨0x71, [2], .m2, 2, false, true, true, false, false, .any⟩
  | .mcreate => some ⟨0x72, [0], .m, 2, true, true, false, false, false, .any⟩
  | .mdestroy => some ⟨0x72, [1], .m, 0, true, true, false, false, false, .any⟩
  | .mstat => some ⟨0x72, [2], .m, 2, true, true, false, false, false, .any⟩
  | .migr => some ⟨0x74, [0, 1, 2, 3], .i16x, 0, false, true, false, false, false, .any⟩
  | .spawn => some ⟨0x75, [0], .ms, 1, false, true, true, false, false, .any⟩
  | .spawnw => some ⟨0x75, [1], .ms, 1, false, true, true, false, false, .any⟩
  | .send => some ⟨0x76, [0], .ms, 0, false, true, false, false, false, .any⟩
  | .sendNw => some ⟨0x76, [1], .ms, 1, false, true, false, false, false, .any⟩
  | .recv => some ⟨0x76, [2], .t, 3, true, false, false, false, false, .any⟩
  | .recvNw => some ⟨0x76, [3], .t2, 2, false, false, false, false, false, .any⟩
  | .mkcont => some ⟨0x76, [4], .t, 3, true, true, false, false, false, .any⟩
  | .yield => some ⟨0x76, [5], .n, 0, false, false, false, false, false, .any⟩
  | .gnew => some ⟨0x77, [0], .t, 3, true, false, false, false, false, .any⟩
  | .gjoin => some ⟨0x77, [1], .m, 0, true, true, false, false, false, .any⟩
  | .gleave => some ⟨0x77, [2], .m, 0, true, true, false, false, false, .any⟩
  | .bar => some ⟨0x77, [3], .m, 0, true, true, false, false, false, .any⟩
  | .barNw => some ⟨0x77, [4], .m2, 2, false, true, false, false, false, .statusOnly⟩
  | .launch => some ⟨0x77, [5], .m, 0, true, true, true, false, true, .any⟩
  | .launchi => some ⟨0x77, [6], .m, 0, true, true, true, false, true, .any⟩
  | .mgath => some ⟨0x78, [0], .m, 0, true, true, true, false, false, .any⟩
  | .mldb => some ⟨0x78, [1], .m, 0, true, true, false, false, false, .any⟩
  | .mmaEfp8 => some ⟨0x79, [0, 1, 2, 3], .n, 0, false, true, false, false, false, .any⟩
  | .mmaE4 => some ⟨0x79, [4, 5, 6, 7], .n, 0, false, true, false, false, false, .any⟩
  | .mmaE5 => some ⟨0x79, [8, 9, 10, 11], .n, 0, false, true, false, false, false, .any⟩
  | .mmaI8 => some ⟨0x79, [12, 13, 14, 15], .n, 0, false, true, false, false, false, .any⟩
  | .mmaBf => some ⟨0x79, [16, 17, 18, 19], .n, 0, false, true, false, false, false, .any⟩
  | .mmaH => some ⟨0x79, [20, 21, 22, 23], .n, 0, false, true, false, false, false, .any⟩
  | .mzero => some ⟨0x7A, [0, 1, 2, 3], .n, 0, false, false, false, false, false, .any⟩
  | .mst => some ⟨0x7A, [4, 5, 6, 7], .m, 2, true, true, false, false, true, .any⟩
  | .mstBf => some ⟨0x7A, [8, 9, 10, 11], .m, 2, true, true, false, false, true, .any⟩
  | .mgang => some ⟨0x7A, [12, 13, 14, 15], .n, 0, false, true, false, false, false, .any⟩
  | .ecfg => some ⟨0x7B, [0], .m, 0, true, true, true, false, false, .any⟩
  | .ego => some ⟨0x7B, [1], .m, 0, true, true, true, false, false, .any⟩
  | .ecancel => some ⟨0x7B, [2], .m, 0, true, true, true, false, false, .any⟩
  | .brk => some ⟨0x7C, [0], .n, 0, false, false, false, false, false, .any⟩
  | .tlbinv => some ⟨0x7C, [1], .n, 0, false, true, false, false, false, .any⟩
  | .tlbinva => some ⟨0x7C, [2], .n, 0, false, false, false, false, false, .any⟩
  | .dcflush => some ⟨0x7C, [3], .n, 0, false, true, false, false, false, .any⟩
  | .dcinv => some ⟨0x7C, [4], .n, 0, false, true, false, false, false, .any⟩
  | .icinv => some ⟨0x7C, [5], .n, 0, false, true, false, false, false, .any⟩
  | .ptload => some ⟨0x7C, [6], .n, 0, false, true, true, false, false, .any⟩
  | .ctrrd => some ⟨0x7C, [7], .t, 3, true, true, false, false, false, .any⟩
  | .svc => some ⟨0x7D, [0, 1, 2, 3], .i16x, 0, false, false, false, false, false, .any⟩
  | .trap => some ⟨0x7D, [4, 5, 6, 7], .i16x, 0, false, false, false, false, false, .any⟩
  | .eret => some ⟨0x7D, [8, 9, 10, 11], .n, 0, false, false, false, false, false, .any⟩
  | .srrd => some ⟨0x7E, List.range 16, .t, 3, true, false, false, false, false, .any⟩
  | .srwr => some ⟨0x7E, (List.range 16).map (· + 16), .n, 0, false, true, false, false, false, .any⟩
  | .srPartPre => none
  | .remapReissue => none
  | .rimPortUp => none
  | .backInService => none
  | .firmwareSwitched => none
  | .rateQuotaCrossed => none
  | .signedImageLoad => none
  | .frameAssign => none
  | .tenantCreate => none
  | .partitionCreate => none

/-- Instruction rows, part 0. -/
def instrRows0 : List Instr :=
  [.read, .write, .movi, .moviL, .movl, .mov, .null, .enter, .leave, .br, .call, .jmp,
   .callr, .ret, .halt, .opx, .add, .sub, .neg, .addW, .subW, .addsS, .subsS, .addsU]

/-- Instruction rows, part 1. -/
def instrRows1 : List Instr :=
  [.subsU, .addi, .mul, .mulhS, .mulhU, .mulW, .divS, .divU, .remS, .remU, .and, .or,
   .xor, .andn, .orn, .xnor, .not, .andi, .ori, .xori, .shl, .shr, .sar, .rol]

/-- Instruction rows, part 2. -/
def instrRows2 : List Instr :=
  [.ror, .shli, .shri, .sari, .roli, .rori, .clz, .ctz, .popc, .brev, .bswap, .sextB,
   .sextH, .sextW, .zextB, .zextH, .zextW, .bfxU, .bfxS, .bfi, .minS, .maxS, .minU, .maxU]

/-- Instruction rows, part 3. -/
def instrRows3 : List Instr :=
  [.cmp, .cmpi, .sel, .pand, .por, .pxor, .pnot, .packp, .unpkp, .addsc, .fadd, .fsub,
   .fmul, .fdiv, .fmin, .fmax, .fsqrt, .fabs, .fneg, .fcpys, .fma, .fms, .fnma, .fnms]

/-- Instruction rows, part 4. -/
def instrRows4 : List Instr :=
  [.fcmp, .fcvt, .fclass, .fseed, .vfadd, .vfsub, .vfmul, .vfdiv, .vfmin, .vfmax, .vfabs, .vfneg,
   .vfma, .vfms, .vfnma, .vfnms, .vfcmp, .vadd, .vsub, .vmul, .vminS, .vmaxS, .vminU, .vmaxU]

/-- Instruction rows, part 5. -/
def instrRows5 : List Instr :=
  [.vabsd, .vaddsS, .vaddsU, .vsubsS, .vsubsU, .vand, .vor, .vxor, .vandn, .vnot, .vshl, .vshr,
   .vsar, .vicmp, .vsel, .vredRsumF, .vredRmaxF, .vredRminF, .vredRsumW, .vredRsumD, .vredRmaxW, .vredRminW, .vperm, .vshuf]

/-- Instruction rows, part 6. -/
def instrRows6 : List Instr :=
  [.vrot, .vzipLo, .vzipHi, .vuzpEv, .vuzpOd, .vbcast, .vext, .vins, .vcvt, .vdotSs, .vdotSu, .vdotUu,
   .vexp2, .vlog2, .vrcp, .vrsqrt, .vsin, .vcos, .vtanh, .vsigm, .verf, .tunpk, .vpackHW, .vpackBW]

/-- Instruction rows, part 7. -/
def instrRows7 : List Instr :=
  [.vpackBH, .vunpkHB, .vunpkWB, .vunpkWH, .vunpkHBu, .vunpkWBu, .vunpkWHu, .vpand, .vpor, .vpxor, .vpnot, .vpcnt,
   .vpfirst, .sbind, .sfree, .sstat, .vmovi, .ldB, .ldBu, .ldH, .ldHu, .ldW, .ldWu, .ldD]

/-- Instruction rows, part 8. -/
def instrRows8 : List Instr :=
  [.stB, .stH, .stW, .stD, .ldacqW, .ldacqWu, .ldacqD, .strelW, .strelD, .vld, .vldb, .vgathW,
   .vgathD, .vst, .vscatW, .vscatD, .ldfw, .ldfwe, .ldfn, .ldfne, .stfw, .stfn, .fepurge, .fefill]

/-- Instruction rows, part 9. -/
def instrRows9 : List Instr :=
  [.amoSwap, .amoAdd, .amoAnd, .amoOr, .amoXor, .amoMinS, .amoMaxS, .amoMaxU, .casW, .casD, .casQ, .fenceAcq,
   .fenceRel, .fenceFull, .harvest, .mprobe, .minsert, .mupsert, .mremove, .mcreate, .mdestroy, .mstat, .migr, .spawn]

/-- Instruction rows, part 10. -/
def instrRows10 : List Instr :=
  [.spawnw, .send, .sendNw, .recv, .recvNw, .mkcont, .yield, .gnew, .gjoin, .gleave, .bar, .barNw,
   .launch, .launchi, .mgath, .mldb, .mmaEfp8, .mmaE4, .mmaE5, .mmaI8, .mmaBf, .mmaH, .mzero, .mst]

/-- Instruction rows, part 11. -/
def instrRows11 : List Instr :=
  [.mstBf, .mgang, .ecfg, .ego, .ecancel, .brk, .tlbinv, .tlbinva, .dcflush, .dcinv, .icinv, .ptload,
   .ctrrd, .svc, .trap, .eret, .srrd, .srwr]

/-- Every instruction row, in the order of the table. -/
def instrRows : List Instr :=
  instrRows0 ++ instrRows1 ++ instrRows2 ++ instrRows3 ++ instrRows4 ++ instrRows5 ++ instrRows6 ++ instrRows7 ++ instrRows8 ++ instrRows9 ++ instrRows10 ++ instrRows11

/-- Parcels before the result parcels: K of Table 3.4. -/
def Cls.k : Cls → Nat
  | .n => 0 | .t => 0 | .t2 => 0 | .i16 => 1 | .i16x => 1 | .i32 => 2 | .d => 2 | .m => 1 | .m2 => 1 | .ms => 2

/-- The width in bits of a class's immediate field. -/
def Cls.immBits : Cls → Nat
  | .i16 => 16 | .i16x => 16 | .i32 => 32 | .d => 32 | _ => 0

/-- Whether a class has an LSID parcel (R45). -/
def Cls.hasLsid : Cls → Bool
  | .m => true | .m2 => true | .ms => true | _ => false

/-- Number of result parcels a form may carry (R45): exactly two in T2 and M2. -/
def Form.outsOk (f : Form) (o : List RP) : Bool :=
  (match f.cls with | .t2 => o.length == 2 | .m2 => o.length == 2 | _ => o.length ≤ f.maxR) &&
    (!f.single || o.all fun r => r.fst.isSome)

/-- The rule of a form's immediate (R46, R48, R149, R282). -/
def Form.immOk (f : Form) (x : Operands) : Bool :=
  match f.imm with
  | .any => true
  | .low n => x.imm.toNat < 2 ^ n
  | .vmovi => x.fn != 0 || (x.imm.extractLsb' 0 8).signExtend 16 == x.imm.extractLsb' 0 16
  | .opx => x.pm == .always
  | .statusOnly => x.outs.head? == some ⟨none, none⟩

/-- Fields the class does not have are zero or empty (R45, R46). -/
def Form.fieldsOk (f : Form) (x : Operands) : Bool :=
  x.imm.toNat < 2 ^ f.cls.immBits && (f.cls.hasLsid || x.lsid == 0) && (f.off || x.off == 0) &&
    (f.cls == .ms || x.sel == 0) && (f.op == 0x03 || x.lit == 0)

/-- An instruction that an encoding can carry. A device step has none. -/
def Insn.wf (i : Insn) : Bool :=
  match i.row.form with
  | none => false
  | some f => f.fns.contains i.x.fn.toNat && f.outsOk i.x.outs && f.immOk i.x && f.fieldsOk i.x

end Sys2Proof
end

