-- ==== Sys2Proof/Decode.lean ====
section
/-!
DEFINITION. Decode: from parcels to instructions, rejecting by name (03_encoding_and_opcode_map), the line and block
checks of R55, and after them the encoder, from the same tables.
-/
namespace Sys2Proof

/-- Why one head with its tails is not an instruction (R55). -/
inductive Reject where
  | form            -- OP 0x7F or unassigned, or FN or a subfield of it unassigned
  | pm              -- PM = 01, or opx with a PM
  | tn              -- TN outside the form's range
  | target (t : Nat)    -- tail t holds a reserved target byte, or a single-result parcel without a first target
  | reserved (t : Nat)  -- tail t holds a reserved bit
deriving DecidableEq, Repr

/-- PM from bits 6:5 (R19); 01 is illegal. -/
def pmOf (x : BitVec 2) : Option PM :=
  if x = 0 then some .always else if x = 2 then some .ifTrue else if x = 3 then some .ifFalse else none

/-- The two bits of a predicate mode (R19). -/
def pmBits : PM → BitVec 2
  | .always => 0
  | .ifTrue => 2
  | .ifFalse => 3

/-- A target byte (R44): none for 0xFF, an error for any other byte with SLOT 11. -/
def tgtOf (x : BitVec 8) : Option (Option Tgt) :=
  if x = 0xFF then some none
  else
    let i := x.extractLsb' 2 6
    if x.extractLsb' 0 2 = 0 then some (some ⟨i, .a⟩)
    else if x.extractLsb' 0 2 = 1 then some (some ⟨i, .b⟩)
    else if x.extractLsb' 0 2 = 2 then some (some ⟨i, .p⟩) else none

/-- The byte of a target (R44). -/
def tgtByte : Option Tgt → BitVec 8
  | none => 0xFF
  | some ⟨i, .a⟩ => i ++ (0 : BitVec 2)
  | some ⟨i, .b⟩ => i ++ (1 : BitVec 2)
  | some ⟨i, .p⟩ => i ++ (2 : BitVec 2)

/-- A result parcel (R44): first target in bits 7:0. -/
def rpOf (x : BitVec 16) : Option RP :=
  match tgtOf (x.extractLsb' 0 8), tgtOf (x.extractLsb' 8 8) with
  | some f, some s => some ⟨f, s⟩
  | _, _ => none

/-- The parcel of a result parcel (R44). -/
def rpParcel (r : RP) : BitVec 16 := tgtByte r.snd ++ tgtByte r.fst

/-- Result parcels from tails numbered from t (R44). -/
def rpsOf : Nat → List (BitVec 16) → Except Reject (List RP)
  | _, [] => .ok []
  | t, x :: xs =>
    match rpOf x with
    | none => .error (.target t)
    | some r => match rpsOf (t + 1) xs with
      | .ok rs => .ok (r :: rs)
      | .error e => .error e

/-- The Cc of a code (Table 3.7 or the form's table), or none where the code is unassigned. -/
def Cc.ofCode : Nat → Option Cc
  | 0 => some .eq
  | 1 => some .ne
  | 2 => some .ltS
  | 3 => some .leS
  | 4 => some .gtS
  | 5 => some .geS
  | 6 => some .ltU
  | 7 => some .leU
  | 8 => some .gtU
  | 9 => some .geU
  | 10 => some .tst
  | 11 => some .tstn
  | _ => none

/-- The Vcc of a code (Table 3.7 or the form's table), or none where the code is unassigned. -/
def Vcc.ofCode : Nat → Option Vcc
  | 0 => some .eq
  | 1 => some .ne
  | 2 => some .ltS
  | 3 => some .leS
  | 4 => some .ltU
  | 5 => some .leU
  | 6 => some .tst
  | _ => none

/-- The Fc of a code (Table 3.7 or the form's table), or none where the code is unassigned. -/
def Fc.ofCode : Nat → Option Fc
  | 0 => some .eq
  | 1 => some .ne
  | 2 => some .lt
  | 3 => some .le
  | 4 => some .gt
  | 5 => some .ge
  | 6 => some .un
  | 7 => some .ord
  | _ => none

/-- The FpT of a code (Table 3.7 or the form's table), or none where the code is unassigned. -/
def FpT.ofCode : Nat → Option FpT
  | 0 => some .s
  | 1 => some .h
  | 2 => some .bf
  | _ => none

/-- The IW of a code (Table 3.7 or the form's table), or none where the code is unassigned. -/
def IW.ofCode : Nat → Option IW
  | 0 => some .b
  | 1 => some .h
  | 2 => some .w
  | 3 => some .d
  | _ => none

/-- The Scope of a code (Table 3.7 or the form's table), or none where the code is unassigned. -/
def Scope.ofCode : Nat → Option Scope
  | 0 => some .slot
  | 1 => some .core
  | 2 => some .quad
  | 3 => some .die
  | 4 => some .pkg
  | 5 => some .sys
  | _ => none

/-- The Cv of a code (Table 3.7 or the form's table), or none where the code is unassigned. -/
def Cv.ofCode : Nat → Option Cv
  | 0 => some .hS
  | 1 => some .bfS
  | 2 => some .sH
  | 3 => some .sBf
  | 4 => some .e4S
  | 5 => some .e5S
  | 6 => some .sE4
  | 7 => some .sE5
  | 8 => some .wS
  | 9 => some .lS
  | 10 => some .sW
  | 11 => some .sL
  | _ => none

/-- OP of a head (R42). -/
def headOp (h : BitVec 16) : Nat := (h.extractLsb' 9 7).toNat
/-- TN of a head (R42). -/
def headTn (h : BitVec 16) : Nat := (h.extractLsb' 7 2).toNat
/-- FN of a head (R42). -/
def headFn (h : BitVec 16) : Nat := (h.extractLsb' 0 5).toNat

/-- Whether Table 3.8 gives an OP and FN to a row. -/
def Instr.has (i : Instr) (op fn : Nat) : Bool :=
  match i.form with
  | some f => f.op == op && f.fns.contains fn
  | none => false

/-- The row that an OP and FN select (R52); none where either is unassigned. -/
def rowAt (op fn : Nat) : Option Instr := instrRows.find? (·.has op fn)

/-- The row and form of a head. -/
def formAt (h : BitVec 16) : Option (Instr × Form) :=
  match rowAt (headOp h) (headFn h) with
  | none => none
  | some r => match r.form with
    | none => none
    | some f => some (r, f)

/-- TN allowed (R45, Table 3.4): K up to K plus the form's result parcels; T2 and M2 take exactly two. -/
def tnOk (f : Form) (tn : Nat) : Bool :=
  match f.cls with
  | .t2 => tn == 2
  | .m2 => tn == 3
  | _ => f.cls.k ≤ tn && tn ≤ f.cls.k + f.maxR

/-- What a head alone breaks: OP, FN and its subfields, PM, TN (R55). -/
def headFail (h : BitVec 16) : Option Reject :=
  match pmOf (h.extractLsb' 5 2), formAt h with
  | none, _ => some .pm
  | some _, none => some .form
  | some pm, some (_, f) =>
    if f.imm = .opx && pm != .always then some .pm else if tnOk f (headTn h) then none else some .tn

/-- The operands that a head and its tails hold (R43, R46). -/
def operandsOf (f : Form) (h : BitVec 16) (pm : PM) (tails : List (BitVec 16)) (lit : BitVec 64) (o : List RP) :
    Operands :=
  let t0 := tails.getD 0 0
  let t1 := tails.getD 1 0
  let imm : BitVec 32 := match f.cls with
    | .i16 => t0.zeroExtend 32
    | .i16x => t0.zeroExtend 32
    | .i32 => t1 ++ t0
    | .d => t1 ++ t0
    | _ => 0
  let ls : Bool := f.cls.hasLsid
  ⟨h.extractLsb' 0 5, pm, imm, if ls then t0.extractLsb' 12 4 else 0, if ls then t0.extractLsb' 0 12 else 0,
    if f.cls = .ms then t1 else 0, o, if f.op = 0x03 then lit else 0⟩

/-- One instruction from its head, its tails in the order t0, t1, t2 (R43) and the literal a movl names (R47). -/
def decodeOne (h : BitVec 16) (tails : List (BitVec 16)) (lit : BitVec 64) : Except Reject Insn :=
  match pmOf (h.extractLsb' 5 2), formAt h with
  | none, _ => .error .pm
  | some _, none => .error .form
  | some pm, some (r, f) =>
    if f.imm = .opx && pm != .always then .error .pm
    else if !tnOk f tails.length then .error .tn
    else match rpsOf f.cls.k (tails.drop f.cls.k) with
      | .error e => .error e
      | .ok o =>
        let x := operandsOf f h pm tails lit o
        if !f.outsOk x.outs then .error (.target f.cls.k)
        else if !f.immOk x || !f.fieldsOk x then .error (.reserved 0)
        else .ok ⟨r, x⟩

/-- Every tail of a head that fails a check of its own (R55), for a head that passes `headFail`. -/
def tailFails (h : BitVec 16) (tails : List (BitVec 16)) : List Nat :=
  match pmOf (h.extractLsb' 5 2), formAt h with
  | some pm, some (_, f) =>
    let k := f.cls.k
    let bad := (tails.zipIdx.drop k).filterMap fun x =>
      match rpOf x.1 with
      | none => some x.2
      | some rp => if f.single && rp.fst.isNone then some x.2 else none
    let x := operandsOf f h pm tails 0 ((tails.drop k).filterMap rpOf)
    let imm := if f.immOk x then [] else if f.imm = .statusOnly then [1] else [0]
    bad ++ imm ++ (if f.off || x.off == 0 then [] else [0])
  | _, _ => []

/-- The tails of an instruction in the order t0, t1, t2 (R43, R45). -/
def tailsOf (f : Form) (x : Operands) : List (BitVec 16) :=
  let rs := x.outs.map rpParcel
  let ls : BitVec 16 := x.lsid ++ x.off
  match f.cls with
  | .n => []
  | .t => rs
  | .t2 => rs
  | .i16 => x.imm.extractLsb' 0 16 :: rs
  | .i16x => [x.imm.extractLsb' 0 16]
  | .i32 => x.imm.extractLsb' 0 16 :: x.imm.extractLsb' 16 16 :: rs
  | .d => [x.imm.extractLsb' 0 16, x.imm.extractLsb' 16 16]
  | .m => ls :: rs
  | .m2 => ls :: rs
  | .ms => ls :: x.sel :: rs

/-- The head of an instruction: OP × 512 + TN × 128 + PM × 32 + FN (R42). -/
def headOf (f : Form) (x : Operands) : BitVec 16 :=
  BitVec.ofNat 7 f.op ++ BitVec.ofNat 2 (tailsOf f x).length ++ pmBits x.pm ++ x.fn

/-- The words of a well-formed instruction: head, tails, literal (R42 to R47). A device step has none. -/
def encode (i : Insn) : Option (BitVec 16 × List (BitVec 16) × BitVec 64) :=
  match i.row.form with
  | none => none
  | some f => some (headOf f i.x, tailsOf f i.x, i.x.lit)

/-- Parcel p of a line (R39). -/
def parcel (line : BitVec 512) (p : Nat) : BitVec 16 := line.extractLsb' (16 * p) 16

/-- The highest tail parcel of a line (R41). -/
def lineTop (ln : Nat) : Nat := if ln = 0 then 27 else 31

/-- The block header of line 0 (R49). -/
def lineHeader (line : BitVec 512) : BitVec 64 := line.extractLsb' 448 64

/-- LNC + 1, the number of lines the header gives (Table 3.6). -/
def lineCount (line0 : BitVec 512) : Nat := ((lineHeader line0).extractLsb' 7 2).toNat + 1

/-- The target byte (fst in bits 7:0, snd in bits 15:8) of a result parcel that names slot a of index n (R48). -/
def rpNames (n : Nat) (r : RP) : Bool :=
  n < 64 && (r.fst = some ⟨BitVec.ofNat 6 n, .a⟩ || r.snd = some ⟨BitVec.ofNat 6 n, .a⟩)

/-- One head of a line, as the line checks see it. -/
structure HeadAt where
  par : Nat                     -- its parcel
  idx : Nat                     -- its instruction index in the block
  word : BitVec 16
  tails : List (Nat × BitVec 16)  -- parcel and value of t0, t1, t2
deriving DecidableEq, Repr

/-- The heads of a line with their tails (R41, R43): n heads left, next parcel, next index, tails used so far. -/
def headsOf (line : BitVec 512) (top : Nat) : Nat → Nat → Nat → Nat → List HeadAt
  | 0, _, _, _ => []
  | n + 1, par, idx, s =>
    let w := parcel line par
    let tn := headTn w
    let ts := (List.range tn).filterMap fun t => if s + t ≤ top then some (top - s - t, parcel line (top - s - t)) else none
    ⟨par, idx, w, ts⟩ :: headsOf line top n (par + 1) (idx + 1) (s + tn)

/-- Tails used by a list of heads. -/
def tailSum : List HeadAt → Nat
  | [] => 0
  | h :: hs => headTn h.word + tailSum hs

/-- A three-input head (marked +c in Table 3.8). -/
def isThree (w : BitVec 16) : Bool :=
  match formAt w with
  | some (_, f) => f.c
  | none => false

/-- An operand-extension head (R48): OP 0x0D with FN, TN and PM 0. -/
def isOpx (w : BitVec 16) : Bool := w == 0x1A00

/-- Parcels of a literal at q that other roles of its line hold: the line head, h heads, the header, s tails (R41). -/
def litClash (top h s ln q : Nat) : List Nat :=
  ((List.range 4).map (q + ·)).filter fun p => p ≤ h || (ln = 0 && 28 ≤ p && p < 32) || (top < p + s && p ≤ top)

/-- The line checks of one head (R55), as failing parcels: its own fields, its tails, R47 and R48. -/
def headChecks (top h s : Nat) (ln : Nat) (prev next : Option (BitVec 16)) (x : HeadAt) : List Nat :=
  match headFail x.word with
  | some _ => [x.par]
  | none =>
    let tf := (tailFails x.word (x.tails.map Prod.snd)).filterMap fun t => (x.tails[t]?).map Prod.fst
    let q := headFn x.word
    let lit := if headOp x.word == 0x03 &&
        !(q % 4 == 0 && h < q && (if ln = 0 then q + 3 < 28 else true) && q + 3 + s < top + 1) then x.par :: litClash top h s ln q else []
    let three := if isThree x.word && !(match next with | some w => isOpx w | none => false) then [x.par] else []
    let opx := if isOpx x.word && !(match prev with | some w => isThree w | none => false) then [x.par] else []
    let own := if isThree x.word then
        (x.tails.zipIdx.drop (match formAt x.word with | some (_, f) => f.cls.k | none => 0)).filterMap
          fun t => match rpOf t.1.2 with
            | some r => if rpNames (x.idx + 1) r then some t.1.1 else none
            | none => none
      else []
    tf ++ lit ++ three ++ opx ++ own

/-- The checks of every head of a line, in order. -/
def headsChecks (top h s ln : Nat) : Option (BitVec 16) → List HeadAt → List Nat
  | _, [] => []
  | prev, x :: xs =>
    headChecks top h s ln prev (xs.head?.map HeadAt.word) x ++ headsChecks top h s ln (some x.word) xs

/-- The literal parcels of a line (R47). -/
def litParcels (xs : List HeadAt) : List Nat :=
  xs.flatMap fun x => if headOp x.word == 0x03 then (List.range 4).map (headFn x.word + ·) else []

/-- The 64-bit literal at parcels q to q + 3 (R47). -/
def literalAt (line : BitVec 512) (q : Nat) : BitVec 64 :=
  parcel line (q + 3) ++ parcel line (q + 2) ++ parcel line (q + 1) ++ parcel line q

/-- LN of a line (R39). -/
def lineLn (line : BitVec 512) : Nat := ((parcel line 0).extractLsb' 13 2).toNat

/-- B of a line (R39). -/
def lineB (line : BitVec 512) : Bool := (parcel line 0).extractLsb' 15 1 == 1

/-- Whether parcel 0 of the line at position ln breaks R39 or R40. Whether LN is the position is R50, a block check. -/
def lineHeadBad (line : BitVec 512) (ln : Nat) : Bool :=
  let w := parcel line 0
  let h := (w.extractLsb' 8 5).toNat
  w.extractLsb' 0 8 != 0 || lineB line != (lineLn line == 0) || (ln == 0 && !lineB line) || h == 0 || (ln == 0 && h > 27)

/-- The failing parcels of a line whose parcel 0 is sound (R41, R47, R48, R55; overlaps named as log entry 14 says). A line at position 1 to
3 is laid out and checked by its position, whatever its own LN says (DESIGN CHOICE, log entry 14: no rule says what such a line's LN does). -/
def lineFails (line : BitVec 512) (ln base : Nat) : List Nat :=
  let h := ((parcel line 0).extractLsb' 8 5).toNat
  let top := lineTop ln
  let xs := headsOf line top h 1 base 0
  let s := tailSum xs
  let lits := litParcels xs
  let clash := if h + s > top then [top + 1 - s] else []
  let gaps := (List.range 32).filter fun p =>
    h < p && p + s ≤ top && !lits.contains p && parcel line p != 0
  headsChecks top h s ln none xs ++ clash ++ gaps

/-- The least of a list of parcels. -/
def leastOf : List Nat → Option Nat
  | [] => none
  | x :: xs => match leastOf xs with | none => some x | some y => some (min x y)

/-- Line check and decoding of one line whose first head has index `base`: its instructions, or the lowest failing
parcel (R55). -/
def decodeLine (line : BitVec 512) (ln base : Nat) : Except Nat (List Insn) :=
  if lineHeadBad line ln then .error 0
  else match leastOf (lineFails line ln base) with
    | some p => .error p
    | none =>
      let h := ((parcel line 0).extractLsb' 8 5).toNat
      let xs := headsOf line (lineTop ln) h 1 base 0
      xs.foldr (fun x acc => match acc with
        | .error p => .error p
        | .ok is => match decodeOne x.word (x.tails.map Prod.snd) (literalAt line (headFn x.word)) with
          | .ok i => .ok (i :: is)
          | .error _ => .error x.par) (.ok [])

/-- OP of an instruction (0x7F, permanently illegal, for a device step). -/
def Insn.op (i : Insn) : Nat := match i.row.form with | some f => f.op | none => 0x7F
/-- FN of an instruction. -/
def Insn.fn (i : Insn) : Nat := i.x.fn.toNat
/-- Exit number, tile number: FN bits 1:0 (R51, Table 19.2). -/
def Operands.fn10 (x : Operands) : Nat := x.fn.toNat % 4
/-- Operation code or scope: FN bits 4:2 (Tables 8.3, 11.2). -/
def Operands.fn42 (x : Operands) : Nat := x.fn.toNat / 4
/-- The I16 immediate (R46). -/
def Operands.i16 (x : Operands) : BitVec 16 := x.imm.truncate 16

/-- Committing operations (R28): modifying map operations, atomics, full/empty changes, send, spawn, ego; and
harvest, which R222 calls committing. -/
def Insn.committing (i : Insn) : Bool :=
  match i.row with
  | .ldfwe => true | .ldfne => true | .stfw => true | .stfn => true | .fepurge => true | .fefill => true
  | .amoSwap => true | .amoAdd => true | .amoAnd => true | .amoOr => true | .amoXor => true | .amoMinS => true
  | .amoMaxS => true | .amoMaxU => true | .casW => true | .casD => true | .casQ => true | .harvest => true
  | .minsert => true | .mupsert => true | .mremove => true | .mcreate => true | .mdestroy => true
  | .spawn => true | .spawnw => true | .send => true | .sendNw => true | .ego => true
  | _ => false

/-- The exit number of an exit form (R51). -/
def Insn.exitNo (i : Insn) : Option Nat :=
  match i.row with
  | .br => some i.x.fn10 | .call => some i.x.fn10 | .jmp => some i.x.fn10 | .callr => some i.x.fn10
  | .ret => some i.x.fn10 | .halt => some i.x.fn10 | .migr => some i.x.fn10 | .svc => some i.x.fn10
  | .trap => some i.x.fn10 | .eret => some i.x.fn10
  | _ => none

/-- The LSID of a memory form (R45). -/
def Insn.lsid? (i : Insn) : Option Nat :=
  match i.row.form with
  | some f => if f.cls.hasLsid then some i.x.lsid.toNat else none
  | none => none

/-- Operand slots a form uses (R16, R19). -/
def Insn.uses (i : Insn) (s : OpSlot) : Bool :=
  match i.row.form, s with
  | some f, .a => f.a
  | some f, .b => f.b
  | some _, .p => i.x.pm != .always
  | none, _ => false

/-- A three-input form, whose c is slot a of the opx after it (R48). -/
def Insn.three (i : Insn) : Bool := match i.row.form with | some f => f.c | none => false

/-- Whether a form has two results (classes T2 and M2, R45). -/
def Insn.two (i : Insn) : Bool := match i.row.form with | some f => f.cls == .t2 || f.cls == .m2 | none => false

/-- The targets of an instruction, in order (R44). -/
def Operands.targets (x : Operands) : List Tgt := x.outs.flatMap fun r => r.fst.toList ++ r.snd.toList

/-- The targets of the primary result of a two-result form (R45). -/
def Operands.primary (x : Operands) : List Tgt := (x.outs.take 1).flatMap fun r => r.fst.toList ++ r.snd.toList

/-- The targets of the status result of a two-result form (R45). -/
def Operands.status (x : Operands) : List Tgt := (x.outs.drop 1).flatMap fun r => r.fst.toList ++ r.snd.toList

/-- How often a slot of index n is named by targets (R16). -/
def namedCount (tgts : List Tgt) (n : Nat) (s : OpSlot) : Nat :=
  (tgts.filter fun t => t.idx.toNat == n && t.slot == s).length

/-- The register mask of a list of register numbers (R16). -/
def maskOf (ns : List Nat) : Nat := ns.foldl (fun m n => m ||| (1 <<< n)) 0

/-- R16, R28, R50: the header against the body of a block of n lines. -/
def blockChecks (hdr : BitVec 64) (is : List Insn) : Bool :=
  let rd := is.filter fun i => i.row = .read
  let wr := is.filter fun i => i.row = .write
  let calls := is.any fun i => i.row = .call || i.row = .callr
  let gr := (rd.filter (·.fn < 16)).map Insn.fn
  let vr := (rd.filter (16 ≤ ·.fn)).map (fun f => f.fn - 16)
  let gw := (wr.filter (·.fn < 16)).map Insn.fn
  let vw := (wr.filter (16 ≤ ·.fn)).map (fun f => f.fn - 16)
  let tg := is.flatMap fun i => i.x.targets
  let lsids := is.filterMap Insn.lsid?
  let exits := is.filterMap Insn.exitNo
  let com := is.filter Insn.committing
  let fwd := is.zipIdx.all fun x => x.1.x.targets.all fun t => x.2 < t.idx.toNat && t.idx.toNat < is.length
  let slots := is.zipIdx.all fun x => [OpSlot.a, .b, .p].all fun s =>
    namedCount tg x.2 s == (if x.1.uses s then 1 else 0)
  let lsc := (hdr.extractLsb' 11 5).toNat
  let exc := (hdr.extractLsb' 9 2).toNat
  gr.Nodup && vr.Nodup && gw.Nodup && vw.Nodup && fwd && slots &&
    (hdr.extractLsb' 48 16).toNat == maskOf gr && (hdr.extractLsb' 24 8).toNat == maskOf vr &&
    (hdr.extractLsb' 32 16).toNat == maskOf (if calls then 15 :: gw else gw) && !(calls && gw.contains 15) &&
    (hdr.extractLsb' 16 8).toNat == maskOf vw &&
    lsc ≤ 16 && lsids.length == lsc && (List.range lsc).all lsids.contains &&
    exits.length == exc + 1 && (List.range (exc + 1)).all exits.contains &&
    (hdr.extractLsb' 1 6).toNat + 1 == is.length &&
    (hdr.extractLsb' 0 1 == 1) == !com.isEmpty && com.length ≤ 1 &&
    com.all fun i => match i.lsid? with | some n => n + 1 == lsc | none => true

/-- A whole block from its lines (R55): its instructions, or sr.trapval of ILLEGAL_ENCODING (line × 32 + parcel). The
lines are those the fetch obtained, in order; the block checks are made only with every line sound. -/
def decodeLines : List (BitVec 512) → Nat → Nat → Except Nat (List Insn)
  | [], _, _ => .ok []
  | l :: ls, ln, base =>
    match decodeLine l ln base with
    | .error p => .error (32 * ln + p)
    | .ok is => match decodeLines ls (ln + 1) (base + is.length) with
      | .error p => .error p
      | .ok js => .ok (is ++ js)

/-- Line checks, then block checks at parcel 28 of line 0 (R55). -/
def decodeBlock (lines : List (BitVec 512)) : Except Nat (List Insn) :=
  match decodeLines lines 0 0 with
  | .error p => .error p
  | .ok is =>
    if (lines.zipIdx.all fun x => lineLn x.1 == x.2) && blockChecks (lineHeader (lines.headD 0)) is then .ok is else .error 28

/-- The instruction read from a row's bits (opcode_table.json numbering: the head is the first word, later words are
tails t0, t1, t2 in order); every bit above nbits is 0. Bits wider than the head's TN gives are not an instruction's. -/
def decodeTableInsn (nbits w : Nat) : Option Insn :=
  let v := w % 2 ^ nbits
  let h := BitVec.ofNat 16 v
  let ts := (List.range (headTn h)).map fun t => BitVec.ofNat 16 (v >>> (16 * (t + 1)))
  match headFail h with
  | some _ => none
  | none => match decodeOne h ts 0 with
    | .ok i => some i
    | .error _ => none

/-- Its row. -/
def decodeTableWord (nbits w : Nat) : Option Instr := (decodeTableInsn nbits w).map (·.row)

end Sys2Proof
end

