-- ==== Sys2Proof/Machine/State.lean ====
section
/-!
DEFINITION. Machine/State: everything the spec gives one HJ-9600 package, as plain data, and the state after reset.
Tables are lists of (number, value) pairs; a number that is not listed has the reset value its docstring names.
-/
namespace Sys2Proof.Machine

/-- A table by number. -/
abbrev Tab (α : Type) := List (Nat × α)

/-- Why the machine stops without a next state. -/
inductive Fault where
  /-- Raised by any step, an instruction firing or a device step, that the state does not enable: its operands have not
  arrived, its request is not in flight, its time has not come. SAFE: a run stops where the hardware would take another
  step first; nothing is proved of such a run. -/
  | notEnabled
deriving DecidableEq, Repr

/-- Why an instruction has no meaning. -/
inductive Refusal where
  /-- Raised by an arm of exec whose instruction has no meaning yet. SAFE. -/
  | notModelled (mnemonic : String)
deriving DecidableEq, Repr

/-- A token (R85, R140): the null, a scalar, or a vector with a null mark per byte. -/
inductive Tok where
  | null
  | sc (v : Word)
  | vec (v : Vec) (n : NullMask)
deriving DecidableEq, Repr

/-- A token that has been delivered to an operand slot, usable from a clk on (R87). -/
structure Arrival where
  tok : Tok
  at_ : Nat
deriving DecidableEq, Repr

/-- How far an instruction of a run has come (R17): not fired; fired, its checks passed, its access held back (R24, R29,
R204, R214); waiting for a TLB walk; to be carried on with what has arrived; waiting for a reply; complete. -/
inductive Phase where | waiting | held | xlate | retry | sent | done
deriving DecidableEq, Repr

/-- One write of bytes within one aligned word (R207, R209): word number pa / 8, data, byte mask, virtual address,
protocol hint and encryption domain of the access. -/
structure Wr where
  word : Nat
  data : Word
  mask : Byte
  va : Word
  hint : Nat
  dom : Nat
deriving DecidableEq, Repr

/-- An instruction of the block run in a slot, with its operand slots (R17, R48). -/
structure Entry where
  insn : Insn
  a : Option Arrival := none
  b : Option Arrival := none
  p : Option Arrival := none
  phase : Phase := .waiting
  doneAt : Nat := 0                    -- clk from which its result exists
  words : List (Nat × Word) := []      -- memory words it has received, by word number (pa / 8)
  want : List Nat := []                -- words requested and not received
  reqPage : Nat := 0                   -- page it waits for a walk of (va / 65536)
  own : List Wr := []                  -- the thread's own queued stores to its words when it issued (R25)
  got : Bool := false                  -- its loads have all their words
  early : Bool := false                -- its words were asked for before a lower acquire was complete (R212)
  late : Bool := false                 -- some of them came unprotected by an invalidation: to be read again (R212)
deriving DecidableEq, Repr

/-- A cause with its value (R343). -/
structure Cause where
  code : Nat
  val : Word
deriving DecidableEq, Repr

/-- What a block does at commit besides its register writes and stores (R27), one entry per form. -/
inductive Act where
  | push (x : Nat) (ws : List Wr) (k : Nat)     -- stream x (0: w6, 1: w7): its writes, elements counted (R166)
  | pop (x : Nat) (k : Nat)                     -- R165
  | srwr (index : Nat) (v : Word)               -- R366
  | fseed (v : Word)                            -- R113
  | sbind (x : Nat) (desc : BitVec 256)         -- R163
  | sfree (x : Nat)
  | yield                                       -- R293
  | migr (core mask : Nat)                      -- destination core and travel mask (R253)
  | clearMdl                                    -- recv (R267)
  | drain                                       -- recv.nw with an empty MDL (R291)
  | join (set : Nat) | leave (set : Nat)        -- R295
  | latch (rows : List (BitVec 1024)) (kq esz : Nat) (idx : List Nat)            -- mgath (R300)
  | bop (rows : List (BitVec 512)) (kq bfmt : Nat) (ill : Bool)                  -- mldb (R301)
  | own (tt : Nat)                              -- owner check passed: V, TEN, SLOT (R308)
  | mma (tt f k0 : Nat)                         -- R303
  | mzero (tt : Nat)
  | mgang (tt mask src : Nat)                   -- R304
  | launch (recPa : Nat) (recVa : Word) (cntPa : Option Nat) (q dom cntDom : Nat)   -- R298
  | ecfg (eng vq : Nat) (resume : Bool) (img : List Word) (cwa : Nat × Nat)   -- R335; completion word: physical address, domain
  | ecancel (eng vq : Nat) (cwa : Nat × Nat)          -- R336
  | mark (sc : Scope)                           -- fence.rel (R214)
  | brk | tlbinv (va : Word) | tlbinva | dcflush (pa : Nat) | dcinv (pa : Nat) | icinv (pa : Nat)   -- R357
  | ptload (index : Nat) (words : List Nat)     -- R361: image word numbers
  | eretFill (word dom : Nat)                   -- R365
  | after (ex : Nat) (causes : List Cause) (addr : Word) (dbg : Bool) (core mask : Nat) (yields : Bool)
    -- the last action of a block's commit: 1 the thread ends, 2 it migrates; its post-commit stops; a debug stop; a yield
deriving DecidableEq, Repr

/-- A message (R265). -/
structure Msg where
  cont : Word
  hdr : BitVec 32
  pay : List Word
  ten : Nat
  launch : Option Nat
  grant : Nat
  link : Option Word                    -- a stop's record, for a supervisor handler (R348)
  reply : Option (Nat × Nat × Nat × Nat)  -- core, slot, run, index of the send that waits
  wait : Bool                           -- resend until accepted (send, a stop's message)
  after : List (Nat × Nat) := []        -- core and store queue entry of each store of a stopped thread ahead of its message (R231, R348)
deriving DecidableEq, Repr

/-- A barrier token (R272): its set, the phase of its arrival, and BK. -/
structure BarTok where
  set : Nat
  ph : Bool
  bk : Bool
deriving DecidableEq, Repr

/-- Why a slot's thread is out of the rotation beyond waiting for tokens (R37). -/
inductive Hold where
  | run                                  -- in the rotation, or between blocks with a block to fetch
  | migrating                            -- a migration message awaits acceptance (R253, R254)
  | firstUse (tt : Nat) (raised : Nat)   -- a first-use trap (R340)
  | tileSave (tt : Nat)                  -- a first-use trap stopped by a translation failure, awaiting RESUME
  | stopped (at_ : Nat)                  -- stopped for a fault, awaiting RESUME (R348); the clk of the stop
  | settle (acts : List Act) (asked : Bool)   -- system forms act after commit, in order; the first has been asked for (R357)
  | requeued                             -- resumed by ACT 2 with no room in the cache: a ready context in its slot (R349)
  | ending                               -- halted; the slot returns once its stores are accepted (R101)
  | paused (at_ : Nat)                   -- breakpoint or debug stop (R400)
deriving DecidableEq, Repr

/-- A stream register's configuration and position (R162, R169). -/
structure Stream where
  bound : Bool := false
  desc : BitVec 256 := 0
  pos : Nat := 0
  ovr : Bool := false
deriving DecidableEq, Repr

/-- A thread's context (R259, R261). Every register holds a value; the values here are those of R259. -/
structure Ctx where
  id : Nat                              -- the model's number of the context
  pc : Word
  g : Vector Word 16 := Vector.replicate 16 0
  w : Vector Vec 8 := Vector.replicate 8 0
  stat : Word := 0
  fpm : Word := 0
  stklim : Word := 0
  fmt : Word := 0
  scale : Word := 0
  lfsr : Word := 1
  tag : BitVec 16
  trapcause : Word := 0
  trapaddr : Word := 0
  trapval : Word := 0
  s6 : Stream := {}
  s7 : Stream := {}
  grps : List (Option (BitVec 12)) := [none, none, none, none]
  bv : Bool := false
  bset : BitVec 12 := 0
  bph : Bool := false
  bk : Bool := false
  mdl : Bool := false
  mwait : Bool := false
  hnd : Bool := false
  flt : Bool := false
  rdy : Bool := false
  msgh : BitVec 20 := 0
  due : Option Msg := none              -- a message that waits for the next block boundary (R266)
  lslot : BitVec 12 := 0xFFF
  lidx : BitVec 32 := 0xFFFFFFFF
  launch : Option Nat := none           -- the launch it counts for
  grant : Nat := 0                      -- the grant of that launch
  spawned : Bool := false               -- counts as a spawn of its tenant (R270)
  link : Option Word := none            -- trap link: record address (R348)
  recPa : Option Nat := none            -- physical address of the trap record it waits on (R348)
  recDom : Nat := 0                     -- domain of its page
  clk : Nat := 0                        -- when it became ready, or began to wait (R262, R263)
  late : List (Cause × Word) := []      -- stops for the next block boundaries: cause, committed block (R252, R295, R345)
  hold : Hold := .run
  pass : Bool := false                  -- resumed from a breakpoint: its next block does not stop at it (R400)
  savedIn : Option Bool := none         -- some false: a spill record, some true: a save record (R405)
deriving DecidableEq, Repr

/-- A run of a block in a slot (R17 to R35). -/
structure Block where
  addr : Word
  rid : Nat                             -- the model's number of the run
  lnc : Nat                             -- LNC
  hdr : Word
  body : List Entry
  flags : BitVec 7 := 0                 -- sticky flags of this run (R27)
  regs : List (Nat × Tok) := []         -- register writes by FN of write (R90)
  stores : List (Nat × Bool × List Wr) := []  -- settled stores: LSID, release mark, writes in order (R25)
  rels : List (Nat × Scope) := []       -- scope of each release by LSID (R213)
  acts : List (Nat × Act) := []         -- commit actions by index
  exits : List (Nat × Word) := []       -- the exit taken, once one emitted a value: index, next address (R26)
  exitAt : Nat := 0                     -- clk in which it emitted it (R30)
  ponr : Bool := false                  -- past its point of no return (R30)
  post : Option Cause := none           -- the fault found in this run (R34): it stops the block at the end of its clk, or,
                                        -- past the point of no return, is raised after commit (R30)
  postAt : Nat × Nat := (0, 0)          -- clk in which it was found, instruction index (R34)
  mism : Option Cause := none           -- a PROTO_MISMATCH that follows the commit of this run (R252)
  issues : Nat := 0                     -- issue cycles of this run to charge at its commit (R35, R382)
  uses : List (Nat × Nat) := []         -- what else this run is charged at its commit: quota, amount (R35, R382)
  loads : List (Nat × Nat) := []        -- loads that have their value: LSID, line (R33)
  replays : Nat := 0                    -- replays in a row for R33
  again : Bool := false                 -- R33 was broken: it replays at the end of this clk
  misses : Nat := 0                     -- mismatches in a row in paired mode (R398)
  bad : List (Nat × Word) := []         -- failing pages (va / 65536) found by walks
  start : Nat := 0                      -- clk from which it may issue
  began : Nat := 0                      -- sr.cycle when it began (R88, R366)
  accown : Word := 0                    -- sr.accown when it began (R308)
  taken : Option Nat := none            -- context number taken in this run (R292)
  sets : List Nat := []                 -- sets taken by gnew in this run (R294)
  bars : List BarTok := []              -- barrier arrivals it has made (R273, R296)
  tok : Option (Option BarTok) := none  -- the barrier token as its arrivals and polls have left it; none: as the block began (R272)
deriving DecidableEq, Repr

/-- A launch request in a slot's launch buffer or in flight (R298). -/
structure LaunchReq where
  ten : Nat
  q : Nat
  recPa : Nat
  recVa : Word
  cntPa : Option Nat
  dom : Nat                             -- encryption domains of the record's page and the count word's
  cntDom : Nat
deriving DecidableEq, Repr

/-- A hardware thread slot; unlisted: no thread (R257). -/
structure Slot where
  ctx : Option Ctx := none
  blk : Option Block := none
  banks : List Nat := [0, 0, 0, 0]      -- tags of GL, GH, WL, WH: context id + 1, 0 for none (R351)
  lbuf : Option LaunchReq := none
  handed : Option Nat := none           -- handed over at a slot edge: the edge clk (R38)
  drain : Bool := false                 -- its block drains (R376)
  overrun : Bool := false               -- OVERRUN sent; out of the rotation (R378)
  fetch : Option (Nat × Bool) := none   -- page whose walk its next block's fetch waits for; true: the walk failed (R194)
  charge : Option Nat := none           -- clk from which its compute is charged until it commits (R378)
  trap : Option Nat := none             -- a first-use trap that has given its tile holds it: the clk of the raise (R340)
  ctr : Tab Nat := []                   -- counters 0x0000 to 0x0005; unlisted: 0
  lastTen : Nat := 0                    -- tenant those counters belong to (R363)
deriving DecidableEq, Repr

/-- A store queue entry (R25). -/
inductive SqKind where
  | st (w : Wr)
  | rel (w : Wr) (sc : Scope)
  | mark (sc : Scope)
  | join (set : Nat) (blk : Word)
  | leave (set : Nat) (tok : Option Bool)   -- with the arrival it withdraws: its phase bit
  | launch (r : LaunchReq)
  | ecfg (eng vq : Nat) (resume : Bool) (img : List Word) (cwa : Nat × Nat)
  | ecancel (eng vq : Nat) (cwa : Nat × Nat)
deriving DecidableEq, Repr

/-- Queued, left the core, accepted at its home and not yet performed everywhere. -/
inductive SqPhase where | queued | departed | accepted
deriving DecidableEq, Repr

structure SqEnt where
  id : Nat
  ctx : Nat
  slot : Nat
  ten : Nat
  blk : Word                            -- the block that committed it
  kind : SqKind
  phase : SqPhase := .queued
deriving DecidableEq, Repr

/-- An L1 line (R181): line number pa / 128, data, tenant tag, epoch of its fill (R376). -/
structure L1Line where
  line : Nat
  data : BitVec 1024
  ten : Nat
  epoch : Nat
deriving DecidableEq, Repr

/-- A TLB entry (R193): page base and size in bytes, the leaf entry, tenant, epoch. -/
structure TlbEnt where
  base : Nat
  size : Nat
  pte : Word
  ten : Nat
  epoch : Nat
deriving DecidableEq, Repr

/-- A matrix command in a slice (R302, R311). -/
structure MxCmd where
  id : Nat                              -- the model's number of the command
  kind : Nat                            -- 0 mma, 1 mzero, 2 mgang
  tt : Nat
  f : Nat := 0
  k0 : Nat := 0
  mask : Nat := 0
  src : Nat := 0
  ten : Nat := 0
  slot : Nat := 0
  ctxtag : BitVec 16 := 0
  blk : Word := 0
  fmt : Word := 0
  scale : Word := 0
  latch : List (BitVec 1024) := []      -- A as it stood when the command was sent (R310)
  lkq : Nat := 0
  lesz : Nat := 0
  lidx : List Nat := []
  latchTag : Option (Nat × Nat) := none
  bop : List (BitVec 512) := []         -- B as it stood
  bkq : Nat := 0
  bfmt : Nat := 0
  bill : Bool := false
  bopTag : Option (Nat × Nat) := none
  prior : List Wr := []                 -- for its scale reads: bytes its thread had stored when it was sent (R328)
  started : Bool := false               -- in execution, or at the Hoop
  doneAt : Nat := 0
  result : List (BitVec 32) := []       -- tile contents once performed
  tstat : Word := 0
deriving DecidableEq, Repr

/-- A tile (R307, R309). -/
structure Tile where
  elts : List (BitVec 32) := []         -- 1,024 elements row-major; an index not listed is 0
  stat : Word := 0
  gang : Option (Nat × Nat) := none     -- MASK, SRC (R304)
  gangTen : Nat := 0                    -- tenant that made the gang setting (R329)
deriving DecidableEq, Repr

/-- A fill in flight at a core (R183): the instruction that asked for it, its line, its tenant, and whether a new write has
reached the core since. -/
structure Fill where
  rid : Nat
  idx : Nat
  line : Nat
  ten : Nat
  stale : Bool := false
deriving DecidableEq, Repr

/-- A core; unlisted: its reset values (R36, R329). -/
structure Core where
  tag : Nat := 0
  logical : Nat := 0
  slots : Tab Slot := []
  s : Nat := 15
  issuedAt : Option Nat := none
  searched : Option Nat := none         -- clk of its last search that came to an end (R36)
  epoch : Nat := 0
  side : Option (Option Nat) := none    -- governing side now: none before any edge, some none the pool, some (some T)
  edgeAt : Nat := 0                     -- clk of the last owner change
  donated : Bool := false
  idle : Nat := 0                       -- clk for which the owner's slots have been out of the rotation (R381)
  l1 : List L1Line := []                -- most recently used first
  fills : List Fill := []               -- fills in flight (R183)
  icache : List (Nat × BitVec 512) := []
  tlb : List TlbEnt := []
  sq : List SqEnt := []
  arrivals : List Ctx := []             -- arrival queue, head first
  cache : List Ctx := []                -- context cache, oldest first
  saved : List (Nat × Nat × Ctx) := []  -- spill and save records: tenant, record number, what the core keeps of it
  tiles : Tab Tile := []
  accown : Word := 0
  latch : List (BitVec 1024) := []      -- a row not listed is 0
  lkq : Nat := 0
  lesz : Nat := 0
  lidx : List Nat := []
  latchTag : Option (Nat × Nat) := none
  bop : List (BitVec 512) := []
  bkq : Nat := 0
  bfmt : Nat := 0
  bill : Bool := false
  bopTag : Option (Nat × Nat) := none
  mxq : List MxCmd := []                -- slice command queue and commands in execution, oldest first
  mxAt : Option Nat := none             -- clk in which the slice last took a command (R311)
  layouts : List (Nat × Nat × Nat × Nat × Word) := []  -- tenant, handle, L, S, seed (R199)
  brks : List Word := []                -- breakpoints (R400)
  dbgStop : List Nat := []              -- tenants stopped by the debug module
  trace : Option (Nat × Word × Nat × Nat) := none  -- tenant, ring base of the supervisor tenant, records, next (R401)
  traceAt : Nat := 0
  paired : Bool := false
  pairNext : Option Bool := none        -- PAIR to take effect at the next slot edge
  dispAt : Option Nat := none           -- clk of the last displacement (R263, R352)
  pre : List Nat := []                  -- slots named in PRE, not yet displaced (R352, R366)
  lvq : List (Nat × Nat × Tok × Tok) := []  -- load-value queue: slot, index, results (R398)
  winAt : Nat := 0                      -- start of the power window (R404)
  winIssue : Tab Nat := []              -- issue cycles in the window per tenant; the drain share under 32
  gated : List Nat := []                -- tenants (32: draining blocks) gated until the window ends (R404)
  ctr : Tab Nat := []                   -- counters 0x0100 to 0x0104
deriving DecidableEq, Repr

/-- What a reply brings to an instruction (R37). -/
inductive Reply where
  | words (ws : List (Nat × Word))            -- memory words
  | result (p s : Tok)                        -- primary and status results; completes the form
  | layout (p s : Tok) (ten h l split : Nat) (seed : Word)   -- a map reply with the current layout (R199)
  | turnedAway (c : Cause) (ten h l split : Nat) (seed : Word)   -- a fault with the current layout (R199, R225)
  | noMap (ten h : Nat)                       -- the map is destroyed (R227)
  | fault (c : Cause)                         -- a fault found at the home
deriving DecidableEq, Repr

/-- Where a request came from: an instruction of a run, a form that settles after commit, the wait of a stopped context on
RESUME (R348), a dispatcher's on a launch ring (R274), a remote package's access for a tenant (R393), an agent that awaits no reply. -/
inductive Who where
  | entry (core slot rid idx : Nat)
  | settle (core slot : Nat)            -- a dcflush or dcinv at commit (R359)
  | resume (id ten : Nat)               -- the core of a stopped context, for its supervisor tenant (R348)
  | ring (ten q id : Nat)               -- the dispatcher of a launch ring's tenant: its wait's number (R274)
  | rim (ten : Nat)
  | none
deriving DecidableEq, Repr

/-- A full/empty request (R215). -/
structure FeReq where
  form : Instr
  word : Nat
  b : Word
  who : Who
  hint : Nat
  va : Word
  dom : Nat
deriving DecidableEq, Repr

/-- A map request (R199, R223). -/
structure MapReq where
  form : Instr
  ten : Nat
  h : Nat
  key : Word
  val : Word
  bucket : Nat
  who : Who
  told : Bool := false                  -- QUOTA has been raised for its wait on arena lines (R201)
deriving DecidableEq, Repr

/-- An event waiting at a protocol engine (R243): event code, line, requester (a core, 8192 + die for a replica slice, 4096 for an
agent), what the requester gets when the transaction ends. -/
structure PEv where
  code : Nat
  line : Nat
  req : Nat
  hint : Nat
  who : Who
  words : List Nat
  reply : Option Reply
  sq : Option (Nat × Nat)               -- core and store queue entry that is performed by it
  va : Word
  dom : Nat
  ten : Nat
  drop : Bool := false                  -- an EVICT that discards the line's changes (dcinv, R359)
  seen : Bool := false                  -- its hint has been compared with PROTO (R252)
  wrs : List Wr := []                   -- the writes it stands for, in order: what an update of it carries (R239, R247)
deriving DecidableEq, Repr

/-- What is in flight. -/
inductive Pkt where
  | reply (core slot rid idx : Nat) (r : Reply) (line : Option (Nat × BitVec 1024)) (install : Bool)
  | inv (core line : Nat) (upd : Option (List Wr))    -- none: an invalidation; else an update with what it writes
  | ack (line code : Nat)               -- ACKI 7, ACKU 8, RACK 9 on its way to the home
  | replUpd (die line : Nat) (upd : Option (List Wr)) -- the same for a replica slice
  | store (core sq : Nat) (w : Wr) (rel : Option Scope) (ten : Nat)
  | fe (q : FeReq)
  | amo (row : Instr) (word : Nat) (hi : Bool) (d : Bool) (b : Word) (who : Who) (hint : Nat) (va : Word) (dom : Nat)
  | cas (row : Instr) (word : Nat) (hi : Bool) (b c : BitVec 128) (who : Who) (hint : Nat) (va : Word) (dom : Nat)
  | walk (core ten page : Nat)
  | map (m : MapReq)
  | count (m : MapReq) (up : Bool) (p s : Tok)
  | migr (core id from_ slot : Nat)
  | msg (m : Msg)
  | spawn (row : Instr) (core : Nat) (entry : Word) (gs : List Word) (parent : Ctx) (lfsr : Word) (who : Who)
  | join (core sq ctx ten set : Nat) (blk : Word)
  | leave (core : Nat) (sq : Option Nat) (ctx ten set : Nat) (tok : Option Bool)
  | arrive (core slot rid idx ctx ten set : Nat) (wait : Bool)
  | stands (w : Nat × Nat × Nat × Nat × Nat) (ten set : Nat) (ph : Bool)   -- an arrival whose block was discarded: core, slot, run, index,
                                        -- context, and the phase in which it counts (R273, R296)
  | refused (ctx set : Nat) (blk : Word)
  | launch (core slot : Nat) (r : LaunchReq)
  | ego (eng vq : Nat) (recPa : List Nat) (recVa : Word) (ten : Nat) (fmt scale : Word) (rm : Nat) (tag : BitVec 16) (who : Who)
  | ecfg (core sq ten eng vq : Nat) (resume : Bool) (img : List Word) (cwa : Nat × Nat)
  | ecancel (core sq ten eng vq : Nat) (cwa : Nat × Nat)
  | tailw (ten eng vq : Nat)
  | ptload (core slot part index : Nat) (words : List Nat)
  | resume (id : Nat) (v : Word)        -- the fill of RESUME on its way to the context numbered id (R350)
deriving DecidableEq, Repr

/-- A request in flight: its number, the port tag it carries (R368), whether it has been NACKed, and from which clk on
it may be resent. -/
structure Req where
  id : Nat
  tag : Nat
  nacked : Bool := false
  at_ : Nat := 0
  pkt : Pkt
deriving DecidableEq, Repr

/-- A parked request on a word's wait list (R186, R215), in the order in which they reached the home. -/
structure Wait where
  word : Nat
  store : Bool
  q : FeReq
deriving DecidableEq, Repr

/-- A directory entry: a line in its home's L2 (R182, R241). -/
structure Dir where
  line : Nat
  st : Nat := 0
  sharers : List Nat := []
  bcast : Bool := false
  cnt : Nat := 0
  held : List PEv := []
  cur : Option PEv := none              -- the event that entered the transient state
  group : Option Nat := none            -- way group it was placed in
  dom : Nat := 0                        -- domain of its fill (R384)
  old : Option (BitVec 1024) := none    -- as last written back, while dirty
  tags : Tab Nat := []                  -- size tags of its words (R220): 1, 2, 3 for 4, 8, 16 bytes
  flush : Bool := false                 -- to leave before its way group's new owner has a fill placed there (R377)
deriving DecidableEq, Repr

/-- A line that a replica slice holds (R239, R247): its data and the way group it was placed in (R374). -/
structure Replica where
  data : BitVec 1024
  group : Nat
deriving DecidableEq, Repr

/-- A walk in progress or queued (R194). -/
structure Walk where
  part : Nat
  slice : Nat
  ten : Nat
  page : Nat
  running : Bool
  cores : List Nat
deriving DecidableEq, Repr

/-- A bucket line (R198): its arena line (physical address / 128), and entries by position. -/
structure BLine where
  at_ : Nat
  ents : List (Option (Word × Word))
deriving DecidableEq, Repr

/-- A bucket: LSTAMP, STATE (0 idle, 1 locked as source, 2 as target), its chain of lines; OVF of a line names the next. -/
structure Bucket where
  lstamp : Nat
  state : Nat := 0
  chain : List BLine
deriving DecidableEq, Repr

/-- A live map (R195). -/
structure MapObj where
  seed : Word
  thresh : Nat
  l : Nat
  s : Nat
  count : Int                           -- below 0 while a decrement has overtaken its increment
  buckets : Tab Bucket
  split : Option (Nat × Nat) := none    -- source and target of the split in progress
  moved : Nat := 0                      -- source lines moved so far
  triggers : List (MapReq × Tok × Tok) := []  -- increments whose answers wait for the next split's locks (R200)
  stuck : Bool := false                 -- QUOTA has been raised for a split's wait on arena lines (R201)
  dying : Bool := false                 -- destroyed, a split step still to finish (R227)
deriving DecidableEq, Repr

/-- A membership set (R271). -/
structure SetObj where
  memb : Nat := 0
  arr : Nat := 0
  ph : Bool := false
  waiters : List (Nat × Nat × Nat × Nat × Nat) := []  -- core, slot, run, index, context of each bar waiting in this phase
  deferred : List (Nat × Nat × Nat × Nat × Nat) := [] -- arrivals for the next phase, in order
  had : Bool := false                   -- it has had a member
  creator : Option Nat := none          -- launch of its creator
deriving DecidableEq, Repr

/-- A launch record as accepted (R275) with what the dispatchers keep of it (R277 to R279). -/
structure Launch where
  ten : Nat
  q : Nat
  recVa : Word
  crec : Word                           -- CREC
  crecPa : Option Nat                   -- its physical address; none: the launch is lost (R275)
  crecDom : Nat := 0                    -- encryption domain of its page
  prev : Option Nat                     -- the launch before it on its queue
  deps : List Nat := []                 -- words of DEP0, DEP1
  dies : List Nat := []                 -- live dies of the span, by global number (package × 4 + die), ascending
  conc : Bool := false
  count : Nat := 0
  cntWord : Option Nat := none          -- count word of an indirect launch
  cntDom : Nat := 0                     -- encryption domain of its page
  entry : Word := 0
  sp : Word := 0
  stklim : Word := 0
  sstride : Word := 0
  fmtd : Word := 0
  scaled : Word := 0
  fmt : Word := 0
  scale : Word := 0
  seq : BitVec 32
  begun : Bool := false
  next : Nat := 0                       -- index counter
  grants : List (Nat × Nat × Nat × Nat × Nat) := []  -- number, die, first index, indices left to start, live threads
  ngrants : Nat := 0
  asked : List (Nat × Nat) := []        -- grant requests outstanding: die, clk
  exhausted : List Nat := []            -- dies that were answered "exhausted"
  leader : Nat := 0
  mirror : Option Nat := none
  elect : Nat := 0
  regrant : Nat := 0
  threads : Nat := 0
  misses : Nat := 0
  search : Nat := 0
  tenq : Nat := 0
  tstart : Nat := 0
  status : Nat := 0
  stop : Bool := false                  -- an ending fault stopped further grants (R279)
  done : Bool := false
  lslot : Nat := 0
  deadAt : Option Nat := none           -- when its leader or mirror was last found dead (R278)
  mirrored : List Nat := []             -- grants that its leader, elsewhere, has mirrored here for a die that has not yet been sent them (R278)
  asking : List Nat := []               -- grants recorded for dies of other packages that a new leader here asks about (R278)
  owes : Bool := false                  -- its record is written and its word is still to be filled (R279)
deriving DecidableEq, Repr

/-- An engine command in a shadow set (R317). -/
structure EngCmd where
  ten : Nat
  root : Nat
  vq : Nat
  recVa : Word
  fmt : Word
  scale : Word
  rm : Nat
  tag : BitVec 16
  core : Nat := 4096                    -- core it was accepted from; 4096: none
  opc : Nat := 0
  opt : Nat := 0                        -- byte 1: FLAGS or DT
  src : Word := 0
  dst : Word := 0
  len : Nat := 0
  cwa : Nat := 0                        -- word number of its completion word, translated at the start
  cwaDom : Nat := 0                     -- domain of its page
  tg : BitVec 32 := 0
  err : Word := 0                       -- ERRADDR of its queue
  pos : Nat := 0                        -- bytes done
  did : List Nat := []                  -- elements or words done, where their order is free
  fail : Option (Nat × Word) := none    -- CAUSE and VADDR; from 256 on: an access was dropped by the tag less 256 of its destination (R368)
  failAt : Nat := 0                     -- clk of the failure
  told : Bool := false                  -- its error record is written; its completion word is still to be filled (R317)
  flg : BitVec 5 := 0
  ovc : Nat := 0
  started : Nat := 0
deriving DecidableEq, Repr

/-- What the front end keeps of an ego until its command starts (R306, R316): record address and words, sr.fmt, sr.scale,
RM and sr.ctxtag of the issuing block, and its core. -/
structure EgoArg where
  recVa : Word
  ws : List Word
  fmt : Word
  scale : Word
  rm : Nat
  tag : BitVec 16
  core : Nat
deriving DecidableEq, Repr

/-- A virtual queue (R315) as its engine sees it; while it is not bound, its descriptor in memory is all there is. -/
structure VQ where
  bound : Bool := false
  age : Nat := 0                        -- when it was bound, or when it became pending, on the engine's counter
  slot : Nat := 0                       -- hardware queue slot
  credit : Int := 0
  pend : Bool := false
  img : List Word := []                 -- the descriptor as read when it was bound
  head : Nat := 0
  halt : Bool := false
  args : List EgoArg := []
  cancel : List (Nat × Nat × Nat) := [] -- fills of ecancel that wait for commands in progress: word, domain, count (R336)
deriving DecidableEq, Repr

structure Engine where
  vqs : Tab VQ := []                    -- by tenant × 16 + VQ
  shadows : Tab EngCmd := []            -- the 4 shadow sets in use
  ticks : Nat := 0                      -- orders bindings
deriving DecidableEq, Repr

/-- An mma waiting at a Hoop (R304, R313). -/
structure HoopEnt where
  row : Nat                             -- die × 128 + gang row
  pos : Nat
  core : Nat
  cmd : MxCmd
  at_ : Nat
deriving DecidableEq, Repr

/-- A partition (R367, R369). -/
structure Part where
  cores : List Nat                      -- physical core of each logical core
  slices : List Nat                     -- physical slice (die × 256 + number) of each logical slice
  vaults : List Nat                     -- physical vault of each logical vault
  svten : Nat
  scont : Word := 0
  tbase : Word := 0
  mixed : Bool := false
  ctr : Tab Nat := []                   -- counters 0x0300 to 0x0302
  rects : List (Nat × Nat × Nat × Nat × Nat) := []  -- die, row0, col0, rows, cols
  evcount : Nat := 0                    -- mailbox event entries since boot (R392)
  rr : Tab Nat := []                    -- dispatcher pointer per die: last core used + 1 (R277)
deriving DecidableEq, Repr

/-- The map arena of a tenant on a logical slice pair (R197): its first line (physical address / 128), lines, and those taken, rising. -/
structure Arena where
  first : Nat := 0
  lines : Nat := 0
  used : List Nat := []
deriving DecidableEq, Repr

/-- A launch ring as its dispatcher sees it (R274): base, 2^k slots, next slot; the wait on that slot's word 56. -/
structure Ring where
  base : Word
  k : Nat
  next : Nat := 0
  asked : Option Nat := none            -- number of the wait it has asked for
  seen : Bool := false                  -- that wait has been served
deriving DecidableEq, Repr

/-- A tenant (R371, R382, R383). -/
structure Tenant where
  part : Nat
  root : Nat := 0
  msgBase : Word := 0
  engBase : Word := 0
  errBase : Word := 0
  tileBase : Word := 0
  spillN : Nat := 0
  spillBase : Word := 0
  saveN : Nat := 0
  saveBase : Word := 0
  rings : Tab Ring := []                -- by queue
  arena : Tab Arena := []               -- map arena per logical slice pair (R197)
  don : Nat := 0
  donee : Nat := 0
  debug : Bool := false
  limits : Tab Nat := []                -- by quota number; unlisted: all ones, no limit
  counts : Tab Nat := []
  peaks : Tab Nat := []
  crossed : List Nat := []
  held : List Nat := []                 -- rate quotas whose limit holds the tenant until the frame ends
  spawns : Nat := 0                     -- children started in the frame
  overruns : Nat := 0
  secev : Nat := 0
  numbers : List Nat := []              -- context numbers in use (R258)
  maps : Tab MapObj := []
  sets : Tab SetObj := []
  last : Tab Nat := []                  -- the last launch of each queue
  session : Tab Nat := []               -- counter values carried in by a profiling session, by number (R403)
  fenced : Bool := false
  erased : Bool := false
deriving DecidableEq, Repr

/-- A Handle or Rim window, or a host window (R389, R390, R393). -/
structure Window where
  kind : Nat                            -- 0 Handle frame, 1 Rim outbound, 2 host window, 3 Rim inbound entry
  n : Nat
  ten : Nat
  remote : Nat
  base : Word
deriving DecidableEq, Repr

/-- The patterns and selections of the Weave (R373). -/
structure Weave where
  pats : Tab (List Byte) := []          -- pattern bytes; unlisted: 64 zero bytes, pool slots
  core : Tab Nat := []                  -- pattern number per core; unlisted: 0
  group : Tab Nat := []                 -- per slice × 4 + way group
  chan : Tab Nat := []
  port : Tab Nat := []
  link : Tab Nat := []
deriving DecidableEq, Repr

/-- A usage record (R385). -/
structure Usage where
  seq : Nat
  frame : Nat
  ten : Nat
  kind : Nat
  detail : Nat
  vals : List Nat := []                 -- OVERRUN, SLOTCLK, PAGES, ENTRIES, SPAWNS, RIMB, HNDB, ENGCLK, SECEV
deriving DecidableEq, Repr

/-- A seal of the log's chain (R386): SEQ, BOOT, FRAME, HEAD and the signature over them. -/
structure Seal where
  seq : Nat
  boot : Nat
  frame : Nat
  head : BitVec 512
  sig : List Byte
deriving DecidableEq, Repr

/-- A firmware image and its signature (R395). -/
structure Fw where
  code : List Byte := []
  sig : List Byte := []
deriving DecidableEq, Repr

/-- An event of the package (R392): sr.cycle, EVCODE, die, quad or channel, detail. -/
structure Event where
  at_ : Nat
  code : Nat
  die : Nat
  unit : Nat
  detail : Nat
deriving DecidableEq, Repr

/-- The Lid and the package (22, 23). -/
structure Lid where
  power : Bool := false
  stage : Option Nat := none
  stageFail : Option Nat := none
  boot : Nat := 0
  imgs : List Fw := [{}, {}]            -- firmware images A and B
  active : Nat := 0
  staged : Bool := false
  switching : Option Nat := none        -- FWSWITCH accepted: frame at which it happens; mailbox silent meanwhile
  silent : Bool := false
  weave : Weave := {}
  weaveNext : Option Weave := none
  levels : Tab Nat := []                -- alarm level per input; unlisted: 1
  opkey : Nat := 0                      -- operator key the policy names, by identity
  highest : Nat := 0
  seq : Nat := 0
  head : BitVec 512 := 0
  log : List Usage := []
  sinceSeal : Nat := 0
  seals : List Seal := []
  ring : Option (Nat × Nat) := none     -- the log ring's first physical address and bytes (R386)
  ringAt : Nat := 0                     -- where the next record of the log goes in it
  events : List Event := []             -- events of the package since boot, oldest first (R392)
  windows : List Window := []
  ports : List Nat := []                -- Rim ports that are down
  fencedDies : List Nat := []
  downChans : List Nat := []            -- stack channels that are being recalibrated (R397)
  joining : List Nat := []              -- fenced dies that are being retrained (R397)
  answers : Tab (Option (List (Word × Bool))) := []  -- last answer to the host on links 0 and 1, and to the Rim (2); none: an error
  deadDies : List Nat := []
  package : Nat := 0                    -- this package's number (R393)
  farDead : List Nat := []              -- dead dies of other packages, by global number (R278, R396)
  farGone : List Nat := []              -- other packages that are dead as a whole (R396)
  forwards : List (Nat × Nat × Nat × Nat) := []  -- launches sent on: package, tenant, queue, number here; oldest first (R298)
  contained : List Nat := []            -- quads (die × 256 + quad) of contained rectangles (R399)
  beats : Tab Nat := []                 -- clk of the last heartbeat per die
  limit : Nat := 6000
  limitNext : Option Nat := none
  held : Bool := false                  -- all compute dies held in reset (alarm level 4)
  edgeAt : Option Nat := none           -- the last slot edge taken
  frameAt : Option Nat := none          -- the last frame boundary taken
  sets : List (Nat × Nat × Nat × List Word) := []  -- settings accepted, waiting for the slot edge: partition, tenant, row, values
  remaps : List (Nat × Nat × Nat × Nat) := []      -- remaps accepted: partition, table, logical, physical
deriving DecidableEq, Repr

/-- A range table entry (R248). -/
structure Range where
  start : Nat                           -- in 64 KiB units
  size : Nat
  part : Nat
  dies : Nat
  proto : Nat
  mte : Bool
  cnt : Nat := 0                        -- protocol event counter (R244)
deriving DecidableEq, Repr

/-- A table image as installed (R246): DECL, TRANS, INIT, KIND, cells by 16 × state + event. -/
structure Image where
  decl : Nat
  trans : Nat
  init : Nat
  kind : Nat
  cells : List (BitVec 32)
deriving DecidableEq, Repr

/-- The arguments of the step to be taken: core, slot, instruction index for a firing; numbers, words, bytes for a
device step, as its meaning says. -/
structure Focus where
  c : Nat := 0
  k : Nat := 0
  i : Nat := 0
  n : Nat := 0
  m : Nat := 0
  x : Word := 0
  y : Word := 0
  z : Word := 0
  bytes : List Byte := []
  ns : List Nat := []
  ms : List Nat := []
  ws : List (Word × Word × Bool) := []
deriving DecidableEq, Repr

/-- What comes next where the spec fixes no order: a core issues, a device step is taken, a clk passes (log entry 1). -/
inductive Move where
  | issue (core : Nat)
  | step (row : Instr) (f : Focus)
  | tick
deriving DecidableEq, Repr

/-- One HJ-9600 package. -/
structure State where
  cycle : Nat                           -- sr.cycle, and every clk count
  fresh : Nat                           -- the model's counter of free values
  nextId : Nat                          -- the model's next identity number
  agenda : List Move                    -- the model's choice of what comes next
  focus : Focus
  mem : List Host.Cell                  -- bytes of stacks and vaults; unlisted: 0
  feFlip : List Nat                     -- words whose full/empty bit is not its initial one, rising
  dirty : List Nat                      -- pages whose dirty bit is set, rising
  frames : Tab (Nat × Bool)             -- owning domain, erased mark; unlisted: (0, false)
  waits : List Wait
  dirs : List Dir
  replicas : Tab Replica                -- replica lines: line × 4 + die
  releases : List (Nat × Nat × Scope × List Nat)  -- word, core, scope, store queue entries ahead of it (R232)
  widen : List (PEv × Nat × List Nat)   -- acquires that wait for a releasing core's stores (R232)
  fulls : List (Nat × List Nat)         -- core and store queue entries that a settled fence.full of a narrow scope lets stand (R231)
  peq : List PEv
  reqs : List Req
  walks : List Walk
  ranges : Tab Range
  draining : List (Nat × Nat × Range × Bool)  -- range entries being changed: number, partition, new entry, whether a mailbox
                                        -- command waits for it (R249)
  images : Tab Image                    -- partition × 2 + (index − 6)
  mismatch : Tab Nat                    -- slice counters 0x0201
  sliceCtr : Tab Nat                    -- slice × 4 + n: counters 0x0200, 0x0202
  cores : Tab Core
  parts : Tab Part
  tenants : Tab Tenant
  launches : Tab Launch
  engines : Tab Engine
  hoop : List HoopEnt
  lid : Lid
deriving DecidableEq, Repr

/-- The package right after reset: nothing powered, every table empty (R36, R185, R248, R329; log entry 2). -/
def State.reset : State where
  cycle := 0
  fresh := 0
  nextId := 1
  agenda := []
  focus := {}
  mem := []
  feFlip := []
  dirty := []
  frames := []
  waits := []
  dirs := []
  replicas := []
  releases := []
  widen := []
  fulls := []
  peq := []
  reqs := []
  walks := []
  ranges := []
  draining := []
  images := []
  mismatch := []
  sliceCtr := []
  cores := []
  parts := []
  tenants := []
  launches := []
  engines := []
  hoop := []
  lid := {}

/-- What a step answers. -/
abbrev Out := Host.Outcome State Fault Refusal

end Sys2Proof.Machine
end

