-- ==== Sys2Proof/Machine/Ops.lean ====
section
/-!
DEFINITION. Machine/Ops: named operations over tables, memory, registers and slots, the firing of an instruction, the
delivery of tokens, and taking an exception (R345, R348) with its return (R349).
-/
namespace Sys2Proof

/-- Forms that take their value from memory in LSID order as loads do (R24). -/
def Insn.isLoad (i : Insn) : Bool :=
  match i.row with
  | .ldB => true | .ldBu => true | .ldH => true | .ldHu => true | .ldW => true | .ldWu => true | .ldD => true
  | .ldacqW => true | .ldacqWu => true | .ldacqD => true | .vld => true | .vldb => true | .vgathW => true | .vgathD => true
  | .ldfw => true | .ldfwe => true | .ldfn => true | .ldfne => true | .mst => false
  | _ => false

/-- Stores that settle in the block and leave at commit (R24, R25). -/
def Insn.isStore (i : Insn) : Bool :=
  match i.row with
  | .stB => true | .stH => true | .stW => true | .stD => true | .strelW => true | .strelD => true
  | .vst => true | .vscatW => true | .vscatD => true | .mst => true | .mstBf => true
  | _ => false

/-- Forms that read their tile when they fire (R330, R331). -/
def Insn.readsTile (i : Insn) : Bool := i.row == .mst || i.row == .mstBf

/-- Acquiring loads (R33, R212). -/
def Insn.isAcquire (i : Insn) : Bool :=
  match i.row with
  | .ldacqW => true | .ldacqWu => true | .ldacqD => true | .ldfw => true | .ldfwe => true | .ldfn => true | .ldfne => true
  | .fenceAcq => true | .fenceFull => true
  | _ => false

end Sys2Proof

namespace Sys2Proof.Machine

/-! ## Tables -/

/-- The value of a number, none where it is not listed. -/
def tget? {α : Type} : Tab α → Nat → Option α
  | [], _ => none
  | (n, x) :: t, m => if n = m then some x else tget? t m

/-- The value of a number, or d. -/
def tget {α : Type} (t : Tab α) (m : Nat) (d : α) : α := (tget? t m).getD d

/-- Sets a number, keeping the numbers rising. -/
def tset {α : Type} : Tab α → Nat → α → Tab α
  | [], m, x => [(m, x)]
  | (n, y) :: t, m, x => if m < n then (m, x) :: (n, y) :: t else if m = n then (m, x) :: t else (n, y) :: tset t m x

/-- Removes a number. -/
def tdel {α : Type} (t : Tab α) (m : Nat) : Tab α := t.filter fun x => x.1 != m

/-- Adds to a count. -/
def tadd (t : Tab Nat) (m d : Nat) : Tab Nat := tset t m (tget t m 0 + d)

/-- Inserts into a rising list of numbers without repeats. -/
def linsert : List Nat → Nat → List Nat
  | [], m => [m]
  | n :: t, m => if m < n then m :: n :: t else if m = n then n :: t else n :: linsert t m

/-- Removes from a list of numbers. -/
def lremove (l : List Nat) (m : Nat) : List Nat := l.filter fun n => n != m

/-- Removes the element of index n. -/
def removeAt {α : Type} (l : List α) (n : Nat) : List α := l.take n ++ l.drop (n + 1)

/-! ## Memory: bytes by physical address, one canonical list (R4, R178, R185) -/

/-- What an address that is not listed reads as: 0, as after the power-up scrub (R185). -/
def unlisted : Byte := 0

/-- One byte. -/
def memGet : List Host.Cell → Nat → Byte
  | [], _ => unlisted
  | (n, x) :: t, m => if n = m then x else if m < n then unlisted else memGet t m

/-- Writes one byte, keeping addresses rising and no entry equal to what an unlisted address reads as. -/
def memPut : List Host.Cell → Nat → Byte → List Host.Cell
  | [], m, x => if x = unlisted then [] else [(m, x)]
  | (n, y) :: t, m, x =>
    if m < n then (if x = unlisted then (n, y) :: t else (m, x) :: (n, y) :: t)
    else if m = n then (if x = unlisted then t else (m, x) :: t)
    else (n, y) :: memPut t m x

/-- The canonical form: addresses strictly rising, no entry equal to what an unlisted address reads as. -/
def memWf : List Host.Cell → Bool
  | [] => true
  | [(_, x)] => x != unlisted
  | (n, x) :: (m, y) :: t => x != unlisted && n < m && memWf ((m, y) :: t)

/-- Eight bytes from an address, little-endian (R4). -/
def memWord (m : List Host.Cell) (a : Nat) : Word :=
  memGet m (a + 7) ++ memGet m (a + 6) ++ memGet m (a + 5) ++ memGet m (a + 4) ++
    memGet m (a + 3) ++ memGet m (a + 2) ++ memGet m (a + 1) ++ memGet m a

/-- Byte i of a word. -/
def byteOf (v : Word) (i : Nat) : Byte := v.extractLsb' (8 * i) 8

/-- Writes the masked bytes of a word at word number w, from byte i on. -/
def memPutMasked (m : List Host.Cell) (w : Nat) (v : Word) (mask : Byte) : Nat → List Host.Cell
  | 0 => m
  | n + 1 =>
    let m' := memPutMasked m w v mask n
    if mask.getLsbD n then memPut m' (8 * w + n) (byteOf v n) else m'

/-- The aligned word of a word number. -/
def State.word (s : State) (w : Nat) : Word := memWord s.mem (8 * w)

/-- Writes the masked bytes of a word (R207, R209): one access. -/
def State.putWord (s : State) (w : Nat) (v : Word) (mask : Byte) : State :=
  { s with mem := memPutMasked s.mem w v mask 8 }

/-- Merges the masked bytes of v into old. -/
def merge (old v : Word) (mask : Byte) : Word :=
  let b (i : Nat) : Byte := if mask.getLsbD i then byteOf v i else byteOf old i
  b 7 ++ b 6 ++ b 5 ++ b 4 ++ b 3 ++ b 2 ++ b 1 ++ b 0

/-- The 128-byte line of a line number (pa / 128), byte 0 in bits 7:0. -/
def State.line (s : State) (l : Nat) : BitVec 1024 :=
  BitVec.ofNat 1024 ((List.range 16).foldl (fun a i => a + (s.word (16 * l + i)).toNat <<< (64 * i)) 0)

/-- Word i of a line. -/
def lineWord (d : BitVec 1024) (i : Nat) : Word := d.extractLsb' (64 * i) 64

/-- A line with one word replaced under a mask. -/
def linePut (d : BitVec 1024) (i : Nat) (v : Word) (mask : Byte) : BitVec 1024 :=
  let n := merge (lineWord d i) v mask
  (d &&& ~~~((BitVec.ofNat 1024 (2 ^ 64 - 1)) <<< (64 * i))) ||| ((n.zeroExtend 1024) <<< (64 * i))

/-- Writes a whole line to memory. -/
def State.putLine (s : State) (l : Nat) (d : BitVec 1024) : State :=
  (List.range 16).foldl (fun s i => s.putWord (16 * l + i) (lineWord d i) 0xFF) s

/-- Mailbox CMD and STATUS words, which start empty (R391). -/
def startsEmpty (w : Nat) : Bool :=
  let pa := 8 * w
  0x20000001000 ≤ pa && pa < 0x20000100000 && (pa % 0x1000 == 0 || pa % 0x1000 == 64)

/-- The full/empty bit of a word: full after the power-up scrub (R185), but for mailbox CMD and STATUS (R391). -/
def State.full (s : State) (w : Nat) : Bool := startsEmpty w == s.feFlip.contains w

/-- Sets a full/empty bit. -/
def State.setFull (s : State) (w : Nat) (f : Bool) : State :=
  { s with feFlip := if f == !startsEmpty w then lremove s.feFlip w else linsert s.feFlip w }

/-! ## The physical map (R178, R179, R389) -/

/-- What stands at a physical address. -/
inductive Region where
  | stack (chan : Nat)
  | vault (v : Nat)
  | mailbox (part : Nat)
  | handle (link : Nat)
  | rim (win : Nat)
  | unbacked
deriving DecidableEq, Repr

/-- Tables 10.2 and 23.1. -/
def regionOf (pa : Nat) : Region :=
  if pa < 512 * 0x80000000 then (if pa % 0x80000000 < 0x60000000 then .stack (pa / 0x80000000) else .unbacked)
  else if 0x10000000000 ≤ pa && pa < 0x10000000000 + 1024 * 0x100000 then .vault ((pa - 0x10000000000) / 0x100000)
  else if 0x20000001000 ≤ pa && pa < 0x20000100000 then .mailbox ((pa - 0x20000000000) / 0x1000)
  else if 0x24000000000 ≤ pa && pa < 0x28000000000 then .handle ((pa - 0x24000000000) / 0x2000000000)
  else if 0x28000000000 ≤ pa && pa < 0x30000000000 then .rim ((pa - 0x28000000000) / 0x40000000)
  else .unbacked

/-- Stack memory: it has a directory, dirty bits and encryption (R221, R241, R383). -/
def isStack (pa : Nat) : Bool := match regionOf pa with | .stack _ => true | _ => false

/-- The home slice, as die × 256 + slice number (R179). The Lid serves its mailbox; it is given slice 0 here. -/
def homeOf (pa : Nat) : Nat :=
  match regionOf pa with
  | .stack c => (c / 128) * 256 + 2 * (c % 128) + (pa / 128) % 2
  | .vault v => v
  | _ => 0

/-- Die, row and column of a core (R2). -/
def coreDie (c : Nat) : Nat := c / 1024
/-- The quad of a core within the package: die × 256 + quad (R2). -/
def coreQuad (c : Nat) : Nat := c / 4
/-- Gang row of a core, as die × 128 + row, and the position in it (R2). -/
def coreGang (c : Nat) : Nat × Nat := (coreQuad c / 2, c % 8)

/-! ## Cores and slots -/

/-- A core, at its reset values where it is not listed. -/
def State.core (s : State) (c : Nat) : Core := tget s.cores c {}
/-- Replaces a core. -/
def State.setCore (s : State) (c : Nat) (k : Core) : State := { s with cores := tset s.cores c k }
/-- A slot of a core. -/
def Core.slot (c : Core) (k : Nat) : Slot := tget c.slots k {}
/-- Replaces a slot of a core. -/
def Core.setSlot (c : Core) (k : Nat) (x : Slot) : Core := { c with slots := tset c.slots k x }
/-- A slot by core and slot number. -/
def State.slot (s : State) (c k : Nat) : Slot := (s.core c).slot k
/-- Replaces a slot by core and slot number. -/
def State.setSlot (s : State) (c k : Nat) (x : Slot) : State := s.setCore c ((s.core c).setSlot k x)
/-- Changes the context in a slot. -/
def State.modCtx (s : State) (c k : Nat) (f : Ctx → Ctx) : State :=
  let x := s.slot c k
  s.setSlot c k { x with ctx := x.ctx.map f }
/-- Changes the block in a slot. -/
def State.modBlk (s : State) (c k : Nat) (f : Block → Block) : State :=
  let x := s.slot c k
  s.setSlot c k { x with blk := x.blk.map f }
/-- Changes a core. -/
def State.modCore (s : State) (c : Nat) (f : Core → Core) : State := s.setCore c (f (s.core c))

/-- Adds 1 to a counter of a core (0x0100 + n; R402). -/
def State.countCore (s : State) (c n : Nat) : State := s.modCore c fun k => { k with ctr := tadd k.ctr n 1 }
/-- Adds 1 to a counter of a slot (R402). -/
def State.countSlot (s : State) (c k n : Nat) : State :=
  let x := s.slot c k
  s.setSlot c k { x with ctr := tadd x.ctr n 1 }

/-- The tenant of a context: sr.ctxtag bits 15:11 (R258). -/
def Ctx.ten (x : Ctx) : Nat := (x.tag.extractLsb' 11 5).toNat
/-- The context number: sr.ctxtag bits 10:0 (R258). -/
def Ctx.num (x : Ctx) : Nat := (x.tag.extractLsb' 0 11).toNat

/-- A general register (R89). -/
def Ctx.greg (x : Ctx) (r : BitVec 4) : Word := x.g[r.toNat]'(r.isLt)
/-- Writes a general register (R27). -/
def Ctx.setG (x : Ctx) (r : BitVec 4) (v : Word) : Ctx := { x with g := x.g.set r.toNat v r.isLt }
/-- A vector register (R89). -/
def Ctx.vreg (x : Ctx) (r : BitVec 3) : Vec := x.w[r.toNat]'(r.isLt)
/-- Writes a vector register. -/
def Ctx.setW (x : Ctx) (r : BitVec 3) (v : Vec) : Ctx := { x with w := x.w.set r.toNat v r.isLt }

/-- A stream of a context: 0 is w6, 1 is w7. -/
def Ctx.stream (x : Ctx) (n : Nat) : Stream := if n = 0 then x.s6 else x.s7
/-- Replaces a stream. -/
def Ctx.setStream (x : Ctx) (n : Nat) (t : Stream) : Ctx := if n = 0 then { x with s6 := t } else { x with s7 := t }

/-- A tenant's state, if it exists. -/
def State.ten? (s : State) (t : Nat) : Option Tenant := tget? s.tenants t
/-- Changes a tenant. -/
def State.modTen (s : State) (t : Nat) (f : Tenant → Tenant) : State :=
  match tget? s.tenants t with
  | some x => { s with tenants := tset s.tenants t (f x) }
  | none => s
/-- Changes a partition. -/
def State.modPart (s : State) (p : Nat) (f : Part → Part) : State :=
  match tget? s.parts p with
  | some x => { s with parts := tset s.parts p (f x) }
  | none => s
/-- Adds 1 to a counter of a partition (0x0300 + n; R402). -/
def State.countPart (s : State) (p n : Nat) : State := s.modPart p fun x => { x with ctr := tadd x.ctr n 1 }

/-- The partition a tenant belongs to; 0 is none (R367). -/
def State.partOf (s : State) (t : Nat) : Nat := match s.ten? t with | some x => x.part | none => 0
/-- The partition's supervisor tenant (R367); 0 where there is no partition. -/
def State.svten (s : State) (p : Nat) : Nat := match tget? s.parts p with | some x => x.svten | none => 0
/-- A tenant is privileged exactly when it is its partition's supervisor tenant (R346). -/
def State.privileged (s : State) (t : Nat) : Bool := t == s.svten (s.partOf t)
/-- Number of slices of a partition. -/
def State.nslices (s : State) (p : Nat) : Nat := match tget? s.parts p with | some x => x.slices.length | none => 0

/-- Whether the channel of a partition's logical slice is down: the slice serves only vault traffic meanwhile (R397). -/
def State.sliceDown (s : State) (p l : Nat) : Bool :=
  match (tget? s.parts p).bind fun x => x.slices[l]? with
  | some sl => s.lid.downChans.contains (sl / 256 * 128 + sl % 256 / 2)
  | none => false

/-- Position of a value in a list. -/
def indexOf? (l : List Nat) (x : Nat) : Option Nat := l.findIdx? (· == x)

/-- Takes a free value (log entry 5): the state moves on to the next. -/
def State.takeFree (s : State) : State × Word := ({ s with fresh := s.fresh + 1 }, Config.freeWord s.fresh)

/-- Puts a packet in flight from a port with a partition tag (R368). -/
def State.sendPkt (s : State) (tag : Nat) (p : Pkt) : State :=
  { s with reqs := s.reqs ++ [{ id := s.nextId, tag := tag, pkt := p }], nextId := s.nextId + 1 }

/-- Removes the request of index n. -/
def State.dropReq (s : State) (n : Nat) : State := { s with reqs := removeAt s.reqs n }

/-- NACKs the request of index n: it may be resent d clk later (R187, R194, R254, R285, R287, R298, R306). -/
def State.nack (s : State) (n d : Nat) : State :=
  { s with reqs := s.reqs.modify n fun r => { r with nacked := true, at_ := s.cycle + d } }

/-- The request of index n if it is in flight. -/
def State.inFlight (s : State) (n : Nat) : Option Req :=
  match s.reqs[n]? with
  | some r => if r.nacked then none else some r
  | none => none

/-- Resends the NACKed request of index n once its time has come, when f accepts it. -/
def State.resend (s : State) (n : Nat) (f : Pkt → Bool) : Out :=
  match s.reqs[n]? with
  | some r => if r.nacked && r.at_ ≤ s.cycle && f r.pkt then .next { s with reqs := s.reqs.modify n fun r => { r with nacked := false } }
    else .fault .notEnabled
  | none => .fault .notEnabled

/-! ## The Weave: who governs a core (R372 to R376, R381) -/

/-- The Weave slot of a clk (R372). -/
def slotNo (cycle : Nat) : Nat := cycle % Config.frameClk / Config.slotClk

/-- Byte of a pattern (R373). -/
def State.patByte (s : State) (pat n : Nat) : Byte := (tget s.lid.weave.pats pat []).getD n 0

/-- The owner a pattern byte names, none for a pool slot; a fenced tenant's slots are pool slots (R373, R388). -/
def State.ownerOf (s : State) (b : Byte) : Option Nat :=
  if b.getLsbD 7 then
    let t := b.toNat % 32
    match s.ten? t with
    | some x => if x.fenced then none else some t
    | none => some t
  else none

/-- The owner of a resource that selects pattern pat, at a clk. -/
def State.ownerAt (s : State) (pat cycle : Nat) : Option Nat := s.ownerOf (s.patByte pat (slotNo cycle))

/-- The owner of the current slot on a core. -/
def State.coreOwner (s : State) (c : Nat) : Option Nat := s.ownerAt (tget s.lid.weave.core c 0) s.cycle

/-- Tenants admitted to a core (R373): owners named in its pattern and their donees; with any pool slot, every tenant of
the core's partition. -/
def State.admitted (s : State) (c t : Nat) : Bool :=
  let pat := tget s.lid.weave.core c 0
  let owners := (List.range 64).map fun n => s.ownerOf (s.patByte pat n)
  s.partOf t == (s.core c).tag && (owners.contains none || owners.contains (some t) ||
    owners.any fun o => match o with
      | some u => (match s.ten? u with | some x => x.don == 2 && x.donee == t | none => false)
      | none => false)

/-- The side that governs a core now (R376): an owner, or none for the pool. -/
def State.sideNow (s : State) (c : Nat) : Option Nat :=
  match (s.core c).side with
  | some x => x
  | none => s.coreOwner c

/-- Whether a tenant's slots are in the rotation of a core by ownership (R374, R376); a tenant that has donated the rest of its slot
waits for the next edge (R381). -/
def State.governs (s : State) (c t : Nat) : Bool :=
  match s.sideNow c with
  | some o => o == t
  | none => s.admitted c t && !((s.core c).donated && s.coreOwner c == some t)

/-- Whether a core runs: its package has reached a stage in which it works, it is not held in reset, and it is neither on a
dead or fenced die nor in a contained rectangle (R388, R395, R396, R397, R399). -/
def State.coreRuns (s : State) (c : Nat) : Bool :=
  (match s.lid.stage with | some n => 2 ≤ n || (n == 1 && coreDie c == 0) | none => false) && !s.lid.held &&
    !s.lid.deadDies.contains (coreDie c) && !s.lid.fencedDies.contains (coreDie c) && !s.lid.contained.contains (coreQuad c)

/-- Whether a requester is an instruction of a block run. -/
def Who.ofRun (w : Who) (rid : Nat) : Bool := match w with | .entry _ _ r _ => r == rid | _ => false

/-- Whether the thread of a slot is parked on a full/empty word (R37, R186); the trailing slot of a paired core holds its
leading slot's thread. -/
def State.parked (s : State) (c k : Nat) : Bool :=
  match (s.slot c (if (s.core c).paired && 8 ≤ k then k - 8 else k)).blk with
  | some b => s.waits.any fun w => w.q.who.ofRun b.rid
  | none => false

/-- Whether the search may issue from a slot (R37, R340, R376, R382, R388, R400, R404). -/
def State.inRotation (s : State) (c k : Nat) : Bool :=
  let x := s.slot c k
  match x.ctx with
  | none => false
  | some y =>
    let t := y.ten
    s.coreRuns c && y.hold == .run && !x.overrun && x.trap.isNone && !s.parked c k && (s.governs c t && x.handed.isNone || x.drain) &&
      (match s.ten? t with | some z => !z.fenced && !z.held.contains 0 | none => false) &&
      !(s.core c).dbgStop.contains t && !(s.core c).gated.contains (if x.drain then 32 else t)

/-! ## Translation (R176 to R179, R184, R189 to R193, R384) -/

/-- What an access needs of a page (R192, R359, R360). -/
inductive Acc where | fetch | load | store | both | rdOrWr | rdOrX
deriving DecidableEq, Repr

/-- Permission bits R (2), W (3), X (4) of a leaf. -/
def Acc.ok (a : Acc) (pte : Word) : Bool :=
  let r := pte.getLsbD 2
  let w := pte.getLsbD 3
  let x := pte.getLsbD 4
  match a with
  | .fetch => x
  | .load => r
  | .store => w
  | .both => r && w
  | .rdOrWr => r || w
  | .rdOrX => r || x

/-- The virtual regions of Table 10.1. -/
def inVaultWindow (va : Word) : Bool := 0x01F0000000000000 ≤ va.toNat && va.toNat < 0x01F0000040000000
def inGlobal (va : Word) : Bool := va.toNat < 0x01F0000000000000

/-- Whether a page of physical memory covers only memory that exists (R179, R191), or is a window or mailbox frame
(R389). -/
def backed (base size : Nat) : Bool :=
  let one (a : Nat) : Bool := match regionOf a with
    | .unbacked => 0x20000000000 ≤ a && a < 0x20000100000
    | _ => true
  one base && one (base + size - 1) && (base / 0x80000000 == (base + size - 1) / 0x80000000 || 0x10000000000 ≤ base)

/-- Level: index shift, node entries, size of a next-level node, leaf page size (0: no leaf, Table 10.4). -/
def walkLevels : List (Nat × Nat × Nat × Nat) :=
  [(44, 8192, 131072, 0), (30, 16384, 4096, 0x40000000), (21, 512, 256, 0x200000), (16, 32, 0, 0x10000)]

/-- A walk from a node (R189 to R191): the leaf entry with the base of its page and its size; none is a fault. -/
def walkFrom (m : List Host.Cell) (va : Nat) : List (Nat × Nat × Nat × Nat) → Nat → Option (Nat × Nat × Word)
  | [], _ => none
  | (sh, n, next, page) :: ls, node =>
    let e := memWord m (node + 8 * (va / 2 ^ sh % n))
    if !e.getLsbD 0 || e.extractLsb' 52 12 != 0 || e.extractLsb' 6 2 != 0 then none
    else if e.getLsbD 1 then
      let pa := (e.extractLsb' 16 36).toNat * 65536
      if page = 0 || e.extractLsb' 12 4 != 0 || pa % page != 0 || !backed pa page then none
      else some (va / page * page, page, e)
    else
      let pa := (e.extractLsb' 8 44).toNat * 256
      if next = 0 || pa % next != 0 then none else walkFrom m va ls pa

/-- A walk for a tenant: R191, and a SYS leaf for a tenant other than SVTEN is a fault (R384). -/
def State.walk (s : State) (t : Nat) (va : Word) : Option (Nat × Nat × Word) :=
  match s.ten? t with
  | none => none
  | some x => match walkFrom s.mem va.toNat walkLevels x.root with
    | none => none
    | some (b, n, e) => if e.getLsbD 8 && !s.privileged t then none else some (b, n, e)

/-- Whether a core is within a scope of a releasing core. -/
def inScope (sc : Scope) (releaser acquirer : Nat) : Bool :=
  match sc with
  | .slot => false
  | .core => releaser == acquirer
  | .quad => coreQuad releaser == coreQuad acquirer
  | .die => coreDie releaser == coreDie acquirer
  | _ => true

/-- The releasing core and the stores it still has to perform before a read of a word may be answered from outside its
scope (R232). -/
def State.outstanding (s : State) (w acquirer : Nat) : Option (Nat × List Nat) :=
  s.releases.findSome? fun r =>
    if r.1 = w && !inScope r.2.2.1 r.2.1 acquirer then
      let ids := r.2.2.2.filter fun id => (s.core r.2.1).sq.any fun e => e.id == id
      if ids.isEmpty then none else some (r.2.1, ids)
    else none

/-- The words of the table entries that a walk from a node reads. -/
def walkWords (m : List Host.Cell) (va : Nat) : List (Nat × Nat × Nat × Nat) → Nat → List Nat
  | [], _ => []
  | (sh, n, _, _) :: ls, node =>
    let a := node + 8 * (va / 2 ^ sh % n)
    let e := memWord m a
    a / 8 :: (if e.getLsbD 0 && !e.getLsbD 1 then walkWords m va ls ((e.extractLsb' 8 44).toNat * 256) else [])

/-- A walk for a tenant waits, as a system-scope acquire does, for what lay ahead of a release of an entry it reads (R191,
R232). -/
def State.walkWaits (s : State) (t : Nat) (va : Word) : Bool :=
  match s.ten? t with
  | some x => (walkWords s.mem va.toNat walkLevels x.root).any fun w => (s.outstanding w 4096).isSome
  | none => false

/-- The answer of a translation: physical address, protocol hint, domain; a fault; a miss of the TLB. -/
inductive Xl where
  | ok (pa hint dom : Nat)
  | fault
  | miss
deriving DecidableEq, Repr

/-- Whether the home of a physical address is fenced: its die is dead or fenced, or its quad contained; the home of a Rim window is on
another package, which may be dead (R396, R397, R399). -/
def State.homeFenced (s : State) (pa : Nat) : Bool :=
  match regionOf pa with
  | .stack _ => s.lid.deadDies.contains (homeOf pa / 256) || s.lid.fencedDies.contains (homeOf pa / 256) || s.lid.contained.contains (homeOf pa)
  | .vault v => s.lid.deadDies.contains (v / 256) || s.lid.fencedDies.contains (v / 256) || s.lid.contained.contains v
  | .rim n => s.lid.windows.any fun w => w.kind == 1 && w.n == n && s.lid.farGone.contains w.remote
  | _ => false

/-- A physical address, or the fault of a fenced home (R396). -/
def State.reach (s : State) (pa hint dom : Nat) : Xl := if s.homeFenced pa then .fault else .ok pa hint dom

/-- A window frame that the Lid has assigned to another tenant of a tenant's partition (R389); one of another partition's is a tag
violation (R368). -/
def State.windowOther (s : State) (kind n t : Nat) : Bool :=
  match s.lid.windows.find? fun w => w.kind == kind && w.n == n with
  | some w => w.ten != t && s.partOf w.ten == s.partOf t
  | none => false

/-- Whether a leaf must not map a physical address for a tenant: a mailbox page is for SUP pages only (Table 23.1), a window frame for
the tenant it is assigned to (R389). -/
def State.misplaced (s : State) (t : Nat) (pte : Word) (pa : Nat) : Bool :=
  match regionOf pa with
  | .mailbox _ => !pte.getLsbD 5
  | .handle _ => s.windowOther 0 ((pa - 0x24000000000) / 65536) t
  | .rim w => s.windowOther 1 w t
  | _ => false

/-- The checks of R192 and R389 on a leaf and the physical address it gives. -/
def State.leafUse (s : State) (t : Nat) (va : Word) (a : Acc) (size : Nat) (pte : Word) : Xl :=
  let pa := (pte.extractLsb' 16 36).toNat * 65536 + va.toNat % size
  if !a.ok pte || (pte.getLsbD 5 && !s.privileged t) || s.misplaced t pte pa then .fault
  else s.reach pa (pte.extractLsb' 9 3).toNat (if pte.getLsbD 8 then 0 else t)

/-- The vault window (R184, R369): a vault of the partition's table, or a fault. Vault words behave as NC. -/
def State.vaultUse (s : State) (t : Nat) (va : Word) : Xl :=
  let v := (va.toNat - 0x01F0000000000000) / 0x100000
  match tget? s.parts (s.partOf t) with
  | none => .fault
  | some p => match p.vaults[v]? with
    | some ph => s.reach (0x10000000000 + ph * 0x100000 + va.toNat % 0x100000) 0 t
    | none => .fault

/-- The TLB entry of a core that covers an address for a tenant in the current epoch (R193, R376). -/
def State.tlbHit (s : State) (c t : Nat) (va : Word) : Option TlbEnt :=
  (s.core c).tlb.find? fun e => e.ten == t && e.epoch == (s.core c).epoch && e.base ≤ va.toNat && va.toNat < e.base + e.size

/-- Translation at a core through its TLB (R177, R192, R193); `bad` lists pages whose walk failed. -/
def State.xlate (s : State) (c t : Nat) (bad : List (Nat × Word)) (va : Word) (a : Acc) : Xl :=
  if inVaultWindow va then s.vaultUse t va
  else if !inGlobal va then .fault
  else match s.tlbHit c t va with
    | some e => s.leafUse t va a e.size e.pte
    | none => if bad.any (fun b => b.1 == va.toNat / 65536) then .fault else .miss

/-- Translation by a walk made at once: fetches, the core's own accesses, engines, dispatchers, the host. -/
def State.xlateNow (s : State) (t : Nat) (va : Word) (a : Acc) : Xl :=
  if inVaultWindow va then s.vaultUse t va
  else if !inGlobal va then .fault
  else match s.walk t va with
    | some (_, n, e) => s.leafUse t va a n e
    | none => .fault

/-- The physical address and the domain of a translation made at once. -/
def State.place (s : State) (t : Nat) (va : Word) (a : Acc) : Option (Nat × Nat) :=
  match s.xlateNow t va a with | .ok pa _ dom => some (pa, dom) | _ => none

/-- The physical address of a translation made at once. -/
def State.paNow (s : State) (t : Nat) (va : Word) (a : Acc) : Option Nat :=
  match s.xlateNow t va a with | .ok pa _ _ => some pa | _ => none

/-! ## Writes by agents, dirty bits, domains (R182, R221, R237, R383, R384) -/

/-- Sets the dirty bit of the page of a stack word (R221). -/
def State.touch (s : State) (w : Nat) : State :=
  if isStack (8 * w) then { s with dirty := linsert s.dirty (8 * w / 65536) } else s

/-- Whether a new write of a line breaks R33 for a block: a load has its value of the line, and an acquire of a lower LSID is
not complete. -/
def Block.broken33 (b : Block) (line : Nat → Bool) : Bool :=
  b.loads.any fun l => line l.2 && b.body.any fun e =>
    e.insn.isAcquire && e.phase != .done && (match e.insn.lsid? with | some n => n < l.1 | none => false)

/-- Blocks of a core for which it breaks R33 are to run again (R33, R212); those of the context `but` see the write as their
own. -/
def Core.mark33 (k : Core) (line : Nat → Bool) (but : Option Nat) : Core :=
  { k with slots := k.slots.map fun (x : Nat × Slot) =>
      if x.2.ctx.map Ctx.id = but then x
      else (x.1, { x.2 with blk := x.2.blk.map fun b => if !b.ponr && b.broken33 line then { b with again := true } else b }) }

/-- A new write of a line reaches a core with a fill in flight. -/
def Fill.seen (line : Nat → Bool) (f : Fill) : Fill := if line f.line then { f with stale := true } else f

/-- Removes a line from every L1 and keeps fills in flight from being installed (R183); blocks that R33 has replay do so. -/
def State.dropCopies (s : State) (line : Nat) : State :=
  { s with cores := s.cores.map fun c => (c.1, ({ c.2 with
      l1 := c.2.l1.filter fun l => l.line != line,
      fills := c.2.fills.map (Fill.seen fun n => n == line) }).mark33 (fun n => n == line) none) }

/-- Records what a line in the L2 held when last written back, before it is first changed (R182, R359). -/
def State.keepOld (s : State) (line : Nat) : State :=
  { s with dirs := s.dirs.map fun d => if d.line = line && d.old.isNone then { d with old := some (s.line line) } else d }

/-- An event of an agent: no core asks for it, and no hint comes with it. -/
def agentEv (code line : Nat) (wrs : List Wr) : PEv :=
  { code := code, line := line, req := 4096, hint := 1, who := .none, words := [], reply := none, sq := none, va := 0, dom := 0, ten := 0, wrs := wrs }

/-- A write by an engine, the Lid, a dispatcher or a core's own accesses: placed in home order at once; no L1 keeps a copy of its line
(log entry 38), and the line's table sees it, as event `code`, where the L2 holds the line (R233, R243): it is the table that sends it to
the replicas (R239). A line that the L2 does not hold has no table to do so. -/
def State.agentWrite (s : State) (code w : Nat) (v : Word) (mask : Byte) : State :=
  let l := w / 16
  let s := ((s.keepOld l).putWord w v mask).touch w
  let s := s.dropCopies l
  if s.dirs.any (·.line == l) then { s with peq := s.peq ++ [agentEv code l [⟨w, v, mask, 0, 1, 0⟩]] }
  else { s with replicas := s.replicas.map fun (r : Nat × Replica) => if r.1 / 4 = l then (r.1, { r.2 with data := s.line l }) else r }

/-- A plain write by an agent (WR). -/
def State.agentPut (s : State) (w : Nat) (v : Word) (mask : Byte) : State := s.agentWrite 1 w v mask

/-- A write performed at its home: the line as last written back is kept, the page is dirty (R182, R221). -/
def State.homePut (s : State) (w : Nat) (v : Word) (mask : Byte) : State := ((s.keepOld (w / 16)).putWord w v mask).touch w

/-- Bytes at a physical address. -/
def State.bytesAt (s : State) (pa n : Nat) : List Byte := (List.range n).map fun i => memGet s.mem (pa + i)

/-- Writes bytes at a physical address as agent writes, one per byte. -/
def State.agentBytes (s : State) (pa : Nat) : List Byte → State
  | [] => s
  | b :: bs =>
    let v : Word := b.zeroExtend 64 <<< (8 * (pa % 8))
    State.agentBytes (s.agentPut (pa / 8) v (1 <<< (pa % 8))) (pa + 1) bs

/-- Whether the frame of a stack address belongs to a domain and is not erased; the frames of domain 0 that the table does not list are
erased with every other (level 4; R383, R384, R388). -/
def State.domainOk (s : State) (pa dom : Nat) : Bool :=
  !isStack pa || tget s.frames (pa / 65536) (0, s.lid.held) == (dom, false)

/-! ## Quotas, usage records and supervisor events (R382, R385, R386, R344) -/

/-- Quotas 0, 6, 7 and 8 are rate quotas (Table 22.7). -/
def rateQuota (q : Nat) : Bool := q == 0 || q == 6 || q == 7 || q == 8

/-- A tenant's limit of a quota; all ones is no limit (R382). -/
def Tenant.limit (x : Tenant) (q : Nat) : Nat := tget x.limits q (2 ^ 64 - 1)

/-- Whether a level count stands at its limit. -/
def Tenant.atLimit (x : Tenant) (q : Nat) : Bool := x.limit q != 2 ^ 64 - 1 && x.limit q ≤ tget x.counts q 0

/-- The bytes of a word, lowest first. -/
def wordBytes (v : Word) : List Byte := (List.range 8).map (byteOf v)
/-- The bytes of a number in n bytes, lowest first. -/
def natBytes (v n : Nat) : List Byte := (List.range n).map fun i => BitVec.ofNat 8 (v >>> (8 * i))

/-- The 128 bytes of a usage record (Table 22.8). -/
def Usage.bytes (u : Usage) : List Byte :=
  let v (n : Nat) : Nat := u.vals.getD n 0
  natBytes u.seq 8 ++ natBytes u.frame 8 ++ natBytes u.ten 1 ++ natBytes u.kind 1 ++ natBytes u.detail 2 ++
    natBytes (v 0) 4 ++ natBytes (v 1) 8 ++ natBytes (v 2) 8 ++ natBytes (v 3) 8 ++ natBytes (v 4) 8 ++
    natBytes (v 5) 8 ++ natBytes (v 6) 8 ++ natBytes (v 7) 8 ++ natBytes (v 8) 4 ++ natBytes 0 44

/-- The 64 bytes of a digest. -/
def digestBytes (d : BitVec 512) : List Byte := (List.range 64).map fun i => d.extractLsb' (8 * i) 8

/-- The number that bytes make, lowest first. -/
def numOf (bs : List Byte) : Nat := bs.foldr (fun b a => b.toNat + 256 * a) 0

/-- Words from bytes, lowest first. -/
def packWords : Nat → List Byte → List Word
  | 0, _ => []
  | n + 1, bs => BitVec.ofNat 64 (numOf (bs.take 8)) :: packWords n (bs.drop 8)

/-- The Lid writes a word of the log to the log ring, in domain 0, over the oldest there (R386): nothing while it has no ring, or once the
ring's frames are erased (R388). -/
def State.logWord (s : State) (v : Word) : State :=
  match s.lid.ring with
  | none => s
  | some (base, size) =>
    let pa := base + s.lid.ringAt % size
    let s := { s with lid := { s.lid with ringAt := (s.lid.ringAt + 8) % size } }
    if s.domainOk pa 0 then s.agentPut (pa / 8) v 0xFF else s

/-- The Lid writes bytes of the log to its ring, padded to whole words. -/
def State.logBytes (s : State) (bs : List Byte) : State := (packWords ((bs.length + 7) / 8) bs).foldl State.logWord s

/-- Appends a usage or event record to the chain and to the log ring (R385, R386). -/
def State.record (s : State) (ten kind detail : Nat) (vals : List Nat) : State :=
  let u : Usage := ⟨s.lid.seq, s.cycle / Config.frameClk, ten, kind, detail, vals⟩
  { s with lid := { s.lid with seq := s.lid.seq + 1, log := s.lid.log ++ [u], sinceSeal := s.lid.sinceSeal + 1,
                                head := sha3 (digestBytes s.lid.head ++ u.bytes) } }.logBytes u.bytes

/-- What a thread still has in its core's store queue. -/
def State.owed (s : State) (c id : Nat) : List (Nat × Nat) := ((s.core c).sq.filter fun e => e.ctx == id).map fun e => (c, e.id)

/-- Sends the supervisor of a partition a message of four words g0 to g3 (R348): nothing where the continuation is 0.
`lcore` and `slot` are for its header, `link` is the record a handler is linked to, `after` the stores that come before it. -/
def State.tellSupervisor (s : State) (p : Nat) (g0 g1 g2 g3 : Word) (lcore slot : Nat) (link : Option Word) (after : List (Nat × Nat)) : State :=
  match tget? s.parts p with
  | none => s
  | some x =>
    if x.scont = 0 then s
    else
      let hdr : BitVec 32 := BitVec.ofNat 32 (lcore * 2 ^ 20 + slot * 2 ^ 16 + 3 * 256) |||
        (x.scont.extractLsb' 4 2).zeroExtend 32 <<< 4
      s.sendPkt p (.msg ⟨x.scont, hdr, [g0, g1, g2, g3], x.svten, none, 0, link, none, true, after⟩)

/-- A supervisor event of code 0x0100 or above, or OVERRUN and a post-commit fault of an ended thread: g0 = 0 (R30,
R348, R378). -/
def State.supEvent (s : State) (p code : Nat) (val addr : Word) : State :=
  s.tellSupervisor p 0 (BitVec.ofNat 64 code) val addr 0 0 none []

/-- Adds to a quota count of a tenant. A level quota that reaches its limit crosses it once: QUOTA_CROSSED and a record
of KIND 1 (R382). A rate quota is crossed by a step of its own. -/
def State.quotaAdd (s : State) (t q d : Nat) : State :=
  match s.ten? t with
  | none => s
  | some x =>
    let n := tget x.counts q 0 + d
    let y := { x with counts := tset x.counts q n, peaks := tset x.peaks q (max n (tget x.peaks q 0)) }
    if !rateQuota q && y.atLimit q && !x.crossed.contains q then
      let s := s.modTen t fun _ => { y with crossed := linsert y.crossed q }
      (s.supEvent x.part 0x0103 (BitVec.ofNat 64 q) 0).record t 1 q []
    else s.modTen t fun _ => y

/-- Takes from a level count of a tenant; below its limit it can cross again (R382). -/
def State.quotaSub (s : State) (t q d : Nat) : State :=
  s.modTen t fun x =>
    let y := { x with counts := tset x.counts q (tget x.counts q 0 - d) }
    if y.atLimit q then y else { y with crossed := lremove y.crossed q }

/-! ## Tags (R368) and what an access by an agent meets -/

/-- The partition that the tenant of a window belongs to; 0 where the window is assigned to nobody. -/
def State.windowTag (s : State) (kind n : Nat) : Nat :=
  match s.lid.windows.find? fun w => w.kind == kind && w.n == n with | some w => s.partOf w.ten | none => 0

/-- The partition tag of the destination of an access: that of its home slice or vault, of the mailbox page, or of the
owner of the Handle frame or Rim window. -/
def State.destTag (s : State) (pa : Nat) : Option Nat :=
  match regionOf pa with
  | .stack _ => some (((s.parts.find? fun p => p.2.slices.contains (homeOf pa)).map (·.1)).getD 0)
  | .vault v => some (((s.parts.find? fun p => p.2.vaults.contains v).map (·.1)).getD 0)
  | .mailbox p => some p
  | .handle _ => some (s.windowTag 0 ((pa - 0x24000000000) / 65536))
  | .rim w => some (s.windowTag 1 w)
  | .unbacked => none

/-- Whether the router ejects a packet for a physical address: its tag is the destination's (R368). -/
def State.tagOk (s : State) (tag pa : Nat) : Bool := match s.destTag pa with | some p => p == tag | none => true

/-- Whether a word lies in a Handle or Rim window. -/
def outside (w : Nat) : Bool := match regionOf (8 * w) with | .handle _ => true | .rim _ => true | _ => false

/-- What becomes of an access of a tenant to a physical address: dropped for its tag, which differs from that of its destination (R368);
it goes out through a window (log entry 13); performed; or served as the base die serves another domain (R384). -/
inductive Verdict where
  | tag (dest : Nat)
  | outside
  | ok
  | domain
deriving DecidableEq, Repr

/-- The checks an access of a tenant in a domain meets, in the order in which it meets them. -/
def State.verdict (s : State) (t pa dom : Nat) : Verdict :=
  match s.destTag pa, outside (pa / 8) with
  | some d, o => if d != s.partOf t then .tag d else if o then .outside else if s.domainOk pa dom then .ok else .domain
  | none, o => if o then .outside else if s.domainOk pa dom then .ok else .domain

/-! ## Engine queue descriptors (Table 18.4), which an alarm halts -/

/-- The physical address of the descriptor of queue VQ of engine ENG of a tenant (R315), with the domain of its page. -/
def State.vqPa (s : State) (t eng vq : Nat) : Option (Nat × Nat) :=
  match s.ten? t with
  | some x => if x.engBase = 0 then none else s.place t (x.engBase + BitVec.ofNat 64 (64 * (16 * eng + vq))) .both
  | none => none

/-- A descriptor's second word with bits of its FLAGS byte (bits 23:16) set and others cleared. -/
def flagsWord (old : Word) (set clear : Byte) : Word := ((old.extractLsb' 16 8 ||| set) &&& ~~~clear).zeroExtend 64 <<< 16

/-- PEND, HALT, BOUND and DIRECT. -/
def vPend : Byte := 1
def vHalt : Byte := 2
def vBound : Byte := 4
def vDirect : Byte := 8

/-- Halts every queue of a tenant (R388), in its engine, and in its descriptor where the tenant's access to it is performed. -/
def State.haltQueues (s : State) (t : Nat) : State :=
  let s := (List.range 48).foldl (fun s q => match s.vqPa t (q / 16) (q % 16) with
    | some (pa, dom) => if s.verdict t pa dom = .ok then s.agentPut (pa / 8 + 1) (flagsWord (s.word (pa / 8 + 1)) vHalt 0) 4 else s
    | none => s) s
  { s with engines := s.engines.map fun (e : Nat × Engine) => (e.1, { e.2 with
      vqs := e.2.vqs.map fun q => if q.1 / 16 = t then (q.1, { q.2 with halt := true }) else q }) }

/-! ## Alarms (R388) -/

/-- Level 2: the tenant is fenced and its engine queues halt. -/
def State.fenceTenant (s : State) (t : Nat) : State := (s.haltQueues t).modTen t fun x => { x with fenced := true }

/-- Level 3 for a domain: its frames are marked erased, and its L2 lines go without write-back. -/
def State.eraseDomain (s : State) (t : Nat) : State :=
  let s := { s with frames := s.frames.map fun (f : Nat × (Nat × Bool)) => if f.2.1 = t then (f.1, t, true) else f,
                    dirs := s.dirs.filter fun d => !(d.dom == t && d.cur.isNone) }
  s.modTen t fun x => { x with erased := true }

/-- The contexts that a core holds. -/
def Core.contexts (k : Core) : List Ctx := k.slots.filterMap (fun n => n.2.ctx) ++ k.arrivals ++ k.cache ++ k.saved.map (·.2.2)

/-- Whether a requester is an instruction of some core, or the wait of a stopped context of some number. -/
def Who.isOf (w : Who) (core ctx : Nat → Bool) : Bool :=
  match w with | .entry c _ _ _ => core c | .settle c _ => core c | .resume id _ => ctx id | _ => false

/-- Cores that are reset lose everything they hold; their mma commands leave the Hoop, and their waits their homes. -/
def State.resetCores (s : State) (f : Nat → Bool) : State :=
  let gone := ((s.cores.filter fun c => f c.1).flatMap fun c => c.2.contexts).map Ctx.id
  let of (w : Who) : Bool := w.isOf f gone.contains
  { s with cores := s.cores.map fun (c : Nat × Core) => if f c.1 then (c.1, { tag := c.2.tag, logical := c.2.logical }) else c,
           hoop := s.hoop.filter fun e => !f e.core,
           waits := s.waits.filter fun w => !of w.q.who,
           reqs := s.reqs.filter fun r => match r.pkt with | .fe q => !of q.who | _ => true }

/-- Level 4: every domain, domain 0 included, is erased and all compute dies are held in reset. -/
def State.eraseAll (s : State) : State :=
  let s := (0 :: s.tenants.map (·.1)).foldl State.eraseDomain s
  { s with frames := s.frames.map (fun (f : Nat × (Nat × Bool)) => (f.1, f.2.1, true)),
           lid := { s.lid with held := true } }.resetCores fun _ => true

/-- The customer tenants of the package. -/
def State.customers (s : State) : List Nat := s.tenants.map (·.1)

/-- Alarm inputs, as the model numbers them: 0 tamper-mesh break, 1 voltage glitch, 2 clock glitch, 3 signature failure
of firmware, 4 of an image, 5 tag violation, 6 domain mismatch (R388). An input that fires takes every action of its
level and of all lower ones for the tenants it affects, and appends a record of KIND 2. -/
def State.alarm (s : State) (input : Nat) (ts : List Nat) : State :=
  let lv := tget s.lid.levels input 1
  let s := { s with lid := { s.lid with highest := max s.lid.highest lv } }
  let s := s.record (if ts.length = 1 then ts.headD 0 else 0) 2 input []
  let s := if 2 ≤ lv then ts.foldl State.fenceTenant s else s
  let s := if 3 ≤ lv then ts.foldl State.eraseDomain s else s
  if 4 ≤ lv then s.eraseAll else s

/-! ## Domains (R384) and tags (R368) -/

/-- An access by a tenant whose domain is not its frame's: counted in 0x0302 and reported. -/
def State.domainFault (s : State) (t : Nat) : State :=
  ((s.countPart (s.partOf t) 0x302).modTen t fun x => { x with secev := x.secev + 1 }).alarm 6 [t]

/-- A packet whose tag differs from its destination's: dropped, counted in 0x0301 of the destination's partition and
reported. `t` is the tenant that caused it. -/
def State.tagFault (s : State) (destTag t : Nat) : State :=
  ((s.countPart destTag 0x301).modTen t fun x => { x with secev := x.secev + 1 }).alarm 5 [t]

/-! ## Accesses by agents for a tenant (R368, R382, R384) -/

/-- Bytes that a mask enables. -/
def maskCount (m : Byte) : Nat := ((List.range 8).filter fun i => m.getLsbD i).length

/-- Whether a tenant's sends on a path wait for the end of the frame: quota 6 for Rim, 7 for Handle bytes (R382). -/
def State.sendHeld (s : State) (t q : Nat) : Bool := match s.ten? t with | some x => x.held.contains q | none => false

/-- Adds to a rate quota for a requester: an instruction's use is charged when its block commits, and not if it is discarded (R35, R382). -/
def State.charge (s : State) (who : Who) (t q n : Nat) : State :=
  match who with
  | .entry c k rid _ => s.modBlk c k fun b => if b.rid = rid then { b with uses := b.uses ++ [(q, n)] } else b
  | _ => s.quotaAdd t q n

/-- Whether a tenant's access to a word is Rim or Handle traffic of a fenced tenant, which is dropped (level 2, R388). -/
def State.cutOff (s : State) (t w : Nat) : Bool := outside w && (match s.ten? t with | some x => x.fenced | none => false)

/-- Bytes of a tenant's Rim or Handle traffic; that of a fenced tenant is dropped (R382, R388). -/
def State.countSent (s : State) (who : Who) (t q n : Nat) : State :=
  match s.ten? t with | some x => if x.fenced then s else s.charge who t q n | none => s

/-- Whether a tenant's access to a word waits at its window for the end of the frame: a load counts as a send of no bytes
(DEDUCED, log entry 13). -/
def State.windowHeld (s : State) (t w : Nat) : Bool :=
  match regionOf (8 * w) with
  | .handle _ => s.sendHeld t 7
  | .rim _ => s.sendHeld t 6
  | _ => false

/-- An access of a tenant that sends and receives some bytes through a word's window: both count for the Handle, those sent for
the Rim (Table 22.7). -/
def State.countWindow (s : State) (who : Who) (t w sent received : Nat) : State :=
  match regionOf (8 * w) with
  | .handle _ => s.countSent who t 7 (sent + received)
  | .rim _ => s.countSent who t 6 sent
  | _ => s

/-- A word as an access of a tenant by an agent reads it: zero on a domain mismatch (R384); what a window holds stands outside the
package, and a read that is dropped for its tag brings nothing: free values (log entries 13, 59). -/
def State.readIn (s : State) (t dom w : Nat) : State × Word :=
  match s.verdict t (8 * w) dom with
  | .ok => (s, s.word w)
  | .domain => (s.domainFault t, 0)
  | .outside => (s.countWindow .none t w 0 8).takeFree
  | .tag d => (s.tagFault d t).takeFree

/-- Words from word number w on, as an access of a tenant by an agent reads them. -/
def State.readWordsIn (s : State) (t dom w : Nat) : Nat → State × List Word
  | 0 => (s, [])
  | n + 1 =>
    let r := s.readIn t dom w
    let q := State.readWordsIn r.1 t dom (w + 1) n
    (q.1, r.2 :: q.2)

/-- A write of some bytes of a word by an agent for a tenant: performed, sent out through a window, discarded on a domain mismatch, or
dropped for its tag. -/
def State.letIn (s : State) (t dom w sent : Nat) (f : State → State) : State :=
  match s.verdict t (8 * w) dom with
  | .ok => f s
  | .domain => s.domainFault t
  | .outside => s.countWindow .none t w sent 0
  | .tag d => s.tagFault d t

/-- A plain write of the masked bytes of a word. -/
def State.writeIn (s : State) (t dom w : Nat) (v : Word) (mask : Byte) : State :=
  s.letIn t dom w (maskCount mask) fun s => s.agentPut w v mask

/-- A strong access that writes a word. -/
def State.strongIn (s : State) (t dom w : Nat) (v : Word) : State := s.letIn t dom w 8 fun s => s.agentWrite 2 w v 0xFF

/-- Plain writes of words from word number w on. -/
def State.writeAllIn (s : State) (t dom w : Nat) (ws : List Word) : State :=
  ws.zipIdx.foldl (fun s x => s.writeIn t dom (w + x.2) x.1 0xFF) s

/-! ## Full/empty words (R185, R186, R215) -/

/-- The words of a token. -/
def Tok.words : Tok → List (Word × Bool)
  | .null => []
  | .sc v => [(v, true)]
  | .vec v _ => (List.range 8).map fun i => (v.extractLsb' (64 * i) 64, true)

/-- What a remote package is answered: words, a result and its status; none for a fault (R393). -/
def Reply.remote : Reply → Option (List (Word × Bool))
  | .words ws => some (ws.map fun w => (w.2, true))
  | .result p st => some (p.words ++ st.words)
  | _ => none

/-- The value of RESUME that a stopped context's wait is answered: at a home that cannot be reached, that of ACT 1, as where its
record cannot be written (R348; DEDUCED, log entry 20). -/
def Reply.resumeWord : Reply → Word
  | .result (.sc v) _ => v
  | _ => 1

/-- Sends a reply to a requester. -/
def State.reply (s : State) (who : Who) (r : Reply) : State :=
  match who with
  | .entry c k rid i => s.sendPkt (s.core c).tag (.reply c k rid i r none false)
  | .resume id t => s.sendPkt (s.partOf t) (.resume id r.resumeWord)
  | .rim _ => { s with lid := { s.lid with answers := tset s.lid.answers 2 r.remote } }
  | .ring t q id => match r with
    | .result _ _ => s.modTen t fun x => { x with rings := x.rings.map fun (y : Nat × Ring) => if y.1 = q && y.2.asked = some id then (q, { y.2 with seen := true }) else y }
    | _ => s
  | _ => s

/-- The core of a requester; 4096 for none. -/
def Who.core : Who → Nat
  | .entry c _ _ _ => c
  | .settle c _ => c
  | _ => 4096

/-- The tenant of a requester's thread. -/
def State.whoTen (s : State) (who : Who) : Nat :=
  match who with
  | .entry c k _ _ => match (s.slot c k).ctx with | some y => y.ten | none => 0
  | .rim t => t
  | .resume _ t => t
  | .ring t _ _ => t
  | _ => 0

/-- A full/empty form that was parked has been served: on a stack line the table sees it as SA, with what it wrote, and its reply
follows (R186, R233, R243); elsewhere it is answered. -/
def State.served (s : State) (q : FeReq) (wrs : List Wr) (r : Reply) : State :=
  if isStack (8 * q.word) then
    { s with peq := s.peq ++ [({ code := 2, line := q.word / 16, req := q.who.core, hint := q.hint, who := q.who, words := [], reply := some r, sq := none,
                                 va := q.va, dom := q.dom, ten := s.whoTen q.who, wrs := wrs } : PEv)] }
  else s.reply q.who r

/-- The write of a full/empty form that fills its word. -/
def FeReq.fill (q : FeReq) : Wr := ⟨q.word, q.b, 0xFF, q.va, q.hint, q.dom⟩

/-- Replies to the loads parked on a word that has become full, oldest first, until one empties it. -/
def serveLoads (w : Nat) (v : Word) : List Wait → State → List Wait × State
  | [], s => ([], s)
  | x :: xs, s =>
    if x.word = w && !x.store then
      let s := s.served x.q [] (.result (.sc v) .null)
      if x.q.form = .ldfwe then (xs, s.setFull w false) else serveLoads w v xs s
    else
      let r := serveLoads w v xs s
      (x :: r.1, r.2)

/-- FillWord (R215): `put` writes the word. Loads and stores never wait on one word at the same time, so emptying by a waiter
serves no store. -/
def State.fillBy (put : State → State) (s : State) (w : Nat) (v : Word) : State :=
  let s := (put s).setFull w true
  let r := serveLoads w v s.waits s
  { r.2 with waits := r.1 }

/-- The DIRECT queues, as tenant, engine and queue, whose TAILW a word is (Table 18.4). -/
def State.tailwOf (s : State) (w : Nat) : List (Nat × Nat × Nat) :=
  s.tenants.filterMap fun (t : Nat × Tenant) =>
    if t.2.engBase = 0 then none
    else match s.paNow t.1 t.2.engBase .both with
      | none => none
      | some pa =>
        let q := (8 * w - pa) / 64
        if pa + 16 ≤ 8 * w && (8 * w - pa) % 64 == 16 && q < 48 && (s.word (pa / 8 + 8 * q + 1)).getLsbD 19 then some (t.1, q / 16, q % 16) else none

/-- FillWord by an engine's front end. -/
def State.fillPlain (s : State) (w : Nat) (v : Word) : State := s.fillBy (fun s => s.agentPut w v 0xFF) w v

/-- A fill of a DIRECT queue's TAILW notifies the queue (R316). -/
def State.notifyTails (s : State) (qs : List (Nat × Nat × Nat)) : State :=
  qs.foldl (fun s q => s.sendPkt (s.partOf q.1) (.tailw q.1 q.2.1 q.2.2)) s

/-- FillWord by an agent that is no front end. -/
def State.fillWord (s : State) (w : Nat) (v : Word) : State := (s.fillPlain w v).notifyTails (s.tailwOf w)

/-- FillWord by an agent for a tenant. -/
def State.fillIn (s : State) (t dom w : Nat) (v : Word) : State := s.letIn t dom w 8 fun s => s.fillWord w v

/-- FillWord by a full/empty form, at its word's home, which presents SA for it (R215, R243). -/
def State.fillHome (s : State) (w : Nat) (v : Word) : State :=
  (s.fillBy (fun s => s.homePut w v 0xFF) w v).notifyTails (s.tailwOf w)

/-- EmptyWord (R215): the oldest parked store, if any, is served and fills the word. -/
def State.emptyWord (s : State) (w : Nat) : State :=
  let s := (s.setFull w false).touch w
  match s.waits.find? (fun x => x.word == w && x.store) with
  | none => s
  | some x =>
    let s := { s with waits := s.waits.erase x }
    (s.served x.q [x.q.fill] (if x.q.form = .stfw then .result .null .null else .result (.sc 1) .null)).fillHome w x.q.b

/-- EmptyWord by an agent for a tenant. -/
def State.emptyIn (s : State) (t dom w : Nat) : State := s.letIn t dom w 0 fun s => s.emptyWord w

/-- The mailbox page of a partition (R389, R391). -/
def mailboxPa (p : Nat) : Nat := 0x20000000000 + 0x1000 * p

/-- Appends an event to the mailbox ring of partition p and fills its EVT (R392). -/
def State.partEvent (s : State) (p : Nat) (v : Event) : State :=
  match tget? s.parts p with
  | none => s
  | some x =>
    let pa := mailboxPa p
    let n := x.evcount
    let e := pa + 256 + 64 * (n % 60)
    let ws : List Nat := [n, v.at_, v.code + v.die * 65536 + v.unit * 2 ^ 32, v.detail, 0, 0, 0, 0]
    let s := ws.zipIdx.foldl (fun s x => s.agentPut (e / 8 + x.2) (BitVec.ofNat 64 x.1) 0xFF) s
    let s := s.modPart p fun q => { q with evcount := n + 1 }
    s.fillWord (pa / 8 + 16) (BitVec.ofNat 64 ((n + 1) % 60))

/-- An event of the package: it goes to the mailbox ring of every partition (R392). -/
def State.mailEvent (s : State) (code die unit detail : Nat) : State :=
  let v : Event := ⟨s.cycle, code, die, unit, detail⟩
  s.parts.foldl (fun s x => s.partEvent x.1 v) { s with lid := { s.lid with events := s.lid.events ++ [v] } }

/-! ## Contexts, wherever they are held (R257, R261) -/

/-- Changes the context of a number, in a slot, a cache, an arrival queue or a record a core holds. -/
def State.modCtxId (s : State) (id : Nat) (f : Ctx → Ctx) : State :=
  let g (x : Ctx) : Ctx := if x.id = id then f x else x
  { s with cores := s.cores.map fun c => (c.1, { c.2 with
      slots := c.2.slots.map fun k => (k.1, { k.2 with ctx := k.2.ctx.map g }),
      arrivals := c.2.arrivals.map g, cache := c.2.cache.map g,
      saved := c.2.saved.map fun r => (r.1, r.2.1, g r.2.2) }) }

/-- A context's slot, as core and slot number. -/
def State.slotOfCtx (s : State) (id : Nat) : Option (Nat × Nat) :=
  s.cores.findSome? fun c => c.2.slots.findSome? fun k =>
    match k.2.ctx with
    | some x => if x.id = id then some (c.1, k.1) else none
    | none => none

/-- Every context of the package that is in no migration message. -/
def State.contexts (s : State) : List Ctx := s.cores.flatMap fun c => c.2.contexts

/-! ## Barrier tokens (R272) -/

/-- The barrier token of a thread: BSET, BPH and BK while BV = 1. -/
def Ctx.tok (x : Ctx) : Option BarTok := if x.bv then some ⟨x.bset.toNat, x.bph, x.bk⟩ else none

/-- Sets or clears the token. -/
def Ctx.withTok (x : Ctx) (t : Option BarTok) : Ctx :=
  match t with
  | some t => { x with bv := true, bset := BitVec.ofNat 12 t.set, bph := t.ph, bk := t.bk }
  | none => { x with bv := false }

/-- The token as a block of the thread has it now. -/
def Block.curTok (b : Block) (x : Ctx) : Option BarTok := b.tok.getD x.tok

/-- Element size of a stream (Table 8.8). -/
def Stream.esz (t : Stream) : Nat := 2 ^ (t.desc.extractLsb' 96 8).toNat
/-- Number of elements of a stream (R162). -/
def Stream.num (t : Stream) : Nat := (t.desc.extractLsb' 64 32).toNat * max (t.desc.extractLsb' 160 32).toNat 1
/-- DIR of a stream. -/
def Stream.push (t : Stream) : Bool := t.desc.extractLsb' 104 8 == 1

/-- Stream status word (Table 8.10). -/
def Stream.status (t : Stream) : Word :=
  if t.bound then
    BitVec.ofNat 64 (t.pos * 65536 + 8 + (if t.push then 4 else 0) + (if t.ovr then 2 else 0) +
      (if t.pos = t.num then 1 else 0))
  else 0

/-- PCW of a context (Table 15.1). -/
def Ctx.pcw (x : Ctx) : Word :=
  (x.pc &&& 0x01FFFFFFFFFFFFC0) ||| BitVec.ofNat 64 ((if x.mdl then 32 else 0) + (if x.mwait then 16 else 0) +
    (if x.hnd then 8 else 0) + (if x.flt then 4 else 0) + (if x.rdy then 2 else 0))

/-- MODE of a context (Table 15.1). -/
def Ctx.mode (x : Ctx) : Word :=
  (x.lfsr <<< 32) ||| ((x.fmt &&& 0xFF) <<< 16) ||| ((x.fpm &&& 7) <<< 8) ||| ((x.fpm >>> 8 &&& 1) <<< 7) ||| (x.stat &&& 0x7F)

/-- TAG of a context (Table 15.1). -/
def Ctx.tagWord (x : Ctx) : Word :=
  (x.msgh.zeroExtend 64 <<< 43) ||| (if x.bk then 1 <<< 42 else 0) ||| (if x.bv then 1 <<< 41 else 0) |||
    (if x.bph then 1 <<< 40 else 0) ||| (x.bset.zeroExtend 64 <<< 28) ||| (x.lslot.zeroExtend 64 <<< 16) ||| x.tag.zeroExtend 64

/-- GRPS of a context (Table 15.1). -/
def Ctx.grpsWord (x : Ctx) : Word :=
  let one (j : Nat) : Word := match x.grps.getD j none with
    | some n => (n.zeroExtend 64 <<< (12 * j)) ||| (1 <<< (48 + j))
    | none => 0
  one 0 ||| one 1 ||| one 2 ||| one 3

/-- The four words of a descriptor, zero when unbound. -/
def Stream.descWords (t : Stream) : List Word :=
  (List.range 4).map fun i => if t.bound then t.desc.extractLsb' (64 * i) 64 else 0

/-- The 32 words of the 256-byte context record (Table 15.1). -/
def Ctx.record (x : Ctx) : List Word :=
  x.g.toList ++ [x.pcw, x.stklim, x.scale, x.mode, x.tagWord, x.grpsWord] ++ x.s6.descWords ++ x.s7.descWords ++
    [x.s6.status, x.s7.status]

/-- Reserved bits and values of sr.fpm, sr.fmt, sr.scale, sr.stat and sr.lfsr as stored (R130). -/
def cleanFpm (v : Word) : Word := (v &&& 0x100) ||| (if (v &&& 7).toNat ≤ 4 then v &&& 7 else 0)
def cleanFmt (v : Word) : Word := (v &&& 0xDC) ||| (if (v &&& 3).toNat ≤ 1 then v &&& 3 else 0)
def cleanScale (v : Word) : Word := v &&& 0x01FFFFFFFFFFFFF0
def cleanStat (v : Word) : Word := v &&& 0x7F
def cleanLfsr (v : Word) : Word := if v &&& 0xFFFFFFFF = 0 then 1 else v &&& 0xFFFFFFFF

/-- Takes back G, PCW bits 56:6, STKLIM, SCALE and MODE from a record's words (R349, R130). -/
def Ctx.takeBack (x : Ctx) (ws : List Word) : Ctx :=
  let w (i : Nat) : Word := ws.getD i 0
  let m := w 19
  { x with g := Vector.ofFn fun i => w i.val
           pc := w 16 &&& 0x01FFFFFFFFFFFFC0
           stklim := w 17
           scale := cleanScale (w 18)
           stat := cleanStat m
           fpm := cleanFpm ((m >>> 8 &&& 7) ||| ((m >>> 7 &&& 1) <<< 8))
           fmt := cleanFmt (m >>> 16 &&& 0xFF)
           lfsr := cleanLfsr (m >>> 32) }

/-- A stream from its descriptor words and status word. -/
def streamFrom (d : List Word) (st : Word) : Stream :=
  if st.getLsbD 3 then
    ⟨true, d.getD 3 0 ++ d.getD 2 0 ++ d.getD 1 0 ++ d.getD 0 0, (st.extractLsb' 16 48).toNat, st.getLsbD 1⟩
  else {}

/-- A whole context from its record's words: what `takeBack` takes, and flags, TAG, GRPS and streams (R261, R405). -/
def Ctx.restore (x : Ctx) (ws : List Word) : Ctx :=
  let w (i : Nat) : Word := ws.getD i 0
  let p := w 16
  let t := w 20
  let gr := w 21
  let y := x.takeBack ws
  { y with mdl := p.getLsbD 5, mwait := p.getLsbD 4, hnd := p.getLsbD 3, flt := p.getLsbD 2, rdy := p.getLsbD 1
           tag := t.extractLsb' 0 16, lslot := t.extractLsb' 16 12, bset := t.extractLsb' 28 12
           bph := t.getLsbD 40, bv := t.getLsbD 41, bk := t.getLsbD 42, msgh := t.extractLsb' 43 20
           grps := (List.range 4).map fun j => if gr.getLsbD (48 + j) then some (gr.extractLsb' (12 * j) 12) else none
           s6 := streamFrom (ws.drop 22) (w 30), s7 := streamFrom (ws.drop 26) (w 31) }

/-! ## Discarding a block (R31) and the end of a thread (R260) -/

/-- A block as it stands before its first instruction fires, decoded (R31, R57). -/
def Block.fresh (b : Block) (rid clk : Nat) (accown : Word) : Block :=
  { addr := b.addr, rid := rid, lnc := b.lnc, hdr := b.hdr, body := b.body.map fun e => { insn := e.insn },
    replays := b.replays, misses := b.misses, start := clk, began := clk, accown := accown }

/-- A header packed into MSGH (R265). -/
def packHeader (x : BitVec 32) : BitVec 20 := x.extractLsb' 16 16 ++ x.extractLsb' 8 2 ++ x.extractLsb' 4 2

/-- REG of a KIND 0 continuation (Table 15.2). -/
def contReg (w : Word) : Nat := (w.extractLsb' 0 4).toNat

/-- Writes a message's payload and header into a context (R266). -/
def Ctx.receive (x : Ctx) (reg : Nat) (pay : List Word) (hdr : BitVec 32) : Ctx :=
  let y := pay.zipIdx.foldl (fun y w => y.setG (BitVec.ofNat 4 (reg + w.2)) w.1) x
  { y with msgh := packHeader hdr, mdl := true }

/-- A block boundary, after a commit or a discard: the message that waits for it is delivered (R266). -/
def Ctx.boundary (x : Ctx) : Ctx :=
  match x.due with
  | some m => { x.receive (contReg m.cont) m.pay m.hdr with due := none }
  | none => x

/-- The reply to the send that waits, if any: status 1 for accepted, 0 for dropped (R287). -/
def State.answerSend (s : State) (m : Msg) (st : Word) : State :=
  match m.reply with
  | some (c, k, rid, i) => s.reply (.entry c k rid i) (.result (.sc st) .null)
  | none => s

/-- A message is accepted when the boundary of a context delivers it (R266, R287). -/
def State.boundaryReply (s : State) (x : Ctx) : State := match x.due with | some m => s.answerSend m 1 | none => s

/-- The buffer of a context number in its tenant's message buffers, with the domain of its page (R266). -/
def State.bufferPa (s : State) (tag : Nat) : Option (Nat × Nat) :=
  match s.ten? (tag / 2048) with
  | some t => s.place (tag / 2048) (t.msgBase + BitVec.ofNat 64 (1024 * (tag % 2048))) .both
  | none => none

/-- Returns a context number of a tenant to the pool: buffered entries are discarded and counted, the word at +0 is cleared by a strong
access (R260, R266). -/
def State.returnNumber (s : State) (ten n : Nat) : State :=
  let s := s.modTen ten fun t => { t with numbers := lremove t.numbers n }
  match s.bufferPa (ten * 2048 + n) with
  | some (pa, dom) =>
    let r := s.readIn ten dom (pa / 8)
    let s := r.1.modPart (s.partOf ten) fun p => { p with ctr := tadd p.ctr 0x300 (r.2.extractLsb' 8 4).toNat }
    s.strongIn ten dom (pa / 8) 0
  | none => s

/-- Returns the number of a context. -/
def State.freeNumber (s : State) (x : Ctx) : State := if x.num = 0 then s else s.returnNumber x.ten x.num

/-- The token that an arrival on its way leaves when its block is discarded: it stands, in the phase in which it will count (R273, R296).
None for a poll or a wait, which makes no arrival, and for one that is not yet sent, since a join or leave of its set is still in the store
queue (R297). -/
def State.standTok (s : State) (c : Nat) (x : Option BarTok) (ctx t n : Nat) (wait : Bool) : Option BarTok :=
  let unsent := (s.core c).sq.any fun e => e.ctx == ctx && (match e.kind with | .join m _ => m == n | .leave m _ => m == n | _ => false)
  match (s.ten? t).bind fun z => tget? z.sets n, x with
  | none, _ => none
  | some o, none => if unsent then none else some ⟨n, o.ph, wait⟩
  | some _, some x => if wait && !x.bk && !unsent then some ⟨n, !x.ph, true⟩ else none

/-- A packet in flight when its run is discarded: a full/empty request is withdrawn (R188), an arrival stands or is not made. -/
def State.packetLeft (s : State) (rid : Nat) (x : Option BarTok) (r : Req) : Option Req :=
  match r.pkt with
  | .fe q => if q.who.ofRun rid then none else some r
  | .arrive c k id i ctx t n wait =>
    if id != rid then some r
    else (s.standTok c x ctx t n wait).map fun b => { r with pkt := .stands (c, k, id, i, ctx) t n b.ph }
  | _ => some r

/-- The barrier token that a run leaves when it is discarded: that of the last arrival it has made or sent (R273, R296). -/
def State.tokLeft (s : State) (y : Ctx) (b : Block) : Option BarTok :=
  let sent := s.reqs.findSome? fun r => match r.pkt with
    | .arrive c _ id _ ctx t n wait => if id = b.rid then s.standTok c (b.curTok y) ctx t n wait else none
    | _ => none
  match sent, b.bars.getLast? with
  | some t, _ => some t
  | none, some t => some t
  | none, none => y.tok

/-- What leaves no trace when the block of a slot is discarded (R31): a number or set it took returns (R292, R294); its
parked waits are withdrawn (R188); a barrier arrival that it has sent or made stands and sets tok
(R273, R296). The slot's block becomes `nb`; the trailing slot of a paired core follows its leading slot (R398). -/
def State.undo (s : State) (c k : Nat) (nb : Option Block) : State :=
  let x := s.slot c k
  match x.ctx, x.blk with
  | some y, some b =>
    let reqs := s.reqs.filterMap (s.packetLeft b.rid (b.curTok y))
    let y := match s.tokLeft y b with | some t => y.withTok (some t) | none => y
    let s := { s with reqs := reqs }.boundaryReply y
    let y := y.boundary
    let s := s.setSlot c k { x with ctx := some y, blk := nb, ctr := tadd x.ctr 1 1 }
    let s := match b.taken with | some n => s.returnNumber y.ten n | none => s
    let s := s.modTen y.ten fun t => { t with sets := t.sets.filter fun z => !(b.sets.contains z.1 && !z.2.had) }
    let s := { s with waits := s.waits.filter fun w => !w.q.who.ofRun b.rid }
    if (s.core c).paired then
      let s := s.modCore c fun z => { z with lvq := z.lvq.filter fun r => r.1 != k }
      let t := s.slot c (k + 8)
      s.setSlot c (k + 8) { t with ctx := nb.bind fun _ => some y, blk := nb }
    else s
  | _, _ => s

/-- Discards the block of a slot: its tokens, stores, flags and exit are dropped (R31). -/
def State.discard (s : State) (c k : Nat) : State := s.undo c k none

/-- Discards the block of a slot for a replay from its decoded form, from a clk on (R31, R57). -/
def State.replay (s : State) (c k clk : Nat) (f : Block → Block) : State :=
  match (s.slot c k).blk with
  | some b => { s.undo c k (some (f (b.fresh s.nextId clk (s.core c).accown))) with nextId := s.nextId + 1 }
  | none => s

/-- The set numbers a context belongs to. -/
def Ctx.groups (x : Ctx) : List Nat := x.grps.filterMap fun g => g.map BitVec.toNat

/-- A thread that has stopped counting: its launch's grant loses it (R277). -/
def State.uncount (s : State) (x : Ctx) : State :=
  match x.launch with
  | none => s
  | some l => { s with launches := s.launches.map fun (r : Nat × Launch) => if r.1 = l then (l, { r.2 with
      grants := r.2.grants.map fun g => if g.1 = x.grant then (g.1, g.2.1, g.2.2.1, g.2.2.2.1, g.2.2.2.2 - 1) else g }) else r }

/-- sr.trapcause of a cause (Table 21.1). -/
def causeWord (code : Nat) (post : Bool) : Word := BitVec.ofNat 64 (code + if post then 65536 else 0)

/-- A stop of a thread of core c that has ended: an event for its partition's supervisor (R30, R295). -/
def State.eventOf (s : State) (c id : Nat) (f : Cause) (addr : Word) : State :=
  s.tellSupervisor (s.core c).tag 0 (causeWord f.code true) f.val addr 0 0 none (s.owed c id)

/-- The effects of a thread's end at its commit (R260): it leaves its sets, its number and spawn count return; stops that
waited for a block boundary are reported (R295). The leaves enter the core's store queue. -/
def State.endEffects (s : State) (c k : Nat) (x : Ctx) : State :=
  let s := x.late.foldl (fun s l => s.eventOf c x.id l.1 l.2) s
  let s := x.groups.foldl (fun s set =>
    let e : SqEnt := ⟨s.nextId, x.id, k, x.ten, x.pc, .leave set ((x.tok.filter fun t => t.set == set).map BarTok.ph), .queued⟩
    { s.modCore c (fun z => { z with sq := z.sq ++ [e] }) with nextId := s.nextId + 1 }) s
  let s := s.freeNumber x
  if x.spawned then s.quotaSub x.ten 5 1 else s

/-- Whether a thread that has ended still has stores on their way to their homes. -/
def Core.owes (k : Core) (id : Nat) : Bool := k.sq.any fun e => e.ctx == id && (e.phase == .queued || e.phase == .departed)

/-- A core's ended threads that have no store left on its way: their slots return to the pool, and they stop counting for
their launches (R101, R260). A thread may also end where it is held outside a slot (R349). -/
def State.reap (s : State) (c : Nat) : State :=
  let k := s.core c
  let done (x : Ctx) : Bool := x.hold == .ending && !k.owes x.id
  let held := (k.slots.filterMap fun n => n.2.ctx) ++ k.cache ++ k.saved.map (·.2.2)
  let free (n : Nat × Slot) : Nat × Slot :=
    match n.2.ctx with
    | some x => if done x then (n.1, { n.2 with ctx := none, blk := none, handed := none, drain := false, overrun := false, charge := none, trap := none, lastTen := x.ten }) else n
    | none => n
  let s := if held.any done then
      s.setCore c { k with slots := k.slots.map free, cache := k.cache.filter fun x => !done x, saved := k.saved.filter fun r => !done r.2.2 }
    else s
  (held.filter done).foldl State.uncount s

/-- A context whose thread has ended. -/
def Ctx.ended (x : Ctx) : Ctx := { x with hold := .ending, rdy := false, grps := [none, none, none, none], bv := false, late := [] }

/-- Ends the thread in a slot (R260). -/
def State.endThread (s : State) (c k : Nat) : State :=
  match (s.slot c k).ctx with
  | none => s
  | some x =>
    let s := s.endEffects c k x
    let s := s.setSlot c k { s.slot c k with ctx := some x.ended, blk := none }
    s.reap c

/-- A launch takes a fault's code as STATUS and grants no more (R279, R348). -/
def State.launchStop (s : State) (x : Ctx) (code : Nat) : State :=
  match x.launch with
  | none => s
  | some l => { s with launches := s.launches.map fun (r : Nat × Launch) => if r.1 = l then (l, { r.2 with status := code, stop := true }) else r }

/-! ## Taking an exception: stop and delivery (R343 to R348) -/

/-- The trap record of logical core lc and slot k (R347). -/
def recordVa (base : Word) (lc k : Nat) : Word := base + BitVec.ofNat 64 (512 * (16 * lc + k))

/-- Writes a trap record for the supervisor tenant at a physical address: CTX, CAUSE, TADDR, TVAL as plain stores, RESUME emptied (R348). -/
def State.writeRecord (s : State) (sv pa dom : Nat) (x : Ctx) (cause addr val : Word) : State :=
  (s.writeAllIn sv dom (pa / 8) (x.record ++ [cause, addr, val])).emptyIn sv dom (pa / 8 + 35)

/-- Delivers a stop of the context in a slot, whose resume address is its pc, with CAUSE, TVAL and TADDR: the record, the
message, the wait on RESUME, which parks there as an emptying load does (R186, R187). With no continuation, or an untranslatable record, the context ends as for ACT 1 and its
launch takes STATUS := CODE (R348). -/
def State.deliver (s : State) (c k : Nat) (hold : Hold) (cause val addr : Word) : State :=
  match (s.slot c k).ctx with
  | none => s
  | some x =>
    let p := (s.core c).tag
    let lc := (s.core c).logical
    let end_ := (s.launchStop x (cause.toNat % 65536)).endThread c k
    match tget? s.parts p with
    | none => end_
    | some q =>
      let va := recordVa q.tbase lc k
      match q.scont == 0, s.xlateNow q.svten va .both with
      | false, .ok pa hint dom =>
        let s := s.writeRecord q.svten pa dom { x with flt := true, rdy := false } cause addr val
        let s := s.modCtx c k fun y => { y with hold := hold, flt := true, rdy := false, clk := s.cycle, recPa := some pa, recDom := dom }
        let s := s.tellSupervisor p va cause val addr lc k (some va) (s.owed c x.id)
        s.sendPkt p (.fe { form := .ldfwe, word := pa / 8 + 35, b := 0, who := .resume x.id q.svten, hint := hint, va := va + 280, dom := dom })
      | _, _ => end_

/-- TAKING AN EXCEPTION (R345, R348): the block of the slot, if any, is discarded; sr.trapcause, sr.trapaddr and
sr.trapval are written; the context, whose next block is the resume address, stops and the stop is delivered. -/
def State.stop (s : State) (c k : Nat) (cause : Cause) (post : Bool) (addr resume : Word) : State :=
  let s := s.discard c k
  let s := s.modCtx c k fun x => { x with trapcause := causeWord cause.code post, trapaddr := addr, trapval := cause.val, pc := resume }
  s.deliver c k (.stopped s.cycle) (causeWord cause.code post) cause.val addr

/-- RETURN FROM AN EXCEPTION (R349), ACT 0: takes back the record's words; the context is runnable. -/
def Ctx.resumed (x : Ctx) (ws : List Word) (cycle : Nat) : Ctx :=
  { x.takeBack ws with hold := .run, flt := false, rdy := true, recPa := none, clk := cycle }

/-! ## An instruction about to fire -/

/-- The instruction at the focus: core, slot, index, its slot, context, block and entry. -/
structure Here where
  c : Nat
  k : Nat
  i : Nat
  x : Slot
  ctx : Ctx
  b : Block
  e : Entry
deriving DecidableEq, Repr

/-- The slot whose thread the instruction belongs to: that of the leading slot on a paired core (R398). -/
def Here.lead (h : Here) (paired : Bool) : Nat := if paired && 8 ≤ h.k then h.k - 8 else h.k

/-- The instruction that State.focus names. -/
def State.here (s : State) : Option Here :=
  let x := s.slot s.focus.c s.focus.k
  match x.ctx, x.blk with
  | some y, some b => match b.body[s.focus.i]? with
    | some e => some ⟨s.focus.c, s.focus.k, s.focus.i, x, y, b, e⟩
    | none => none
  | _, _ => none

/-- Delivers a token to an operand slot of a block (R17). -/
def Block.deliver (b : Block) (t : Tgt) (a : Arrival) : Block :=
  { b with body := b.body.modify t.idx.toNat fun e => match t.slot with
      | .a => { e with a := some a }
      | .b => { e with b := some a }
      | .p => { e with p := some a } }

/-- Delivers a token to every target. -/
def Block.give (b : Block) (ts : List Tgt) (a : Arrival) : Block := ts.foldl (fun b t => b.deliver t a) b

/-- Marks an instruction complete from a clk on; a three-input form completes with its opx (R48). -/
def Block.finish (b : Block) (i clk : Nat) : Block :=
  let d (e : Entry) : Entry := { e with phase := .done, doneAt := clk, words := [], own := [] }
  let body := b.body.modify i d
  match b.body[i]? with
  | some e => if e.insn.three then { b with body := body.modify (i + 1) d } else { b with body := body }
  | none => b

/-- The results of instruction i, usable from a clk on: one result to every target, or primary and status (R17, R45). -/
def Block.results (b : Block) (i clk : Nat) (p st : Tok) : Block :=
  match b.body[i]? with
  | none => b
  | some e =>
    let x := e.insn.x
    let b := b.finish i clk
    if e.insn.two then (b.give x.primary ⟨p, clk⟩).give x.status ⟨st, clk⟩ else b.give x.targets ⟨p, clk⟩

/-- An instruction's results with latency lat (R87): delivered to its targets, and it is complete. -/
def State.result (s : State) (h : Here) (p st : Tok) (lat : Nat) : State :=
  s.modBlk h.c h.k fun b => b.results h.i (s.cycle + lat) p st

/-- Notes a fault found in a clk by the instruction at an index: the earliest clk's counts, and in one clk the lowest index's
(R34). -/
def Block.found (b : Block) (clk i : Nat) (f : Cause) : Block :=
  if b.post.isSome && (b.postAt.1 < clk || b.postAt.2 ≤ i) then b else { b with post := some f, postAt := (clk, i) }

/-- A fault of an instruction (R30, R34): the instruction emits nulls and its block notes the fault. -/
def State.raise (s : State) (h : Here) (code : Nat) (val : Word) : State :=
  (s.modBlk h.c h.k fun b => b.found s.cycle h.i ⟨code, val⟩).result h .null .null 1

/-- The end of a clk for the block of a slot that is not past its point of no return: one that broke R33 replays; where a fault
was found in it, the exception is taken (R32 to R34, R345). The trailing slot of a paired core follows its leading slot
(R398). -/
def State.takeFault (s : State) (c k : Nat) : State :=
  match (s.slot c k).blk with
  | some b =>
    if b.ponr || ((s.core c).paired && 8 ≤ k) then s
    else if b.again then (s.replay c k (s.cycle + 1) fun b => { b with replays := b.replays + 1 }).countSlot c k 2
    else match b.post with
      | some f => s.stop c k f false b.addr b.addr
      | none => s
  | none => s

/-- The faults of a core's blocks at the end of a clk. -/
def State.takeFaults (s : State) (c : Nat) : State := (List.range 16).foldl (fun s k => s.takeFault c k) s

end Sys2Proof.Machine
end

