-- ==== Sys2Proof/Machine/Operands.lean ====
section
/-!
DEFINITION. Machine/Operands: the views through which a form reads its tokens (R85, R140), predicates (R19), the
conditions under which an instruction fires (R17, R18, R29, R36, R37) and the shapes shared by the scalar forms.
-/
namespace Sys2Proof

/-- Forms that can fault when they fire (R29, R86, R229, R299, R366): every form with an address, the exits with a
register target, the forms that check an operand, `read` and `write` of a bound stream, and `srwr` of a supervisor-only
or read-only index. -/
def Insn.canFault (i : Insn) (y : Machine.Ctx) : Bool :=
  match i.row with
  | .enter => true | .jmp => true | .callr => true | .ret => true | .migr => true | .eret => true
  | .read => (i.fn == 22 && y.s6.bound) || (i.fn == 23 && y.s7.bound)
  | .write => (i.fn == 22 && y.s6.bound) || (i.fn == 23 && y.s7.bound)
  | .tunpk => true | .sbind => true
  | .srwr => !([0, 1, 3, 4, 12].contains (i.fn - 16))
  | .recv => true | .mkcont => true | .launch => true | .launchi => true
  | .mgath => true | .mldb => true | .mmaEfp8 => true | .mmaE4 => true | .mmaE5 => true | .mmaI8 => true | .mmaBf => true
  | .mmaH => true | .mzero => true | .mst => true | .mstBf => true | .mgang => true | .ecfg => true | .ecancel => true
  | .tlbinva => true | .dcflush => true | .dcinv => true | .icinv => true | .ptload => true | .ctrrd => true
  | _ => i.lsid?.isSome && !(i.row == .fenceAcq || i.row == .fenceRel || i.row == .fenceFull)

/-- Forms that fire as soon as their operands have come, at decode where they use none, and take no issue cycle: opx (R48), `write` (R90),
the exits (R99), the fences (R214), `recv` (R290) and `brk` (R362). -/
def Insn.unissued (i : Insn) : Bool :=
  i.exitNo.isSome || (match i.row with
    | .opx => true | .write => true | .fenceAcq => true | .fenceRel => true | .fenceFull => true | .recv => true | .brk => true
    | _ => false)

end Sys2Proof

namespace Sys2Proof.Machine

/-- Bits 63:0 under the scalar view (R85): none is a null. -/
def Tok.scalar : Tok → Option Word
  | .null => none
  | .sc v => some v
  | .vec v n => if n.extractLsb' 0 8 = 0 then some (v.extractLsb' 0 64) else none

/-- The vector view (R85): a scalar stands in bits 63:0, the rest zero, no lane null; a null is null in every byte. -/
def Tok.vector : Tok → Vec × NullMask
  | .null => (0, BitVec.allOnes 64)
  | .sc v => (v.zeroExtend 512, 0)
  | .vec v n => (v, n)

/-- A vector result; one whose every byte is null is a whole null (R22). -/
def vecTok (v : Vec) (n : NullMask) : Tok := if n = BitVec.allOnes 64 then .null else .vec v n

/-- The token of an operand slot. -/
def Here.tok (h : Here) (s : OpSlot) : Tok :=
  match (match s with | .a => h.e.a | .b => h.e.b | .p => h.e.p) with
  | some t => t.tok
  | none => .null

/-- The arrival of c, in slot a of the opx (R48). -/
def Here.arrC (h : Here) : Option Arrival := match h.b.body[h.i + 1]? with | some e => e.a | none => none
/-- The token of c. -/
def Here.tokC (h : Here) : Tok := match h.arrC with | some t => t.tok | none => .null

/-- Scalar a, 0 where the form does not use the slot; none is a null. -/
def Here.a (h : Here) : Option Word := if h.e.insn.uses .a then (h.tok .a).scalar else some 0
/-- Scalar b. -/
def Here.bb (h : Here) : Option Word := if h.e.insn.uses .b then (h.tok .b).scalar else some 0
/-- Scalar c. -/
def Here.cc (h : Here) : Option Word := if h.e.insn.three then h.tokC.scalar else some 0
/-- FN of the instruction. -/
def Here.fn (h : Here) : Nat := h.e.insn.x.fn.toNat
/-- The sign-extended I16 immediate (R46). -/
def Here.imm16 (h : Here) : Word := h.e.insn.x.i16.signExtend 64
/-- OFF, sign-extended (R46). -/
def Here.off (h : Here) : Word := h.e.insn.x.off.signExtend 64
/-- LSID. -/
def Here.lsid (h : Here) : Nat := h.e.insn.x.lsid.toNat
/-- The tenant. -/
def Here.ten (h : Here) : Nat := h.ctx.ten

/-- Whether the predicate lets the instruction have effect (R19): a null in p does not. -/
def Here.pOn (h : Here) : Bool :=
  match h.e.insn.x.pm, (h.tok .p).scalar with
  | .always, _ => true
  | .ifTrue, some v => v.getLsbD 0
  | .ifFalse, some v => !v.getLsbD 0
  | _, none => false

/-- Whether an arrival has come by a clk. -/
def came (t : Option Arrival) (clk : Nat) : Bool := match t with | some a => a.at_ ≤ clk | none => false

/-- Whether every operand slot that the form uses has its token (R17, R48). -/
def Here.arrived (h : Here) (clk : Nat) : Bool :=
  (!h.e.insn.uses .a || came h.e.a clk) && (!h.e.insn.uses .b || came h.e.b clk) &&
    (!h.e.insn.uses .p || came h.e.p clk) && (!h.e.insn.three || came h.arrC clk)

/-- Whether the instruction may fire, or be carried on, in this clk. To fire, its block has begun, its tokens have come, its slot is in the
rotation and the core has not issued in this clk (R17, R36, R37). A form that takes no issue cycle fires with its tokens, and what a reply
or a walk brings is taken in, whether or not the slot is in the rotation (R37, R90, R99). -/
def State.mayFire (s : State) (h : Here) : Bool :=
  h.arrived s.cycle && match h.e.phase with
    | .retry => s.coreRuns h.c && h.ctx.hold == .run
    | .held => s.inRotation h.c h.k
    | .waiting => h.b.start ≤ s.cycle &&
        (if h.e.insn.unissued then s.coreRuns h.c && h.ctx.hold == .run else s.inRotation h.c h.k && (s.core h.c).issuedAt != some s.cycle)
    | _ => false

/-- The issue of an instruction (R36): s, the issue counter 0x0100, the power window (R404) and, in pool or donated
time, the compute quota, charged when its block commits (R35, R382). A form that is carried on, or takes no issue cycle, issues nothing. -/
def State.issue (s : State) (h : Here) : State :=
  if h.e.phase == .waiting && !h.e.insn.unissued then
    let s := s.modCore h.c fun k => { k with s := h.k, issuedAt := some s.cycle, ctr := tadd k.ctr 0x100 1, winIssue := tadd k.winIssue (if h.x.drain then 32 else h.ten) 1 }
    if (s.sideNow h.c).isNone || (s.core h.c).donated then s.modBlk h.c h.k fun b => { b with issues := b.issues + 1 } else s
  else s

/-- Everything that depends on instruction i, with the three-input forms whose opx it feeds. -/
def Block.depends (b : Block) (i : Nat) : List Nat :=
  let step (l : List Nat) (n : Nat) : List Nat :=
    match b.body[n]? with
    | none => l
    | some e =>
      let three := e.insn.three && l.contains (n + 1)
      let l := if three && !l.contains n then n :: l else l
      if l.contains n then e.insn.x.targets.foldl (fun l t => if l.contains t.idx.toNat then l else t.idx.toNat :: l) l else l
  -- targets point forward, and the producer of an opx stands before its head, so one pass reaches everything
  (List.range b.body.length).foldl step [i]

/-- Whether every instruction of the block that p picks is complete. -/
def Block.allDone (b : Block) (p : Entry → Nat → Bool) : Bool := b.body.zipIdx.all fun x => !p x.1 x.2 || x.1.phase == .done

/-- Whether every instruction of the block that p picks has given its results by a clk. -/
def Block.allBack (b : Block) (clk : Nat) (p : Entry → Nat → Bool) : Bool :=
  b.body.zipIdx.all fun x => !p x.1 x.2 || (x.1.phase == .done && x.1.doneAt ≤ clk)

/-- Whether every store of the block with an LSID below j has settled by a clk (R24): mst and mst.bf do when the read of their tile has
ended (R330). -/
def Block.storesBelow (b : Block) (clk j : Nat) : Bool :=
  b.body.all fun e => match e.insn.lsid? with
    | some n => !(n < j && e.insn.isStore) || (e.phase == .done && (!e.insn.readsTile || e.doneAt ≤ clk))
    | none => true

/-- Whether every load of the block with an LSID below j has returned by a clk (R214). -/
def Block.loadsBelow (b : Block) (clk j : Nat) : Bool :=
  b.allBack clk fun e _ => match e.insn.lsid? with | some n => n < j && !e.insn.isStore | none => false

/-- Whether every acquire of the block with an LSID below j is complete (R33, R212). -/
def Block.acquiresBelow (b : Block) (clk j : Nat) : Bool :=
  b.allBack clk fun e _ => match e.insn.lsid? with | some n => n < j && e.insn.isAcquire | none => false

/-- The same, but for the acquires that the instruction at index i feeds: those cannot complete before it has its value. -/
def Block.acquiresClear (b : Block) (clk i j : Nat) : Bool :=
  let dep := b.depends i
  b.allBack clk fun e n => !dep.contains n && match e.insn.lsid? with | some n => n < j && e.insn.isAcquire | none => false

/-- Whether a memory form stands behind an acquire of its block that is not complete (R212). -/
def Here.early (h : Here) (clk : Nat) : Bool := h.e.insn.lsid?.isSome && !h.b.acquiresClear clk h.i h.lsid

/-- A pop that has fired and passed translation, and waits for acquires or for its words (R167). -/
def Entry.popSent (e : Entry) : Bool := e.insn.row == .read && (e.phase == .held || e.phase == .sent)

/-- R29 and R12 in a clk for the committing operation at index i: every memory operation of a lower LSID has settled, every
instruction that can fault and does not depend on it, and every `enter`, has fired, no fault was found, every acquire is
complete, and the slot is not being handed over. A push has passed translation when its `write` has fired, and a pop when it waits (R167). -/
def Here.clear29 (h : Here) (clk : Nat) : Bool :=
  let dep := h.b.depends h.i
  (h.b.allBack clk fun e n => n != h.i && (match e.insn.lsid? with | some m => m < h.lsid | none => false)) &&
    (h.b.allDone fun e n => n != h.i && e.insn.canFault h.ctx && !e.popSent && (!dep.contains n || e.insn.row == .enter)) &&
    (h.b.allBack clk fun e n => n != h.i && e.insn.isAcquire && !dep.contains n) && h.b.post.isNone && !h.b.again && !h.x.drain && h.x.handed.isNone

/-- R33: the third run after two replays in a row takes its loads strictly in LSID order. -/
def Here.strict33 (h : Here) (clk : Nat) : Bool := h.b.replays < 2 || h.b.loadsBelow clk h.lsid

/-- Runs a form at the focus: the entry must be of the form, able to fire, and meet a condition of the form; it issues
and then has its effect. -/
def State.fires (s : State) (row : Instr) (ok : Here → State → Bool) (f : Here → State → State) : Out :=
  match s.here with
  | none => .fault .notEnabled
  | some h => if h.e.insn.row = row && s.mayFire h && ok h s then .next (f h (s.issue h)) else .fault .notEnabled

/-- No condition beyond those of every instruction. -/
def always (_ : Here) (_ : State) : Bool := true

/-- The writes of a thread that are in its core's store queue and not yet accepted (R25). -/
def State.ownWrites (s : State) (c id : Nat) : List Wr :=
  (s.core c).sq.filterMap fun e =>
    if e.ctx = id && (e.phase == .queued || e.phase == .departed) then
      match e.kind with | .st w => some w | .rel w _ => some w | _ => none
    else none

/-- Whether the thread's own stores to a word have been accepted at its home (R233). -/
def State.clearOf (s : State) (h : Here) (w : Nat) : Bool := (s.ownWrites h.c h.ctx.id).all fun x => x.word != w

/-- A form that has fired and waits is taken up again once its condition holds; a strong access also waits for its thread's
stores to its words. -/
def heldFor (cond : Here → State → Bool) (h : Here) (s : State) : Bool := h.e.phase != .held || (cond h s && h.e.want.all (s.clearOf h))

/-- Adds sticky flags to the block's flag output (R27, R103). -/
def State.flag (s : State) (h : Here) (f : BitVec 7) : State :=
  if f = 0 then s else s.modBlk h.c h.k fun b => { b with flags := b.flags ||| f }

/-- A scalar form without memory (R20, R86): a null operand or a false predicate emits a null; otherwise the value and
flags of f, after lat clk. -/
def fireScalar (row : Instr) (lat : Nat) (f : Here → Word → Word → Word → Word × BitVec 7) (s : State) : Out :=
  s.fires row always fun h s =>
    match h.pOn, h.a, h.bb, h.cc with
    | true, some a, some b, some c => (s.flag h (f h a b c).2).result h (.sc (f h a b c).1) .null lat
    | _, _, _, _ => s.result h .null .null lat

/-- The same for a form that raises no flag. -/
def fireInt (row : Instr) (lat : Nat) (f : Here → Word → Word → Word → Word) (s : State) : Out :=
  fireScalar row lat (fun h a b c => (f h a b c, 0)) s

/-- Adds an action to the block's commit, under the instruction's index (R27). -/
def State.act (s : State) (h : Here) (a : Act) : State :=
  s.modBlk h.c h.k fun b => { b with acts := b.acts ++ [(h.i, a)] }

/-- Marks the instruction's phase (waiting for a walk, or for a reply). -/
def State.phase (s : State) (h : Here) (f : Entry → Entry) : State :=
  s.modBlk h.c h.k fun b => { b with body := b.body.modify h.i f }

/-- Goes on where a condition holds and the thread's own stores to the words ws are accepted (R233); else the form, which has
fired, waits for it (R204). -/
def State.strongReady (s : State) (h : Here) (cond : Here → State → Bool) (ws : List Nat) (f : State → State) : State :=
  if cond h s && ws.all (s.clearOf h) then f s else s.phase h fun e => { e with phase := .held, want := ws }

/-- The same for a form that is no strong access. -/
def State.onceReady (s : State) (h : Here) (cond : Here → State → Bool) (f : State → State) : State := s.strongReady h cond [] f

end Sys2Proof.Machine
end

