-- ==== Sys2Proof/Machine/Flags.lean ====
section
/-!
DEFINITION. Machine/Flags: number formats (R117, R118), exact values, the one rounding Round (R103, R104, R110, R131,
R132) and every flag computation (R103 to R112, R128).
-/
namespace Sys2Proof.Machine

/-- Sticky flags by their place in sr.stat (Table 7.7). -/
def fNV : BitVec 7 := 1
def fDZ : BitVec 7 := 2
def fOF : BitVec 7 := 4
def fUF : BitVec 7 := 8
def fNX : BitVec 7 := 16
def fTINV : BitVec 7 := 32
def fFINV : BitVec 7 := 64

/-- A floating-point format (Table 7.1): widths of E and M, bias, largest finite code without sign, infinity (none in
E4M3 and E6M3), canonical NaN, whether it has signalling NaNs. -/
structure Fmt where
  ew : Nat
  mw : Nat
  bias : Nat
  maxFin : Nat
  inf : Option Nat
  nan : Nat
  signals : Bool
deriving DecidableEq, Repr

def fp32 : Fmt := ⟨8, 23, 127, 0x7F7FFFFF, some 0x7F800000, 0x7FC00000, true⟩
def fp16 : Fmt := ⟨5, 10, 15, 0x7BFF, some 0x7C00, 0x7E00, true⟩
def bf16 : Fmt := ⟨8, 7, 127, 0x7F7F, some 0x7F80, 0x7FC0, true⟩
def e4m3 : Fmt := ⟨4, 3, 7, 0x7E, none, 0x7F, false⟩
def e5m2 : Fmt := ⟨5, 2, 15, 0x7B, some 0x7C, 0x7E, false⟩
def e6m3 : Fmt := ⟨6, 3, 31, 0x1FF, none, 0x3FF, false⟩

/-- The sign bit of a format, as a number. -/
def Fmt.signBit (f : Fmt) : Nat := 2 ^ (f.ew + f.mw)

/-- A floating-point value: a NaN (signalling or not), an infinity, or (−1)^neg × m × 2^e, m = 0 a signed zero. -/
inductive FV where
  | nan (signal : Bool)
  | inf (neg : Bool)
  | num (neg : Bool) (m : Nat) (e : Int)
deriving DecidableEq, Repr

/-- The value of a code (R117). Codes above the largest finite one are the infinity or NaNs. -/
def Fmt.value (f : Fmt) (x : Nat) : FV :=
  let neg := x / f.signBit % 2 == 1
  let y := x % f.signBit
  if y ≤ f.maxFin then
    let e := y / 2 ^ f.mw
    let m := y % 2 ^ f.mw
    if e = 0 then .num neg m (1 - (f.bias : Int) - f.mw)
    else .num neg (2 ^ f.mw + m) ((e : Int) - f.bias - f.mw)
  else if some y = f.inf then .inf neg
  else .nan (f.signals && !y.testBit (f.mw - 1))

/-- A code with a sign. -/
def Fmt.signed (f : Fmt) (neg : Bool) (y : Nat) : Nat := if neg then f.signBit + y else y

/-- Result on overflow (Table 5.7; E4M3 saturates, R110). -/
def Fmt.overflow (f : Fmt) (rm : Nat) (neg : Bool) : Nat :=
  match f.inf with
  | none => f.signed neg f.maxFin
  | some i =>
    if rm = 1 || (rm = 2 && neg) || (rm = 3 && !neg) then f.signed neg f.maxFin else f.signed neg i

/-- Whether a magnitude hi × 2^q with a remainder rem of 2^s below it is rounded away from zero. For the stochastic mode
(4) r is the draw (R132). -/
def roundsUp (rm : Nat) (neg : Bool) (hi rem s : Nat) (sticky : Bool) (r : Nat) : Bool :=
  if rm = 4 then (rem * 65536) / 2 ^ s + r ≥ 65536
  else if rm = 1 then false
  else if rm = 2 then !neg && (rem != 0 || sticky)
  else if rm = 3 then neg && (rem != 0 || sticky)
  else
    let half := 2 ^ (s - 1)
    half < rem || (rem == half && (sticky || hi % 2 == 1))

/-- The places to drop so that m × 2^e has at most p bits, and none below 2^least if `least` is given. -/
def dropBits (m : Nat) (e : Int) (p : Nat) (least : Option Int) : Nat :=
  let n : Int := (Nat.log2 m : Int) + 1 - p
  let l : Int := match least with | some q => q - e | none => 0
  (max (max n l) 0).toNat

/-- Round (R103, R131, R132): the code nearest the exact magnitude m × 2^e (a little more when sticky) under a mode, and
its flags; tininess is found after rounding. m is not 0; a sticky m has at least two bits more than the format. -/
def Fmt.round (f : Fmt) (rm r : Nat) (neg : Bool) (m : Nat) (e : Int) (sticky : Bool) : Nat × BitVec 7 :=
  let emin : Int := 1 - (f.bias : Int) - f.mw
  let cut (s : Nat) : Nat :=
    m / 2 ^ s + if s != 0 && roundsUp rm neg (m / 2 ^ s) (m % 2 ^ s) s sticky r then 1 else 0
  let s := dropBits m e (f.mw + 1) (some emin)
  let hi := cut s
  let q := e + s
  -- as if the exponent had no least value, for tininess
  let s0 := dropBits m e (f.mw + 1) none
  let low (x : Nat) (q : Int) : Bool := q + Nat.log2 x < 1 - (f.bias : Int)
  let y : Nat :=
    if hi = 0 then 0
    else if low hi q then hi * 2 ^ (q - emin).toNat
    else
      let k := Nat.log2 hi
      let mant := if k ≤ f.mw then hi * 2 ^ (f.mw - k) else hi / 2 ^ (k - f.mw)
      (q + k + f.bias).toNat * 2 ^ f.mw + (mant - 2 ^ f.mw)
  let tiny := if rm = 4 then y < 2 ^ f.mw else low (cut s0) (e + s0)
  if f.maxFin < y then (f.overflow (if rm = 4 then 0 else rm) neg, fOF ||| fNX)
  else (f.signed neg y, if m % 2 ^ s != 0 || sticky then (if tiny then fNX ||| fUF else fNX) else 0)

/-- Round of an exact value; an exact zero keeps its sign. -/
def Fmt.roundV (f : Fmt) (rm r : Nat) (v : FV) : Nat × BitVec 7 :=
  match v with
  | .nan s => (f.nan, if s then fNV else 0)
  | .inf n => match f.inf with
    | some i => (f.signed n i, 0)
    | none => (f.signed n f.maxFin, fOF)
  | .num n m e => if m = 0 then (f.signed n 0, 0) else f.round rm r n m e false

/-- RM as the block began, stochastic read as nearest-even (R131). -/
def Ctx.rm (x : Ctx) : Nat := let r := (x.fpm &&& 7).toNat; if r = 4 then 0 else r
/-- Whether the stochastic mode is selected. -/
def Ctx.stochastic (x : Ctx) : Bool := (x.fpm &&& 7).toNat == 4

/-- Exact sum of two finite values. -/
def addExact (rm : Nat) (n1 : Bool) (m1 : Nat) (e1 : Int) (n2 : Bool) (m2 : Nat) (e2 : Int) : FV :=
  let e := min e1 e2
  let x : Int := (if n1 then -1 else 1) * (m1 * 2 ^ (e1 - e).toNat : Nat)
  let y : Int := (if n2 then -1 else 1) * (m2 * 2 ^ (e2 - e).toNat : Nat)
  let z := x + y
  if z = 0 then .num (if m1 = 0 && m2 = 0 && n1 = n2 then n1 else rm == 3) 0 e
  else .num (z < 0) z.natAbs e

/-- a + b (R105). -/
def Fmt.add (f : Fmt) (rm : Nat) (a b : FV) : Nat × BitVec 7 :=
  match a, b with
  | .nan s, .nan t => (f.nan, if s || t then fNV else 0)
  | .nan s, _ => (f.nan, if s then fNV else 0)
  | _, .nan s => (f.nan, if s then fNV else 0)
  | .inf x, .inf y => if x = y then f.roundV rm 0 (.inf x) else (f.nan, fNV)
  | .inf x, _ => f.roundV rm 0 (.inf x)
  | _, .inf y => f.roundV rm 0 (.inf y)
  | .num n m e, .num n' m' e' => f.roundV rm 0 (addExact rm n m e n' m' e')

/-- −v; a NaN stays as it is. -/
def FV.neg : FV → FV
  | .nan s => .nan s
  | .inf n => .inf !n
  | .num n m e => .num (!n) m e

/-- Whether a value is a NaN, and whether a signalling one. -/
def FV.isNan : FV → Bool | .nan _ => true | _ => false
def FV.isSnan : FV → Bool | .nan s => s | _ => false

/-- Exact product (R107): none for 0 × ∞; NaNs are handled before. -/
def mulExact : FV → FV → Option FV
  | .num n m e, .num n' m' e' => some (.num (n != n') (m * m') (e + e'))
  | .inf n, .inf n' => some (.inf (n != n'))
  | .inf n, .num n' m' _ => if m' = 0 then none else some (.inf (n != n'))
  | .num n m _, .inf n' => if m = 0 then none else some (.inf (n != n'))
  | _, _ => none

/-- a × b (R105). -/
def Fmt.mul (f : Fmt) (rm : Nat) (a b : FV) : Nat × BitVec 7 :=
  if a.isNan || b.isNan then (f.nan, if a.isSnan || b.isSnan then fNV else 0)
  else match mulExact a b with
    | none => (f.nan, fNV)
    | some v => f.roundV rm 0 v

/-- a × b + c, exact before one Round (R107). -/
def Fmt.fma (f : Fmt) (rm : Nat) (a b c : FV) : Nat × BitVec 7 :=
  let sn := a.isSnan || b.isSnan || c.isSnan
  if a.isNan || b.isNan then (f.nan, if sn then fNV else 0)
  else match mulExact a b with
    | none => (f.nan, fNV)
    | some p =>
      if c.isNan then (f.nan, if sn then fNV else 0) else f.add rm p c

/-- a ÷ b (R105). -/
def Fmt.div (f : Fmt) (rm : Nat) (a b : FV) : Nat × BitVec 7 :=
  match a, b with
  | .nan s, .nan t => (f.nan, if s || t then fNV else 0)
  | .nan s, _ => (f.nan, if s then fNV else 0)
  | _, .nan s => (f.nan, if s then fNV else 0)
  | .inf _, .inf _ => (f.nan, fNV)
  | .inf n, .num n' _ _ => f.roundV rm 0 (.inf (n != n'))
  | .num n _ _, .inf n' => (f.signed (n != n') 0, 0)
  | .num n m e, .num n' m' e' =>
    if m' = 0 then
      if m = 0 then (f.nan, fNV) else ((f.roundV rm 0 (.inf (n != n'))).1, fDZ)
    else if m = 0 then (f.signed (n != n') 0, 0)
    else f.round rm 0 (n != n') (m * 2 ^ 64 / m') (e - e' - 64) (m * 2 ^ 64 % m' != 0)

/-- Integer square root, from bit n down. -/
def isqrt (x : Nat) : Nat → Nat → Nat
  | 0, r => if (r + 1) * (r + 1) ≤ x then r + 1 else r
  | n + 1, r => isqrt x n (if (r + 2 ^ (n + 1)) * (r + 2 ^ (n + 1)) ≤ x then r + 2 ^ (n + 1) else r)

/-- √a (R105). -/
def Fmt.sqrt (f : Fmt) (rm : Nat) (a : FV) : Nat × BitVec 7 :=
  match a with
  | .nan s => (f.nan, if s then fNV else 0)
  | .inf n => if n then (f.nan, fNV) else f.roundV rm 0 (.inf false)
  | .num n m e =>
    if m = 0 then (f.signed n 0, 0)
    else if n then (f.nan, fNV)
    else
      let odd : Nat := if e % 2 = 0 then 0 else 1
      let x := m * 2 ^ (odd + 80)
      let r := isqrt x 60 0
      f.round rm 0 false r ((e - odd) / 2 - 40) (r * r != x)

/-- An order of values that places −0 below +0 (R106); NaNs are handled before. -/
def FV.lt : FV → FV → Bool
  | .inf n, .inf n' => n && !n'
  | .inf n, .num _ _ _ => n
  | .num _ _ _, .inf n' => !n'
  | .num n m e, .num n' m' e' =>
    let k := min e e'
    let x : Int := (if n then -1 else 1) * (m * 2 ^ (e - k).toNat : Nat)
    let y : Int := (if n' then -1 else 1) * (m' * 2 ^ (e' - k).toNat : Nat)
    x < y || (x == y && m == 0 && n && !n')
  | _, _ => false

/-- Equality as numbers: −0 and +0 are equal (R108). -/
def FV.eqv : FV → FV → Bool
  | .num n m e, .num n' m' e' => (m == 0 && m' == 0) || (!(FV.lt (.num n m e) (.num n' m' e')) && !(FV.lt (.num n' m' e') (.num n m e)))
  | .inf n, .inf n' => n == n'
  | _, _ => false

/-- Minimum (mx false) or maximum of two codes (R106). -/
def Fmt.minmax (f : Fmt) (mx : Bool) (x y : Nat) : Nat × BitVec 7 :=
  let a := f.value x
  let b := f.value y
  let fl := if a.isSnan || b.isSnan then fNV else 0
  if a.isNan && b.isNan then (f.nan, fl)
  else if a.isNan then (y, fl)
  else if b.isNan then (x, fl)
  else if mx then (if a.lt b then y else x, fl) else (if b.lt a then y else x, fl)

/-- An FP condition (R108). -/
def fcHolds (c : Fc) (a b : FV) : Bool × BitVec 7 :=
  let un := a.isNan || b.isNan
  let sn := a.isSnan || b.isSnan
  let quiet : BitVec 7 := if sn then fNV else 0
  let ordered : BitVec 7 := if un then fNV else 0
  let lt := !un && a.lt b && !a.eqv b
  let gt := !un && b.lt a && !a.eqv b
  let eq := !un && a.eqv b
  match c with
  | .eq => (eq, quiet)
  | .ne => (!eq, quiet)
  | .lt => (lt, ordered)
  | .le => (lt || eq, ordered)
  | .gt => (gt, ordered)
  | .ge => (gt || eq, ordered)
  | .un => (un, quiet)
  | .ord => (!un, quiet)

/-- Rounding of an exact value to an integer under a mode (R111), with whether it changed. -/
def roundInt (rm : Nat) (neg : Bool) (m : Nat) (e : Int) : Int × Bool :=
  let sg (x : Nat) : Int := if neg then -(x : Int) else x
  if 0 ≤ e then (sg (m * 2 ^ e.toNat), false)
  else
    let s := (-e).toNat
    let hi := m / 2 ^ s
    let rem := m % 2 ^ s
    (sg (hi + if roundsUp rm neg hi rem s false 0 then 1 else 0), rem != 0)

/-- Conversion to a signed integer of n bits (R111). -/
def toInt (rm n : Nat) (v : FV) : Int × BitVec 7 :=
  let hi : Int := 2 ^ (n - 1) - 1
  let lo : Int := -(2 ^ (n - 1))
  match v with
  | .nan _ => (0, fNV)
  | .inf neg => (if neg then lo else hi, fNV)
  | .num neg m e =>
    -- far beyond the range: the exponent alone decides
    if m != 0 && e > 80 then (if neg then lo else hi, fNV)
    else
      let t := roundInt rm neg m e
      if hi < t.1 then (hi, fNV) else if t.1 < lo then (lo, fNV) else (t.1, if t.2 then fNX else 0)

/-- The exact value of an integer. -/
def ofInt (x : Int) : FV := .num (x < 0) x.natAbs 0

/-- One step of the LFSR (R132). -/
def lfsrStep (v : Word) : Word := if v.getLsbD 0 then (v >>> 1) ^^^ 0x80200003 else v >>> 1

/-- STATE after one Draw (R132): sixteen steps. -/
def drawState (v : Word) : Word := (List.range 16).foldl (fun v _ => lfsrStep v) v

/-- STATE after n draws. -/
def drawStates (v : Word) : Nat → Word
  | 0 => v
  | n + 1 => drawState (drawStates v n)

/-- The value a draw returns from the STATE after it. -/
def drawBits (v : Word) : Nat := v.toNat % 65536

/-- The result format and the source format of a conversion between FP formats (Table 5.9). -/
def cvFormats : Cv → Option (Fmt × Fmt)
  | .hS => some (fp16, fp32) | .bfS => some (bf16, fp32) | .sH => some (fp32, fp16) | .sBf => some (fp32, bf16)
  | .e4S => some (e4m3, fp32) | .e5S => some (e5m2, fp32) | .sE4 => some (fp32, e4m3) | .sE5 => some (fp32, e5m2)
  | _ => none

/-- Conversions that round stochastically under RM = 4 (Table 5.9). -/
def cvStochastic : Cv → Bool | .bfS => true | .e4S => true | .e5S => true | _ => false

/-- Source bits and result bits of a conversion (Table 5.9). -/
def cvSrcBits : Cv → Nat
  | .sH => 16 | .sBf => 16 | .sE4 => 8 | .sE5 => 8 | .sL => 64 | _ => 32
def cvDstBits : Cv → Nat
  | .hS => 16 | .bfS => 16 | .e4S => 8 | .e5S => 8 | .lS => 64 | _ => 32

/-- A conversion (R109 to R111) of a source code: the result in its own width, and flags. `rm` is RM with stochastic
read as nearest-even; `draw` the draw of a stochastic conversion. -/
def convert (cv : Cv) (rm : Nat) (draw : Option Nat) (x : Nat) : Nat × BitVec 7 :=
  match cvFormats cv with
  | some (d, s) =>
    match cvStochastic cv, draw with
    | true, some r => d.roundV 4 r (s.value x)
    | _, _ => d.roundV rm 0 (s.value x)
  | none =>
    match cv with
    | .wS => let t := toInt rm 32 (fp32.value x); ((t.1 % 2 ^ 32).toNat, t.2)
    | .lS => let t := toInt rm 64 (fp32.value x); ((t.1 % 2 ^ 64).toNat, t.2)
    | .sW => fp32.roundV rm 0 (ofInt (BitVec.ofNat 32 x).toInt)
    | _ => fp32.roundV rm 0 (ofInt (BitVec.ofNat 64 x).toInt)

/-- fclass (R112). -/
def classOf (x : Nat) : Word :=
  match fp32.value x with
  | .nan s => if s then 0x100 else 0x200
  | .inf n => if n then 1 else 0x80
  | .num n m _ =>
    if m = 0 then (if n then 8 else 0x10)
    else if x % 2 ^ 31 < 2 ^ 23 then (if n then 4 else 0x20)
    else if n then 2 else 0x40

/-- Whether an instruction, at the focus h, sends its spawn: every operand has come, none is null, the predicate is on
(R255). None where they have not all come. -/
def Here.spawns (h : Here) (clk : Nat) : Option Bool :=
  if h.e.phase == .done || h.arrived clk then some (h.pOn && h.a.isSome && h.bb.isSome) else none

/-- The draws an instruction makes (R109, R132, R156, R255, R331); none where a spawn's operands have not come. -/
def Here.drawCount (h : Here) (clk : Nat) : Option Nat :=
  match h.e.insn.row with
  | .fcvt => some (match Cv.ofCode h.fn with | some cv => if cvStochastic cv && h.ctx.stochastic then 1 else 0 | none => 0)
  | .vcvt => some (match Cv.ofCode h.fn with | some cv => if cvStochastic cv && h.ctx.stochastic then 16 else 0 | none => 0)
  | .mstBf => some (if h.ctx.stochastic then 1024 else 0)
  | .spawn => (h.spawns clk).map fun b => if b then 1 else 0
  | .spawnw => (h.spawns clk).map fun b => if b then 1 else 0
  | _ => some 0

/-- The draws made by the instructions of indices below i, in index order (R132). -/
def Here.drawsBelow (h : Here) (clk : Nat) : Nat → Option Nat
  | 0 => some 0
  | i + 1 => match Here.drawsBelow h clk i, h.b.body[i]? with
    | some n, some e => (Here.drawCount { h with i := i, e := e } clk).map (n + ·)
    | some n, none => some n
    | none, _ => none

/-- STATE before the draws of the instruction at h. -/
def Here.lfsrAt (h : Here) (clk : Nat) : Word := drawStates h.ctx.lfsr ((h.drawsBelow clk h.i).getD 0)

/-- A drawing form is held until the draws before it are known (R132). -/
def drawReady (h : Here) (s : State) : Bool := (h.drawsBelow s.cycle h.i).isSome

end Sys2Proof.Machine
end

