-- ==== Sys2Proof/Machine/Scalar.lean ====
section
/-!
DEFINITION. Machine/Scalar: immediates and moves (R91), frames (R102), opx (R48), integer and address arithmetic (R92 to
R95), predicates (R96, R97), scalar floating point (R103 to R113).
-/
namespace Sys2Proof.Machine

/-! ## Block forms -/

/-- movi (R91). -/
def execMovi (s : State) : Out := fireInt .movi 1 (fun h _ _ _ => h.imm16) s
/-- movi.l (R91). -/
def execMoviL (s : State) : Out := fireInt .moviL 1 (fun h _ _ _ => h.e.insn.x.imm.signExtend 64) s
/-- movl (R47, R91). -/
def execMovl (s : State) : Out := fireInt .movl 1 (fun h _ _ _ => h.e.insn.x.lit) s

/-- mov: a as it is, scalar or vector (R85, R91). -/
def execMov (s : State) : Out :=
  s.fires .mov always fun h s => if h.pOn then s.result h (h.tok .a) .null 1 else s.result h .null .null 1

/-- null: a null whatever its PM (R91). -/
def execNull (s : State) : Out := s.fires .null always fun h s => s.result h .null .null 1

/-- opx carries c to the three-input form before it and takes no issue cycle (R48). -/
def execOpx (s : State) : Out := s.fires .opx always fun h s => s.phase h fun e => { e with phase := .done, doneAt := s.cycle }

/-- n of enter and leave (R102). -/
def Here.frame (h : Here) : Word := BitVec.ofNat 64 (16 * (h.fn + 1))

/-- enter: a − n against sr.stklim as the block began (R10, R102). -/
def execEnter (s : State) : Out :=
  s.fires .enter always fun h s =>
    match h.pOn, h.a with
    | true, some a =>
      let v := a - h.frame
      if v.toNat < h.ctx.stklim.toNat then s.raise h 5 v else s.result h (.sc v) .null 1
    | _, _ => s.result h .null .null 1

/-- leave: a + n (R102). -/
def execLeave (s : State) : Out := fireInt .leave 1 (fun h a _ _ => a + h.frame) s

/-! ## Integer forms (Table 5.4) -/

/-- The low 32 bits sign-extended. -/
def sx32 (v : Word) : Word := (v.extractLsb' 0 32).signExtend 64
/-- Clamps an integer to the signed 64-bit range. -/
def clampS (x : Int) : Word := BitVec.ofInt 64 (max (-(2 ^ 63)) (min (2 ^ 63 - 1) x))
/-- Clamps an integer to the unsigned 64-bit range. -/
def clampU (x : Int) : Word := BitVec.ofInt 64 (max 0 (min (2 ^ 64 - 1) x))

def execAdd (s : State) : Out := fireInt .add 1 (fun _ a b _ => a + b) s
def execSub (s : State) : Out := fireInt .sub 1 (fun _ a b _ => a - b) s
def execNeg (s : State) : Out := fireInt .neg 1 (fun _ a _ _ => 0 - a) s
def execAddW (s : State) : Out := fireInt .addW 1 (fun _ a b _ => sx32 (a + b)) s
def execSubW (s : State) : Out := fireInt .subW 1 (fun _ a b _ => sx32 (a - b)) s
def execAddsS (s : State) : Out := fireInt .addsS 1 (fun _ a b _ => clampS (a.toInt + b.toInt)) s
def execSubsS (s : State) : Out := fireInt .subsS 1 (fun _ a b _ => clampS (a.toInt - b.toInt)) s
def execAddsU (s : State) : Out := fireInt .addsU 1 (fun _ a b _ => clampU (a.toNat + b.toNat)) s
def execSubsU (s : State) : Out := fireInt .subsU 1 (fun _ a b _ => clampU ((a.toNat : Int) - b.toNat)) s
def execAddi (s : State) : Out := fireInt .addi 1 (fun h a _ _ => a + h.imm16) s

def execMul (s : State) : Out := fireInt .mul 3 (fun _ a b _ => a * b) s
def execMulhS (s : State) : Out := fireInt .mulhS 3 (fun _ a b _ => BitVec.ofInt 64 (a.toInt * b.toInt / 2 ^ 64)) s
def execMulhU (s : State) : Out := fireInt .mulhU 3 (fun _ a b _ => BitVec.ofNat 64 (a.toNat * b.toNat / 2 ^ 64)) s
def execMulW (s : State) : Out := fireInt .mulW 3 (fun _ a b _ => sx32 (a * b)) s

/-- Signed division (R93). -/
def divS (a b : Word) : Word := if b = 0 then BitVec.allOnes 64 else BitVec.ofInt 64 (a.toInt.tdiv b.toInt)
/-- Signed remainder (R93). -/
def remS (a b : Word) : Word := if b = 0 then a else BitVec.ofInt 64 (a.toInt.tmod b.toInt)
/-- Unsigned division (R93). -/
def divU (a b : Word) : Word := if b = 0 then BitVec.allOnes 64 else BitVec.ofNat 64 (a.toNat / b.toNat)
/-- Unsigned remainder (R93). -/
def remU (a b : Word) : Word := if b = 0 then a else BitVec.ofNat 64 (a.toNat % b.toNat)

def execDivS (s : State) : Out := fireInt .divS 24 (fun _ a b _ => divS a b) s
def execDivU (s : State) : Out := fireInt .divU 24 (fun _ a b _ => divU a b) s
def execRemS (s : State) : Out := fireInt .remS 24 (fun _ a b _ => remS a b) s
def execRemU (s : State) : Out := fireInt .remU 24 (fun _ a b _ => remU a b) s

def execAnd (s : State) : Out := fireInt .and 1 (fun _ a b _ => a &&& b) s
def execOr (s : State) : Out := fireInt .or 1 (fun _ a b _ => a ||| b) s
def execXor (s : State) : Out := fireInt .xor 1 (fun _ a b _ => a ^^^ b) s
def execAndn (s : State) : Out := fireInt .andn 1 (fun _ a b _ => a &&& ~~~b) s
def execOrn (s : State) : Out := fireInt .orn 1 (fun _ a b _ => a ||| ~~~b) s
def execXnor (s : State) : Out := fireInt .xnor 1 (fun _ a b _ => ~~~(a ^^^ b)) s
def execNot (s : State) : Out := fireInt .not 1 (fun _ a _ _ => ~~~a) s
def execAndi (s : State) : Out := fireInt .andi 1 (fun h a _ _ => a &&& h.imm16) s
def execOri (s : State) : Out := fireInt .ori 1 (fun h a _ _ => a ||| h.imm16) s
def execXori (s : State) : Out := fireInt .xori 1 (fun h a _ _ => a ^^^ h.imm16) s

/-- Shift count b AND 63. -/
def cnt (b : Word) : Nat := b.toNat % 64
/-- Shift count of an immediate: imm 5:0. -/
def Here.cntI (h : Here) : Nat := h.e.insn.x.imm.toNat % 64

def execShl (s : State) : Out := fireInt .shl 1 (fun _ a b _ => a <<< cnt b) s
def execShr (s : State) : Out := fireInt .shr 1 (fun _ a b _ => a >>> cnt b) s
def execSar (s : State) : Out := fireInt .sar 1 (fun _ a b _ => a.sshiftRight (cnt b)) s
def execRol (s : State) : Out := fireInt .rol 1 (fun _ a b _ => a.rotateLeft (cnt b)) s
def execRor (s : State) : Out := fireInt .ror 1 (fun _ a b _ => a.rotateRight (cnt b)) s
def execShli (s : State) : Out := fireInt .shli 1 (fun h a _ _ => a <<< h.cntI) s
def execShri (s : State) : Out := fireInt .shri 1 (fun h a _ _ => a >>> h.cntI) s
def execSari (s : State) : Out := fireInt .sari 1 (fun h a _ _ => a.sshiftRight h.cntI) s
def execRoli (s : State) : Out := fireInt .roli 1 (fun h a _ _ => a.rotateLeft h.cntI) s
def execRori (s : State) : Out := fireInt .rori 1 (fun h a _ _ => a.rotateRight h.cntI) s

/-- Zeros above the highest 1 among the low n bits (R92). -/
def leadZeros (v : Word) : Nat → Nat
  | 0 => 0
  | n + 1 => if v.getLsbD n then 0 else 1 + leadZeros v n
/-- Zeros below the lowest 1 from bit i on, over n bits (R92). -/
def trailZeros (v : Word) (i : Nat) : Nat → Nat
  | 0 => 0
  | n + 1 => if v.getLsbD i then 0 else 1 + trailZeros v (i + 1) n
/-- Number of 1 bits among the low n (R92). -/
def ones (v : Word) : Nat → Nat
  | 0 => 0
  | n + 1 => (if v.getLsbD n then 1 else 0) + ones v n
/-- Byte order reversed. -/
def swapBytes (v : Word) : Word :=
  byteOf v 0 ++ byteOf v 1 ++ byteOf v 2 ++ byteOf v 3 ++ byteOf v 4 ++ byteOf v 5 ++ byteOf v 6 ++ byteOf v 7

def execClz (s : State) : Out := fireInt .clz 1 (fun _ a _ _ => BitVec.ofNat 64 (leadZeros a 64)) s
def execCtz (s : State) : Out := fireInt .ctz 1 (fun _ a _ _ => BitVec.ofNat 64 (trailZeros a 0 64)) s
def execPopc (s : State) : Out := fireInt .popc 1 (fun _ a _ _ => BitVec.ofNat 64 (ones a 64)) s
def execBrev (s : State) : Out := fireInt .brev 1 (fun _ a _ _ => a.reverse) s
def execBswap (s : State) : Out := fireInt .bswap 1 (fun _ a _ _ => swapBytes a) s
def execSextB (s : State) : Out := fireInt .sextB 1 (fun _ a _ _ => (a.extractLsb' 0 8).signExtend 64) s
def execSextH (s : State) : Out := fireInt .sextH 1 (fun _ a _ _ => (a.extractLsb' 0 16).signExtend 64) s
def execSextW (s : State) : Out := fireInt .sextW 1 (fun _ a _ _ => (a.extractLsb' 0 32).signExtend 64) s
def execZextB (s : State) : Out := fireInt .zextB 1 (fun _ a _ _ => (a.extractLsb' 0 8).zeroExtend 64) s
def execZextH (s : State) : Out := fireInt .zextH 1 (fun _ a _ _ => (a.extractLsb' 0 16).zeroExtend 64) s
def execZextW (s : State) : Out := fireInt .zextW 1 (fun _ a _ _ => (a.extractLsb' 0 32).zeroExtend 64) s

/-- pos and the shortened length L of a bit field (R94). -/
def Here.pos (h : Here) : Nat := h.e.insn.x.imm.toNat % 64
def Here.len (h : Here) : Nat := min (h.e.insn.x.imm.toNat / 64 % 64 + 1) (64 - h.pos)
/-- L ones. -/
def lowMask (l : Nat) : Word := BitVec.ofNat 64 (2 ^ l - 1)
/-- bfx.u (R94). -/
def bfxU (a : Word) (pos l : Nat) : Word := (a >>> pos) &&& lowMask l
/-- bfx.s (R94). -/
def bfxS (a : Word) (pos l : Nat) : Word :=
  let v := bfxU a pos l
  if v.getLsbD (l - 1) then v ||| ~~~lowMask l else v
/-- bfi (R94). -/
def bfi (a b : Word) (pos l : Nat) : Word :=
  let m := lowMask l <<< pos
  (a &&& ~~~m) ||| ((b <<< pos) &&& m)

def execBfxU (s : State) : Out := fireInt .bfxU 1 (fun h a _ _ => bfxU a h.pos h.len) s
def execBfxS (s : State) : Out := fireInt .bfxS 1 (fun h a _ _ => bfxS a h.pos h.len) s
def execBfi (s : State) : Out := fireInt .bfi 1 (fun h a b _ => bfi a b h.pos h.len) s

def execMinS (s : State) : Out := fireInt .minS 1 (fun _ a b _ => if b.slt a then b else a) s
def execMaxS (s : State) : Out := fireInt .maxS 1 (fun _ a b _ => if a.slt b then b else a) s
def execMinU (s : State) : Out := fireInt .minU 1 (fun _ a b _ => if b.ult a then b else a) s
def execMaxU (s : State) : Out := fireInt .maxU 1 (fun _ a b _ => if a.ult b then b else a) s

/-- An integer condition (R95, Table 3.7). -/
def ccHolds (c : Cc) (a b : Word) : Bool :=
  match c with
  | .eq => a == b
  | .ne => a != b
  | .ltS => a.slt b
  | .leS => !b.slt a
  | .gtS => b.slt a
  | .geS => !a.slt b
  | .ltU => a.ult b
  | .leU => !b.ult a
  | .gtU => b.ult a
  | .geU => !a.ult b
  | .tst => a &&& b != 0
  | .tstn => a &&& b == 0

/-- A truth value as 1 or 0. -/
def bit (b : Bool) : Word := if b then 1 else 0
/-- The condition of an FN (R95): every FN of the form is one. -/
def Here.cond (h : Here) (a b : Word) : Word := match Cc.ofCode h.fn with | some c => bit (ccHolds c a b) | none => 0

def execCmp (s : State) : Out := fireInt .cmp 1 (fun h a b _ => h.cond a b) s
def execCmpi (s : State) : Out := fireInt .cmpi 1 (fun h a _ _ => h.cond a h.imm16) s

/-! ## Predicates (Table 5.5) -/

/-- sel: a if bit 0 of c is 1, else b; each of a, b and c must be non-null (R97). -/
def execSel (s : State) : Out := fireInt .sel 1 (fun _ a b c => if c.getLsbD 0 then a else b) s
def execPand (s : State) : Out := fireInt .pand 1 (fun _ a b _ => (a &&& b) &&& 1) s
def execPor (s : State) : Out := fireInt .por 1 (fun _ a b _ => (a ||| b) &&& 1) s
def execPxor (s : State) : Out := fireInt .pxor 1 (fun _ a b _ => (a ^^^ b) &&& 1) s
def execPnot (s : State) : Out := fireInt .pnot 1 (fun _ a _ _ => ~~~a &&& 1) s
/-- packp k (R96, R97). -/
def packp (a b : Word) (k : Nat) : Word := (a &&& ~~~((1 : Word) <<< k)) ||| ((b &&& 1) <<< k)
def execPackp (s : State) : Out := fireInt .packp 1 (fun h a b _ => packp a b h.fn) s
def execUnpkp (s : State) : Out := fireInt .unpkp 1 (fun h a _ _ => (a >>> h.fn) &&& 1) s
def execAddsc (s : State) : Out := fireInt .addsc 1 (fun h a b _ => a + (b <<< h.fn)) s

/-! ## Scalar floating point (R103 to R113) -/

/-- Bits 31:0 of an operand (R103). -/
def lo32 (v : Word) : Nat := v.toNat % 2 ^ 32
/-- The FP32 value in an operand. -/
def fv (v : Word) : FV := fp32.value (lo32 v)
/-- A scalar FP form: an FP32 result with bits 63:32 clear, and flags (R103). -/
def fireFp (row : Instr) (lat : Nat) (f : Nat → Word → Word → Word → Nat × BitVec 7) (s : State) : Out :=
  fireScalar row lat (fun h a b c => (BitVec.ofNat 64 (f h.ctx.rm a b c).1, (f h.ctx.rm a b c).2)) s

def execFadd (s : State) : Out := fireFp .fadd 4 (fun rm a b _ => fp32.add rm (fv a) (fv b)) s
def execFsub (s : State) : Out := fireFp .fsub 4 (fun rm a b _ => fp32.add rm (fv a) (fv b).neg) s
def execFmul (s : State) : Out := fireFp .fmul 4 (fun rm a b _ => fp32.mul rm (fv a) (fv b)) s
def execFdiv (s : State) : Out := fireFp .fdiv 14 (fun rm a b _ => fp32.div rm (fv a) (fv b)) s
def execFmin (s : State) : Out := fireFp .fmin 4 (fun _ a b _ => fp32.minmax false (lo32 a) (lo32 b)) s
def execFmax (s : State) : Out := fireFp .fmax 4 (fun _ a b _ => fp32.minmax true (lo32 a) (lo32 b)) s
def execFsqrt (s : State) : Out := fireFp .fsqrt 14 (fun rm a _ _ => fp32.sqrt rm (fv a)) s
def execFabs (s : State) : Out := fireInt .fabs 1 (fun _ a _ _ => a &&& 0x7FFFFFFF) s
def execFneg (s : State) : Out := fireInt .fneg 1 (fun _ a _ _ => (a &&& 0xFFFFFFFF) ^^^ 0x80000000) s
def execFcpys (s : State) : Out := fireInt .fcpys 1 (fun _ a b _ => (a &&& 0x7FFFFFFF) ||| (b &&& 0x80000000)) s

def execFma (s : State) : Out := fireFp .fma 4 (fun rm a b c => fp32.fma rm (fv a) (fv b) (fv c)) s
def execFms (s : State) : Out := fireFp .fms 4 (fun rm a b c => fp32.fma rm (fv a) (fv b) (fv c).neg) s
def execFnma (s : State) : Out := fireFp .fnma 4 (fun rm a b c => fp32.fma rm (fv a).neg (fv b) (fv c).neg) s
def execFnms (s : State) : Out := fireFp .fnms 4 (fun rm a b c => fp32.fma rm (fv a).neg (fv b) (fv c)) s

/-- fcmp.fc (R108). -/
def execFcmp (s : State) : Out :=
  fireScalar .fcmp 1 (fun h a b _ => match Fc.ofCode h.fn with
    | some c => (bit (fcHolds c (fv a) (fv b)).1, (fcHolds c (fv a) (fv b)).2)
    | none => (0, 0)) s

/-- The result word of a scalar conversion: INT32 is sign-extended (Table 5.9). -/
def cvWord (cv : Cv) (x : Nat) : Word := if cv = .wS then sx32 (BitVec.ofNat 64 x) else BitVec.ofNat 64 x

/-- fcvt.cv (R109 to R111). -/
def execFcvt (s : State) : Out :=
  s.fires .fcvt drawReady fun h t =>
    match Cv.ofCode h.fn, h.pOn, h.a with
    | some cv, true, some a =>
      let d := if cvStochastic cv && h.ctx.stochastic then some (drawBits (drawState (h.lfsrAt s.cycle))) else none
      let r := convert cv h.ctx.rm d (a.toNat % 2 ^ cvSrcBits cv)
      (t.flag h r.2).result h (.sc (cvWord cv r.1)) .null 3
    | _, _, _ => t.result h .null .null 3

def execFclass (s : State) : Out := fireInt .fclass 1 (fun _ a _ _ => classOf (lo32 a)) s

/-- fseed (R113): at commit sr.lfsr := bits 31:0 of a, or 1. -/
def execFseed (s : State) : Out :=
  s.fires .fseed always fun h s =>
    match h.pOn, h.a with
    | true, some a => (s.act h (.fseed (cleanLfsr a))).result h .null .null 1
    | _, _ => s.result h .null .null 1

end Sys2Proof.Machine
end

