-- ==== Sys2Proof/Machine/Exits.lean ====
section
/-!
DEFINITION. Machine/Exits: the exit forms (R26, R51, R98 to R101, R364, R365): each records the exit it takes in its
block, whose commit has the exit's side effects.
-/
namespace Sys2Proof.Machine

/-- The block after this one in sequence: L + 64 × (LNC + 1) (R66, R100). -/
def Block.nextSeq (b : Block) : Word := b.addr + BitVec.ofNat 64 (64 * (b.lnc + 1))

/-- After an exit has emitted a null: when every exit has, EXIT_NONE (R26, R30). -/
def State.exitNone (s : State) (h : Here) : State :=
  match (s.slot h.c h.k).blk with
  | none => s
  | some b =>
    if b.exits.isEmpty && b.allDone (fun e _ => e.insn.exitNo.isSome) then s.modBlk h.c h.k fun b => b.found s.cycle h.i ⟨7, 0⟩ else s

/-- An exit that emits a null (R99). -/
def State.exitNull (s : State) (h : Here) : State := (s.result h .null .null 1).exitNone h

/-- The exit of a block becomes that of index i, in a clk. -/
def Block.exitTo (b : Block) (clk i : Nat) (next : Word) : Block := { b with exits := [(i, next)], exitAt := clk }

/-- An exit that emits a value (R26): the block's next address. A second one is EXIT_CONFLICT; the first is taken, and of two
in one clk that of the lower index (R30). It settles in the clk after it fires (R87). -/
def State.exitValue (s : State) (h : Here) (next : Word) : State :=
  match h.b.exits with
  | [] => (s.modBlk h.c h.k fun b => b.exitTo s.cycle h.i next).result h .null .null 2
  | x :: _ => (s.modBlk h.c h.k fun b => if b.exitAt = s.cycle && h.i < x.1 then b.exitTo s.cycle h.i next else b).raise h 6 0

/-- A fault of an exit, which emits a null (R30). -/
def State.exitFault (s : State) (h : Here) (code : Nat) (val : Word) : State := (s.raise h code val).exitNone h

/-- An exit without a fault of its own (R99). -/
def fireExit (row : Instr) (next : Here → Word) (s : State) : Out :=
  s.fires row always fun h s => if h.pOn then s.exitValue h (next h) else s.exitNull h

/-- An exit to a register target; a target with any of bits 5:0 set raises ALIGNMENT (R51, R99). -/
def fireJump (row : Instr) (s : State) : Out :=
  s.fires row always fun h s =>
    match h.pOn, h.a with
    | true, some a => if a &&& 63 = 0 then s.exitValue h a else s.exitFault h 2 a
    | _, _ => s.exitNull h

/-- L + 64 × disp (R51). -/
def Here.dispTarget (h : Here) : Word := h.b.addr + (h.e.insn.x.imm.signExtend 64 <<< 6)

def execBr (s : State) : Out := fireExit .br Here.dispTarget s
def execCall (s : State) : Out := fireExit .call Here.dispTarget s
def execJmp (s : State) : Out := fireJump .jmp s
def execCallr (s : State) : Out := fireJump .callr s
def execRet (s : State) : Out := fireJump .ret s
/-- halt: no next block; the thread ends at commit (R101). -/
def execHalt (s : State) : Out := fireExit .halt (fun _ => 0) s
/-- svc and trap commit their block and stop the context after it; the resume address is the block in sequence (R364). -/
def execSvc (s : State) : Out := fireExit .svc (fun h => h.b.nextSeq) s
def execTrap (s : State) : Out := fireExit .trap (fun h => h.b.nextSeq) s

/-- The address of the RESUME word of a record. -/
def resumeVa (rec_ : Word) : Word := rec_ + 280

/-- eret (R365): privileged; needs a trap link, and its RESUME word translated with W. -/
def execEret (s : State) : Out :=
  s.fires .eret always fun h s =>
    if h.pOn then
      if !s.privileged h.ten then s.exitFault h 4 0
      else match h.ctx.link with
        | none => s.exitFault h 8 0
        | some r => match s.place (s.svten (s.partOf h.ten)) (resumeVa r) .store with
          | none => s.exitFault h 3 (resumeVa r)
          | some (pa, dom) => (s.act h (.eretFill (pa / 8) dom)).exitValue h 0
    else s.exitNull h

end Sys2Proof.Machine
end

