-- ==== Sys2Proof/Machine/Access.lean ====
section
/-!
DEFINITION. Machine/Access: how a form of a block reaches memory: its TLB, the stores it sees first (R24, R25), the L1
(R181, R242), requests to homes and walkers, and the settling of its stores.
-/
namespace Sys2Proof.Machine

/-! ## The L1 (R181) -/

/-- The data of an L1 line that hits for a tenant: its tag and epoch match (R181, R376). -/
def Core.l1Hit (k : Core) (t line : Nat) : Option (BitVec 1024) :=
  (k.l1.find? fun l => l.line == line && l.ten == t && l.epoch == k.epoch).map L1Line.data

/-- An access of a tenant to a set: lines of the set with another tag go; the line moves to the front (R181). -/
def Core.l1Access (k : Core) (t line : Nat) : Core :=
  let keep := k.l1.filter fun l => l.line % 128 != line % 128 || l.ten == t
  { k with l1 := keep.filter (·.line == line) ++ keep.filter (·.line != line) }

/-- Installs a line as the most recently used of its set of 4 ways (R181). -/
def Core.l1Install (k : Core) (t line : Nat) (d : BitVec 1024) : Core :=
  let k := k.l1Access t line
  let others := k.l1.filter fun l => l.line != line
  let set := (others.filter fun l => l.line % 128 == line % 128).take 3
  { k with l1 := ⟨line, d, t, k.epoch⟩ :: (set ++ others.filter fun l => l.line % 128 != line % 128) }

/-- Removes a line from a core's L1 (R242). -/
def Core.l1Drop (k : Core) (line : Nat) : Core := { k with l1 := k.l1.filter fun l => l.line != line }

/-- A core's copy of a line goes, and fills of it in flight are not to be installed (R183, R242). -/
def Core.spoil (k : Core) (line : Nat) : Core := { (k.l1Drop line) with fills := k.fills.map (Fill.seen fun n => n == line) }

/-- Writes over a line's data, in order. -/
def lineOver (ws : List Wr) (d : BitVec 1024) : BitVec 1024 := ws.foldl (fun d w => linePut d (w.word % 16) w.data w.mask) d

/-- A store of a tenant is an access to its set; it updates an L1 line that is present and allocates none (R181). -/
def Core.l1Store (k : Core) (t : Nat) (w : Wr) : Core :=
  let k := k.l1Access t (w.word / 16)
  { k with l1 := k.l1.map fun l => if l.line = w.word / 16 then { l with data := lineOver [w] l.data } else l }

/-! ## Stores a load sees (R24, R25) -/

/-- Writes over an aligned word, in order. -/
def overlay (ws : List Wr) (word : Nat) (v : Word) : Word :=
  ws.foldl (fun v w => if w.word = word then merge v w.data w.mask else v) v

/-- The bytes of a word that some write covers. -/
def coverOf (ws : List Wr) (word : Nat) : Byte :=
  ws.foldl (fun m w => if w.word = word then m ||| w.mask else m) 0

/-- The settled writes of the block's stores with an LSID below j, in LSID order (R24). -/
def Block.writesBelow (b : Block) (j : Nat) : List Wr :=
  (List.range j).flatMap fun n => match b.stores.find? (·.1 == n) with | some x => x.2.2 | none => []

/-! ## Translation of a form's addresses -/

/-- The answer for all addresses of a form, in order: their physical addresses, hints and domains; the first that fails;
the first that misses the TLB. -/
inductive XlAll where
  | ok (l : List (Nat × Nat × Nat))
  | fault (va : Word)
  | miss (va : Word)
deriving DecidableEq, Repr

/-- Translates addresses in order (R192, R208). -/
def State.xlateAll (s : State) (h : Here) (a : Acc) : List Word → XlAll
  | [] => .ok []
  | v :: vs => match s.xlate h.c h.ten h.b.bad v a with
    | .fault => .fault v
    | .miss => .miss v
    | .ok pa hint dom => match s.xlateAll h a vs with
      | .ok l => .ok ((pa, hint, dom) :: l)
      | x => x

/-- Sends a TLB miss to its walker: the instruction waits (R194). -/
def State.askWalk (s : State) (h : Here) (va : Word) : State :=
  let page := va.toNat / 65536
  (s.phase h fun e => { e with phase := .xlate, reqPage := page }).sendPkt (s.core h.c).tag (.walk h.c h.ten page)

/-- Goes on with the translations of a form's addresses: a fault is TRANSLATION with the address (R177), a miss waits. -/
def State.withPas (s : State) (h : Here) (a : Acc) (vas : List Word) (f : List (Nat × Nat × Nat) → State) : State :=
  match s.xlateAll h a vas with
  | .ok l => f l
  | .fault v => s.raise h 3 v
  | .miss v => s.askWalk h v

/-- The same for an exit. -/
def State.withPasExit (s : State) (h : Here) (a : Acc) (va : Word) (f : State) : State :=
  match s.xlate h.c h.ten h.b.bad va a with
  | .ok _ _ _ => f
  | .fault => s.exitFault h 3 va
  | .miss => s.askWalk h va

/-! ## Results of memory forms, and paired mode (R398) -/

/-- Results of a form that waits for a reply: the leading slot of a paired core puts them into the load-value queue. -/
def State.memResult (s : State) (h : Here) (p st : Tok) (lat : Nat) : State :=
  let s := s.result h p st lat
  if (s.core h.c).paired && h.k < 8 then s.modCore h.c fun k => { k with lvq := k.lvq ++ [(h.k, h.i, p, st)] } else s

/-- Whether the instruction stands in a trailing slot of a paired core. -/
def State.trails (s : State) (h : Here) : Bool := (s.core h.c).paired && 8 ≤ h.k

/-- The queued results of the leading slot for the instruction. -/
def State.lvqFor (s : State) (h : Here) : Option (Tok × Tok) :=
  ((s.core h.c).lvq.find? fun x => x.1 + 8 == h.k && x.2.1 == h.i).map (·.2.2)

/-- A form with a reply: a trailing slot reads its results from the load-value queue and makes no access. -/
def State.firesMem (s : State) (row : Instr) (ok : Here → State → Bool) (f : Here → State → State) : Out :=
  s.fires row (fun h s => if s.trails h then (s.lvqFor h).isSome else ok h s) fun h s =>
    if s.trails h then
      match s.lvqFor h with
      | some r =>
        let s := s.modCore h.c fun k => { k with lvq := k.lvq.filter fun x => !(x.1 + 8 == h.k && x.2.1 == h.i) }
        s.result h r.1 r.2 1
      | none => s
    else f h s

/-- The operands of the instruction at an index, with what its opx carries (R48). -/
def Block.operands (b : Block) (i : Nat) : List (Option Tok) :=
  let one (e : Entry) : List (Option Tok) := [e.a.map Arrival.tok, e.b.map Arrival.tok, e.p.map Arrival.tok]
  match b.body[i]? with
  | none => []
  | some e => one e ++ if e.insn.three then (match b.body[i + 1]? with | some o => one o | none => []) else []

/-- Whether the trailing slot of a paired core holds the same operands for an instruction (R398). -/
def State.pairAgrees (s : State) (h : Here) : Bool :=
  !(s.core h.c).paired || 8 ≤ h.k || (match (s.slot h.c (h.k + 8)).blk with
    | some b => b.addr == h.b.addr && b.operands h.i == h.b.operands h.i
    | none => false)

/-- Whether a store queue entry is a store. -/
def SqEnt.isStore (e : SqEnt) : Bool := match e.kind with | .st _ => true | .rel _ _ => true | _ => false
/-- Whether it is the mark of a fence. -/
def SqEnt.isMark (e : SqEnt) : Bool := match e.kind with | .mark _ => true | _ => false

/-- Whether a store queue entry that is still listed counts as performed at a scope: at the scope of its own slot once
queued, of its core once accepted (the L1 holds it, and reads that a replica serves see it: State.ownUnapplied), beyond only when it has
left the list. -/
def SqEnt.performedAt (e : SqEnt) (sc : Scope) : Bool :=
  match sc with
  | .slot => true
  | .core => e.phase == .accepted
  | _ => false

/-- Whether every store of a thread in its core's queue has been performed at a scope. -/
def State.drained (s : State) (c id : Nat) (sc : Scope) : Bool := (s.core c).sq.all fun e => e.ctx != id || e.performedAt sc

/-- What a thread's queue holds ahead of a fence mark of its own has been performed at the mark's scope (R214). -/
def marksClear : List SqEnt → List SqEnt → Bool
  | _, [] => true
  | ahead, e :: es =>
    (match e.kind with | .mark sc => ahead.all fun a => a.performedAt sc | _ => true) && marksClear (ahead ++ [e]) es

/-- Whether the thread's stores before a fence.rel or fence.full that stands before the instruction, in this block or an earlier
one, have been performed at the fence's scope, as an access that counts as a store needs (R214). -/
def State.fencesClear (s : State) (h : Here) : Bool :=
  let mine := (s.core h.c).sq.filter fun e => e.ctx == h.ctx.id
  marksClear [] mine && h.b.rels.all fun r =>
    !(r.1 < h.lsid && h.b.stores.any fun x => x.1 == r.1 && x.2.2.isEmpty) || mine.all fun e => e.performedAt r.2

/-- When a committing operation that has passed its checks may send its request: R29, the fences before it (R214), and on a
paired core both slots have reached it (R32, R398). -/
def commitReady (h : Here) (s : State) : Bool := h.clear29 s.cycle && s.pairAgrees h && s.fencesClear h

/-! ## Loads -/

/-- Latency of a load served by the L1 or the thread's own stores (Table 10.3). -/
def l1Lat : Nat := 4

/-- The bytes of a word from byte i on, n of them, as a number. -/
def partWord (v : Word) (i n : Nat) : Word := (v >>> (8 * i)) &&& lowMask (8 * n)

/-- The mask of n bytes from byte i on. -/
def byteMask (i n : Nat) : Byte := BitVec.ofNat 8 ((2 ^ n - 1) * 2 ^ i)

/-- Elements of a load: physical address, size (never across a word), hint, domain. -/
abbrev Elems := List (Nat × Nat × Nat × Nat)

/-- Words of the elements that neither arrived, nor the L1, nor the thread's own stores give, and the words known. -/
structure Known where
  ws : List (Nat × Word)      -- known words, before the block's and the thread's own stores
  missing : List (Nat × Nat × Nat)  -- word, hint, domain
deriving DecidableEq, Repr

/-- Finds a word by number. -/
def wordIn (l : List (Nat × Word)) (w : Nat) : Option Word := (l.find? (·.1 == w)).map (·.2)

/-- Whether a plain load looks in the L1: pages hinted NC or REPL and vault words bypass it (R181, R184, R251). -/
def cached (pa hint : Nat) : Bool := hint != 0 && hint != 5 && isStack pa

/-- What is known of the elements' words: `strong` accesses, and pages hinted NC or REPL, do not look in the L1 (R242,
R251). -/
def State.known (s : State) (h : Here) (own : List Wr) (strong : Bool) : Elems → Known
  | [] => ⟨[], []⟩
  | (pa, n, hint, dom) :: es =>
    let r := State.known s h own strong es
    let w := pa / 8
    let m := byteMask (pa % 8) n
    if (wordIn r.ws w).isSome || r.missing.any (·.1 == w) && (coverOf own w &&& m) != m then r
    else if (wordIn h.e.words w).isSome then ⟨(w, (wordIn h.e.words w).getD 0) :: r.ws, r.missing⟩
    else if (coverOf own w &&& m) = m then r
    else match (if strong || !cached pa hint then none else (s.core h.c).l1Hit h.ten (w / 16)) with
      | some d => ⟨(w, lineWord d (w % 16)) :: r.ws, r.missing⟩
      | none => ⟨r.ws, (w, hint, dom) :: r.missing⟩

/-- The values of the elements: known words under the thread's own stores. -/
def valuesOf (ws : List (Nat × Word)) (own : List Wr) (es : Elems) : List Word :=
  es.map fun e => partWord (overlay own (e.1 / 8) ((wordIn ws (e.1 / 8)).getD 0)) (e.1 % 8) e.2.1

/-- Notes that a load has its value of some lines (R33). -/
def Block.has (b : Block) (j : Nat) (lines : List Nat) : Block :=
  { b with loads := b.loads ++ (lines.map fun l => (j, l)).filter fun x => !b.loads.contains x }

/-- Sends the reads of missing words, one per line: RD, or SA for an acquiring load (R233, R243). `vas` gives the virtual address
of the first element in a line. -/
def State.askLines (s : State) (h : Here) (acq : Option Scope) (vas : Nat → Word) : List Nat → List (Nat × Nat × Nat) → State
  | [], _ => s
  | l :: ls, ms =>
    let mine := ms.filter fun m => m.1 / 16 == l
    let hd := mine.headD (0, 0, 0)
    let ev : PEv := { code := if acq.isSome then 2 else 0, line := l, req := h.c, hint := hd.2.1, who := .entry h.c h.k h.b.rid h.i,
                      words := mine.map (·.1), reply := none, sq := none, va := vas l, dom := hd.2.2, ten := h.ten }
    let s := s.modCore h.c fun k => { k with fills := k.fills ++ [{ rid := h.b.rid, idx := h.i, line := l, ten := h.ten, stale := acq.isSome }] }
    State.askLines { s with peq := s.peq ++ [ev] } h acq vas ls ms

/-- Lines of words, each once. -/
def linesOf : List Nat → List Nat
  | [] => []
  | w :: ws => let r := linesOf ws; if r.contains (w / 16) then r else (w / 16) :: r

/-- Line requests that a form may have outstanding: 8 for mgath (R312); a line per element at most for the others. -/
def Here.lineLimit (h : Here) : Nat := if h.e.insn.row = .mgath then 8 else 4096

/-- A load of elements (R24, R25, R180, R181): with every word known its value is formed and given to f; otherwise the
missing words are asked for, at most `lineLimit` lines at a time, and the instruction waits; what it has counts for R33 from now on. `j`
is the LSID below which the block's stores are seen; `vas` are the elements' virtual addresses. -/
def State.loadElems (s : State) (h : Here) (acq : Option Scope) (j : Nat) (vas : List Word) (es : Elems)
    (f : State → List Word → State) : State :=
  let queued := if acq.isSome then [] else if h.e.phase == .waiting || h.e.own.isEmpty then s.ownWrites h.c h.ctx.id else h.e.own
  let own := queued ++ h.b.writesBelow j
  let k := s.known h own acq.isSome es
  let s := es.foldl (fun s e => s.modCore h.c fun k =>
    if acq.isSome then k.l1Drop (e.1 / 128) else if cached e.1 e.2.2.1 then k.l1Access h.ten (e.1 / 128) else k) s
  if k.missing.isEmpty then
    let s := s.phase h fun e => { e with words := k.ws ++ e.words.filter (fun w => (wordIn k.ws w.1).isNone), own := queued, got := true }
    let lines := linesOf (es.map fun e => e.1 / 8)
    let s := s.modBlk h.c h.k fun b => b.has h.lsid lines
    f s (valuesOf k.ws own es)
  else
    let lines := (linesOf (k.missing.map (·.1))).take h.lineLimit
    let s := s.phase h fun e => { e with
      phase := .sent, early := h.early s.cycle, late := false, words := k.ws ++ e.words.filter (fun w => (wordIn k.ws w.1).isNone), own := queued,
      want := (k.missing.map (·.1)).filter fun w => lines.contains (w / 16) }
    let s := s.modBlk h.c h.k fun b => b.has h.lsid (linesOf (k.ws.map (·.1)))
    s.askLines h acq (fun l => (((es.zip vas).find? fun x => x.1.1 / 128 == l).map (·.2)).getD 0) lines k.missing

/-- Latency of a load that completes now: the L1's, or none for one that was waiting for its words. -/
def Here.loadLat (h : Here) : Nat := if h.e.words.isEmpty then l1Lat else 1

/-- When a load may go to memory: R24 and R33. An acquiring load, and one whose words came too early to be protected by an
invalidation, go after the acquires before them (R212). -/
def loadReady (h : Here) (s : State) : Bool :=
  h.b.storesBelow s.cycle h.lsid && h.strict33 s.cycle && (!(h.e.late || h.e.insn.isAcquire) || h.b.acquiresClear s.cycle h.i h.lsid)

/-- The words that a load takes only once its thread's queued stores to them are accepted: all of an acquiring load's (R233), and all of a
load's behind an acquire that is not complete, since no invalidation reaches what the queue gives (R33, R212). -/
def Here.awaits (h : Here) (clk : Nat) (acq : Bool) (es : Elems) : List Nat := if acq || h.early clk then es.map fun e => e.1 / 8 else []

/-- A load form over element addresses: alignment is checked before. -/
def State.loadForm (s : State) (h : Here) (acq : Option Scope) (els : List (Word × Nat)) (f : List Word → Tok) : State :=
  s.withPas h .load (els.map (·.1)) fun l =>
    let es : Elems := (l.zip els).map fun x => (x.1.1, x.2.2, x.1.2.1, x.1.2.2)
    s.strongReady h loadReady (h.awaits s.cycle acq.isSome es) fun s => s.loadElems h acq h.lsid (els.map (·.1)) es fun s vs => s.memResult h (f vs) .null h.loadLat

/-! ## Stores -/

/-- Settles a store of the block (R24, R25): its writes wait for commit. -/
def State.settle (s : State) (h : Here) (rel : Option Scope) (ws : List Wr) : State :=
  s.modBlk h.c h.k fun b => { b with
    stores := b.stores ++ [(h.lsid, rel.isSome, ws)],
    rels := match rel with | some sc => b.rels ++ [(h.lsid, sc)] | none => b.rels }

/-- One write of n bytes of v at an address within a word. -/
def wrOf (pa : Nat) (va : Word) (hint dom : Nat) (v : Word) (n : Nat) : Wr :=
  ⟨pa / 8, v <<< (8 * (pa % 8)), byteMask (pa % 8) n, va, hint, dom⟩

end Sys2Proof.Machine
end

