-- ==== Sys2Proof/Machine/Vector.lean ====
section
/-!
DEFINITION. Machine/Vector: lanes, nulls and lane predicates (R140 to R142) and the vector forms (R145 to R159).
-/
namespace Sys2Proof.Machine

/-! ## Lanes -/

/-- Lane i of E bytes of a vector, as a number (R141). -/
def laneOf (v : Vec) (e i : Nat) : Nat := v.toNat / 2 ^ (8 * e * i) % 2 ^ (8 * e)
/-- Whether a lane is null: any of its bytes is (R140). -/
def laneNull (n : NullMask) (e i : Nat) : Bool := n.toNat / 2 ^ (e * i) % 2 ^ e != 0
/-- A lane as a signed number. -/
def sgn (e x : Nat) : Int := if x < 2 ^ (8 * e - 1) then x else (x : Int) - 2 ^ (8 * e)
/-- A number modulo 2^(8E). -/
def wrap (e : Nat) (x : Int) : Nat := (x % 2 ^ (8 * e)).toNat
/-- All ones in a lane, or zero. -/
def mask (e : Nat) (b : Bool) : Nat := if b then 2 ^ (8 * e) - 1 else 0

/-- A vector token from its lanes of E bytes, a missing one null, the bytes above them zero and not null. -/
def pack (e : Nat) (ls : List (Option Nat)) : Tok :=
  let v := ls.foldr (fun x a => a * 2 ^ (8 * e) + x.getD 0) 0
  let n := ls.foldr (fun x a => a * 2 ^ e + if x.isNone then 2 ^ e - 1 else 0) 0
  vecTok (BitVec.ofNat 512 v) (BitVec.ofNat 64 n)

/-- Whether the lane whose first byte is j is enabled and its predicate not null (R142). A null p enables none (R20). -/
def Here.laneOn (h : Here) (j : Nat) : Bool :=
  match h.e.insn.x.pm with
  | .always => true
  | pm =>
    match h.tok .p with
    | .vec v n => !n.getLsbD j && (v.getLsbD (8 * j) == (pm == .ifTrue))
    | _ => h.pOn

/-- The vector views of a, b and c; an unused slot has no null lane. -/
def Here.va (h : Here) : Vec × NullMask := if h.e.insn.uses .a then (h.tok .a).vector else (0, 0)
def Here.vb (h : Here) : Vec × NullMask := if h.e.insn.uses .b then (h.tok .b).vector else (0, 0)
def Here.vc (h : Here) : Vec × NullMask := if h.e.insn.three then h.tokC.vector else (0, 0)

/-- Whether R20 makes the whole instruction null: a scalar p that is off, or a whole null in a slot it uses. -/
def Here.dead (h : Here) (withC : Bool) : Bool :=
  (match h.e.insn.x.pm, h.tok .p with
    | .always, _ => false
    | _, .vec _ _ => false
    | _, _ => !h.pOn) ||
    (h.e.insn.uses .a && h.tok .a == .null) || (h.e.insn.uses .b && h.tok .b == .null) ||
    (withC && h.e.insn.three && h.tokC == .null)

/-- A vector form that is not made null as a whole (R20, R22). -/
def State.firesV (s : State) (row : Instr) (ok : Here → State → Bool) (lat : Nat) (f : Here → State → State) : Out :=
  s.fires row ok fun h s => if h.dead true then s.result h .null .null lat else f h s

/-- A lane form's lanes: none where disabled or null in an operand, else the value and flags of f (R22, R142). -/
def Here.lanes (h : Here) (e : Nat) (f : Nat → Nat → Nat → Nat × BitVec 7) : List (Option (Nat × BitVec 7)) :=
  let a := h.va
  let b := h.vb
  let c := h.vc
  (List.range (64 / e)).map fun i =>
    if h.laneOn (e * i) && !laneNull a.2 e i && !laneNull b.2 e i && !laneNull c.2 e i then
      some (f (laneOf a.1 e i) (laneOf b.1 e i) (laneOf c.1 e i))
    else none

/-- A vector form lane by lane (R22, R143). -/
def fireLanes (row : Instr) (lat : Nat) (e : Here → Nat) (f : Here → Nat → Nat → Nat → Nat × BitVec 7) (s : State) : Out :=
  s.firesV row always lat fun h s =>
    let l := h.lanes (e h) (f h)
    let fl := l.foldl (fun a x => match x with | some r => a ||| r.2 | none => a) (0 : BitVec 7)
    (s.flag h fl).result h (pack (e h) (l.map fun x => x.map (·.1))) .null lat

/-- Lane width of *W* and *T* (Table 8.1). -/
def Here.wE (h : Here) : Nat := 2 ^ (h.fn % 4)
def Here.tE (h : Here) : Nat := if h.fn % 4 = 0 then 4 else 2
/-- Format of *T*. -/
def Here.tF (h : Here) : Fmt := if h.fn % 4 = 0 then fp32 else if h.fn % 4 = 1 then fp16 else bf16

/-! ## Floating-point lanes (R145 to R147) -/

def execVfadd (s : State) : Out := fireLanes .vfadd 4 Here.tE (fun h a b _ => h.tF.add h.ctx.rm (h.tF.value a) (h.tF.value b)) s
def execVfsub (s : State) : Out := fireLanes .vfsub 4 Here.tE (fun h a b _ => h.tF.add h.ctx.rm (h.tF.value a) (h.tF.value b).neg) s
def execVfmul (s : State) : Out := fireLanes .vfmul 4 Here.tE (fun h a b _ => h.tF.mul h.ctx.rm (h.tF.value a) (h.tF.value b)) s
def execVfdiv (s : State) : Out := fireLanes .vfdiv 14 Here.tE (fun h a b _ => h.tF.div h.ctx.rm (h.tF.value a) (h.tF.value b)) s
def execVfmin (s : State) : Out := fireLanes .vfmin 4 Here.tE (fun h a b _ => h.tF.minmax false a b) s
def execVfmax (s : State) : Out := fireLanes .vfmax 4 Here.tE (fun h a b _ => h.tF.minmax true a b) s
def execVfabs (s : State) : Out := fireLanes .vfabs 1 Here.tE (fun h a _ _ => (a % h.tF.signBit, 0)) s
def execVfneg (s : State) : Out :=
  fireLanes .vfneg 1 Here.tE (fun h a _ _ => (if a < h.tF.signBit then a + h.tF.signBit else a - h.tF.signBit, 0)) s

/-- The four fused forms (R146). -/
def vfmaLane (h : Here) (np nc : Bool) (a b c : Nat) : Nat × BitVec 7 :=
  let x := h.tF.value a
  let z := h.tF.value c
  h.tF.fma h.ctx.rm (if np then x.neg else x) (h.tF.value b) (if nc then z.neg else z)

def execVfma (s : State) : Out := fireLanes .vfma 4 Here.tE (fun h => vfmaLane h false false) s
def execVfms (s : State) : Out := fireLanes .vfms 4 Here.tE (fun h => vfmaLane h false true) s
def execVfnma (s : State) : Out := fireLanes .vfnma 4 Here.tE (fun h => vfmaLane h true true) s
def execVfnms (s : State) : Out := fireLanes .vfnms 4 Here.tE (fun h => vfmaLane h true false) s

/-- vfcmp.fc.T (R147). -/
def execVfcmp (s : State) : Out :=
  fireLanes .vfcmp 1 Here.tE (fun h a b _ => match Fc.ofCode (h.fn / 4) with
    | some c => let r := fcHolds c (h.tF.value a) (h.tF.value b); (mask h.tE r.1, r.2)
    | none => (0, 0)) s

/-! ## Integer lanes (R148, R149) -/

/-- An integer lane form: no flag. -/
def fireILanes (row : Instr) (lat : Nat) (f : Nat → Nat → Nat → Nat) (s : State) : Out :=
  fireLanes row lat Here.wE (fun h a b _ => (f h.wE a b, 0)) s

/-- Clamps to the signed or unsigned range of a lane. -/
def satS (e : Nat) (x : Int) : Nat := wrap e (max (-(2 ^ (8 * e - 1))) (min (2 ^ (8 * e - 1) - 1) x))
def satU (e : Nat) (x : Int) : Nat := (max 0 (min (2 ^ (8 * e) - 1) x)).toNat

def execVadd (s : State) : Out := fireILanes .vadd 1 (fun e a b => (a + b) % 2 ^ (8 * e)) s
def execVsub (s : State) : Out := fireILanes .vsub 1 (fun e a b => wrap e ((a : Int) - b)) s
def execVmul (s : State) : Out := fireILanes .vmul 3 (fun e a b => a * b % 2 ^ (8 * e)) s
def execVminS (s : State) : Out := fireILanes .vminS 1 (fun e a b => if sgn e b < sgn e a then b else a) s
def execVmaxS (s : State) : Out := fireILanes .vmaxS 1 (fun e a b => if sgn e a < sgn e b then b else a) s
def execVminU (s : State) : Out := fireILanes .vminU 1 (fun _ a b => min a b) s
def execVmaxU (s : State) : Out := fireILanes .vmaxU 1 (fun _ a b => max a b) s
def execVabsd (s : State) : Out := fireILanes .vabsd 1 (fun e a b => (sgn e a - sgn e b).natAbs) s
def execVaddsS (s : State) : Out := fireILanes .vaddsS 1 (fun e a b => satS e (sgn e a + sgn e b)) s
def execVaddsU (s : State) : Out := fireILanes .vaddsU 1 (fun e a b => satU e (a + b)) s
def execVsubsS (s : State) : Out := fireILanes .vsubsS 1 (fun e a b => satS e (sgn e a - sgn e b)) s
def execVsubsU (s : State) : Out := fireILanes .vsubsU 1 (fun e a b => satU e ((a : Int) - b)) s

/-- A bitwise form (E = 1). -/
def fireBits (row : Instr) (f : Byte → Byte → Byte) (s : State) : Out :=
  fireLanes row 1 (fun _ => 1) (fun _ a b _ => ((f (BitVec.ofNat 8 a) (BitVec.ofNat 8 b)).toNat, 0)) s

def execVand (s : State) : Out := fireBits .vand (· &&& ·) s
def execVor (s : State) : Out := fireBits .vor (· ||| ·) s
def execVxor (s : State) : Out := fireBits .vxor (· ^^^ ·) s
def execVandn (s : State) : Out := fireBits .vandn (fun a b => a &&& ~~~b) s
def execVnot (s : State) : Out := fireBits .vnot (fun a _ => ~~~a) s

def execVshl (s : State) : Out := fireILanes .vshl 1 (fun e a b => a * 2 ^ (b % (8 * e)) % 2 ^ (8 * e)) s
def execVshr (s : State) : Out := fireILanes .vshr 1 (fun e a b => a / 2 ^ (b % (8 * e))) s
def execVsar (s : State) : Out := fireILanes .vsar 1 (fun e a b => wrap e (sgn e a / 2 ^ (b % (8 * e)))) s

/-- A lane condition of vicmp (Table 8.5). -/
def vccHolds (c : Vcc) (e a b : Nat) : Bool :=
  match c with
  | .eq => a == b
  | .ne => a != b
  | .ltS => sgn e a < sgn e b
  | .leS => sgn e a ≤ sgn e b
  | .ltU => a < b
  | .leU => a ≤ b
  | .tst => a &&& b != 0

def execVicmp (s : State) : Out :=
  fireLanes .vicmp 1 Here.wE (fun h a b _ => match Vcc.ofCode (h.fn / 4) with
    | some c => (mask h.wE (vccHolds c h.wE a b), 0)
    | none => (0, 0)) s

/-- vmovi.W v: v sign-extended to 8E bits in every lane (R149). -/
def execVmovi (s : State) : Out := fireLanes .vmovi 1 Here.wE (fun h _ _ _ => (wrap h.wE h.imm16.toInt, 0)) s

/-! ## Select and predicate vectors (R150, R151) -/

def execVsel (s : State) : Out := fireLanes .vsel 1 (fun _ => 1) (fun _ a b c => (if c % 2 = 1 then a else b, 0)) s

/-- A byte predicate form. -/
def firePred (row : Instr) (f : Bool → Bool → Bool) (s : State) : Out :=
  fireLanes row 1 (fun _ => 1) (fun _ a b _ => (mask 1 (f (a % 2 == 1) (b % 2 == 1)), 0)) s

def execVpand (s : State) : Out := firePred .vpand (· && ·) s
def execVpor (s : State) : Out := firePred .vpor (· || ·) s
def execVpxor (s : State) : Out := firePred .vpxor (· != ·) s
def execVpnot (s : State) : Out := firePred .vpnot (fun a _ => !a) s

/-- The present lanes of a with their numbers. -/
def Here.present (h : Here) (e : Nat) : List (Option Nat) := (h.lanes e fun a _ _ => (a, 0)).map fun x => x.map (·.1)

/-- A form with a scalar result over the present lanes of a: null when there is none (R142, R151, R152). -/
def fireReduce (row : Instr) (lat e : Nat) (f : Here → List (Option Nat) → Word × BitVec 7) (s : State) : Out :=
  s.firesV row always lat fun h s =>
    let l := h.present e
    if l.all Option.isNone then s.result h .null .null lat
    else (s.flag h (f h l).2).result h (.sc (f h l).1) .null lat

/-- Whether a present byte has bit 0 set. -/
def oddLane (x : Option Nat) : Bool := match x with | some v => v % 2 == 1 | none => false

def execVpcnt (s : State) : Out :=
  fireReduce .vpcnt 1 1 (fun _ l => (BitVec.ofNat 64 (l.filter oddLane).length, 0)) s
def execVpfirst (s : State) : Out :=
  fireReduce .vpfirst 1 1 (fun _ l => (BitVec.ofNat 64 ((l.findIdx? oddLane).getD 64), 0)) s

/-! ## Reductions (R139, R152) -/

/-- One level of the tree: pairs (0,1), (2,3) …; an absent input passes the other through. -/
def treeLevel (f : Nat → Nat → Nat × BitVec 7) : List (Option Nat) → List (Option Nat) × BitVec 7
  | some a :: some b :: t => let r := treeLevel f t; let x := f a b; (some x.1 :: r.1, x.2 ||| r.2)
  | some a :: none :: t => let r := treeLevel f t; (some a :: r.1, r.2)
  | none :: x :: t => let r := treeLevel f t; (x :: r.1, r.2)
  | l => (l, 0)

/-- The four levels over sixteen lanes (R139). -/
def tree16 (f : Nat → Nat → Nat × BitVec 7) (l : List (Option Nat)) : Nat × BitVec 7 :=
  let r1 := treeLevel f l
  let r2 := treeLevel f r1.1
  let r3 := treeLevel f r2.1
  let r4 := treeLevel f r3.1
  ((r4.1.headD none).getD 0, r1.2 ||| r2.2 ||| r3.2 ||| r4.2)

/-- An FP reduction: the result in bits 31:0. -/
def fireTree (row : Instr) (f : Nat → Nat → Nat → Nat × BitVec 7) (s : State) : Out :=
  fireReduce row 12 4 (fun h l => let r := tree16 (f h.ctx.rm) l; (BitVec.ofNat 64 r.1, r.2)) s

def execVredRsumF (s : State) : Out := fireTree .vredRsumF (fun rm a b => fp32.add rm (fp32.value a) (fp32.value b)) s
def execVredRmaxF (s : State) : Out := fireTree .vredRmaxF (fun _ a b => fp32.minmax true a b) s
def execVredRminF (s : State) : Out := fireTree .vredRminF (fun _ a b => fp32.minmax false a b) s

/-- An integer reduction of the present lanes, sign-extended. -/
def fireRedI (row : Instr) (e : Nat) (f : Int → Int → Int) (s : State) : Out :=
  fireReduce row 3 e (fun _ l =>
    let xs := l.filterMap fun x => x.map (sgn e)
    (BitVec.ofInt 64 (sgn e (wrap e (xs.tail.foldl f (xs.headD 0)))), 0)) s

def execVredRsumW (s : State) : Out := fireRedI .vredRsumW 4 (· + ·) s
def execVredRsumD (s : State) : Out := fireRedI .vredRsumD 8 (· + ·) s
def execVredRmaxW (s : State) : Out := fireRedI .vredRmaxW 4 max s
def execVredRminW (s : State) : Out := fireRedI .vredRminW 4 min s

/-! ## Moving lanes (R153 to R155) -/

/-- A form that takes each result lane of E bytes from some lane of a or b (false: a, true: b), or makes it zero; a lane
carries the null marks of the bytes it was taken from (R153). `extra i` are lanes null for another reason. -/
def fireMove (row : Instr) (e : Nat) (src : Here → Nat → Option (Bool × Nat)) (extra : Here → Nat → Bool) (s : State) : Out :=
  s.firesV row always 1 fun h s =>
    let a := h.va
    let b := h.vb
    let byte (i : Nat) : Option Nat :=
      let l := i / e
      if !h.laneOn (e * l) || extra h l then none
      else match src h l with
        | none => some 0
        | some (second, n) =>
          let x := if second then b else a
          let j := e * n + i % e
          if x.2.getLsbD j then none else some (laneOf x.1 1 j)
    s.result h (pack 1 ((List.range 64).map byte)) .null 1

/-- vperm: b picks a byte of a, or zero; a null b_i makes byte i null. -/
def execVperm (s : State) : Out :=
  fireMove .vperm 1 (fun h i => let x := laneOf h.vb.1 1 i; if 128 ≤ x then none else some (false, x % 64))
    (fun h i => h.vb.2.getLsbD i) s
/-- vshuf v. -/
def execVshuf (s : State) : Out :=
  fireMove .vshuf 4 (fun h i => some (false, 4 * (i / 4) + h.e.insn.x.imm.toNat / 4 ^ (i % 4) % 4)) (fun _ _ => false) s
/-- vrot n. -/
def execVrot (s : State) : Out :=
  fireMove .vrot 1 (fun h i => some (false, (i + h.e.insn.x.imm.toNat % 64) % 64)) (fun _ _ => false) s
def execVzipLo (s : State) : Out := fireMove .vzipLo 4 (fun _ i => some (i % 2 == 1, i / 2)) (fun _ _ => false) s
def execVzipHi (s : State) : Out := fireMove .vzipHi 4 (fun _ i => some (i % 2 == 1, i / 2 + 8)) (fun _ _ => false) s
def execVuzpEv (s : State) : Out := fireMove .vuzpEv 4 (fun _ i => some (8 ≤ i, 2 * (i % 8))) (fun _ _ => false) s
def execVuzpOd (s : State) : Out := fireMove .vuzpOd 4 (fun _ i => some (8 ≤ i, 2 * (i % 8) + 1)) (fun _ _ => false) s

/-- vbcast.W: lane 0 of a in every lane; a null lane 0 makes the result null (R154). -/
def execVbcast (s : State) : Out :=
  s.firesV .vbcast always 1 fun h s =>
    let a := h.va
    let e := h.wE
    s.result h (pack e ((List.range (64 / e)).map fun i =>
      if h.laneOn (e * i) && !laneNull a.2 e 0 then some (laneOf a.1 e 0) else none)) .null 1

/-- vext.W: a lane of a as a scalar; null when that lane is null or disabled, or b is null (R155). -/
def execVext (s : State) : Out :=
  s.firesV .vext always 3 fun h s =>
    let e := h.wE
    match (h.tok .b).scalar with
    | none => s.result h .null .null 3
    | some b =>
      let i := b.toNat % (64 / e)
      if h.laneOn (e * i) && !laneNull h.va.2 e i then s.result h (.sc (BitVec.ofNat 64 (laneOf h.va.1 e i))) .null 3
      else s.result h .null .null 3

/-- vins.W: a with one lane replaced by the low bits of c (R155). -/
def execVins (s : State) : Out :=
  s.fires .vins always fun h s =>
    let e := h.wE
    match (if h.dead false then none else (h.tok .b).scalar) with
    | none => s.result h .null .null 3
    | some b =>
      let n := b.toNat % (64 / e)
      let c := h.tokC.scalar.map fun v => v.toNat % 2 ^ (8 * e)
      s.result h (pack e ((List.range (64 / e)).map fun i =>
        if !h.laneOn (e * i) then none
        else if i = n then c
        else if laneNull h.va.2 e i then none else some (laneOf h.va.1 e i))) .null 3

/-! ## Changing width (R156 to R159) -/

/-- Elements of a conversion (Table 8.6). -/
def cvCount (cv : Cv) : Nat := match cv with | .lS => 8 | .sL => 8 | _ => 16

/-- A result element of E bytes from a source element of E' bytes; none where null or disabled (R142, R156). -/
def Here.widened (h : Here) (n e' e : Nat) (f : Nat → Nat → Nat × BitVec 7) : List (Option (Nat × BitVec 7)) :=
  let a := h.va
  (List.range n).map fun i => if h.laneOn (e * i) && !laneNull a.2 e' i then some (f i (laneOf a.1 e' i)) else none

/-- The result of elements of E bytes from byte 0, zero above. -/
def State.elements (s : State) (h : Here) (e lat : Nat) (l : List (Option (Nat × BitVec 7))) : State :=
  let fl := l.foldl (fun a x => match x with | some r => a ||| r.2 | none => a) (0 : BitVec 7)
  (s.flag h fl).result h (pack e (l.map fun x => x.map (·.1))) .null lat

/-- vcvt.cv (R156): as fcvt element by element; a stochastic one draws for every position (R132). -/
def execVcvt (s : State) : Out :=
  s.firesV .vcvt drawReady 3 fun h t =>
    match Cv.ofCode h.fn with
    | none => t.result h .null .null 3
    | some cv =>
      let st := h.lfsrAt s.cycle
      let d (i : Nat) : Option Nat :=
        if cvStochastic cv && h.ctx.stochastic then some (drawBits (drawStates st (i + 1))) else none
      t.elements h (cvDstBits cv / 8) 3 (h.widened (cvCount cv) (cvSrcBits cv / 8) (cvDstBits cv / 8)
        fun i x => convert cv h.ctx.rm (d i) x)

/-- A narrowing or widening form without flags (R157). -/
def fireWidth (row : Instr) (n e' e : Nat) (f : Nat → Nat) (s : State) : Out :=
  s.firesV row always 3 fun h s => s.elements h e 3 (h.widened n e' e fun _ x => (f x, 0))

def execVpackHW (s : State) : Out := fireWidth .vpackHW 16 4 2 (fun x => satS 2 (sgn 4 x)) s
def execVpackBW (s : State) : Out := fireWidth .vpackBW 16 4 1 (fun x => satS 1 (sgn 4 x)) s
def execVpackBH (s : State) : Out := fireWidth .vpackBH 32 2 1 (fun x => satS 1 (sgn 2 x)) s
def execVunpkHB (s : State) : Out := fireWidth .vunpkHB 32 1 2 (fun x => wrap 2 (sgn 1 x)) s
def execVunpkWB (s : State) : Out := fireWidth .vunpkWB 16 1 4 (fun x => wrap 4 (sgn 1 x)) s
def execVunpkWH (s : State) : Out := fireWidth .vunpkWH 16 2 4 (fun x => wrap 4 (sgn 2 x)) s
def execVunpkHBu (s : State) : Out := fireWidth .vunpkHBu 32 1 2 (fun x => x) s
def execVunpkWBu (s : State) : Out := fireWidth .vunpkWBu 16 1 4 (fun x => x) s
def execVunpkWHu (s : State) : Out := fireWidth .vunpkWHu 16 2 4 (fun x => x) s

/-- A lane of vdot (R158): four byte products added to c, modulo 2^32. -/
def dotLane (sa sb : Bool) (a b c : Nat) : Nat :=
  let x (sg : Bool) (v k : Nat) : Int := if sg then sgn 1 (v / 256 ^ k % 256) else (v / 256 ^ k % 256 : Nat)
  wrap 4 ((c : Int) + ((List.range 4).map fun k => x sa a k * x sb b k).sum)

def execVdotSs (s : State) : Out := fireLanes .vdotSs 3 (fun _ => 4) (fun _ a b c => (dotLane true true a b c, 0)) s
def execVdotSu (s : State) : Out := fireLanes .vdotSu 3 (fun _ => 4) (fun _ a b c => (dotLane true false a b c, 0)) s
def execVdotUu (s : State) : Out := fireLanes .vdotUu 3 (fun _ => 4) (fun _ a b c => (dotLane false false a b c, 0)) s

/-- The trit i of a byte (R114): 0, 1 or 255. -/
def tritOf (x i : Nat) : Nat := let d := x / 3 ^ i % 3; if d = 2 then 255 else d

/-- tunpk (R114, R159): bytes 11:0 of a into trits; an invalid code sets TINV, and with TCE raises TERN_CODE with
sr.trapval := j × 256 + code of the lowest such byte j. -/
def execTunpk (s : State) : Out :=
  s.firesV .tunpk always 3 fun h s =>
    let a := h.va
    let live (j : Nat) : Bool := (List.range 5).any fun i => h.laneOn (5 * j + i)
    let bad := (List.range 12).filter fun j => live j && !a.2.getLsbD j && 243 ≤ laneOf a.1 1 j
    let lane (n : Nat) : Option Nat :=
      if !h.laneOn n then none
      else if 60 ≤ n then some 0
      else if a.2.getLsbD (n / 5) then none
      else let x := laneOf a.1 1 (n / 5); if 243 ≤ x then some 0 else some (tritOf x (n % 5))
    match bad with
    | [] => s.result h (pack 1 ((List.range 64).map lane)) .null 3
    | j :: _ =>
      let s := s.flag h fTINV
      if h.ctx.fpm.getLsbD 8 then s.raise h 9 (BitVec.ofNat 64 (j * 256 + laneOf a.1 1 j))
      else s.result h (pack 1 ((List.range 64).map lane)) .null 3

end Sys2Proof.Machine
end

