-- ==== Sys2Proof/Machine/Sfu.lean ====
section
/-!
DEFINITION. Machine/Sfu: the special functions (R160, R161). A result is the FP32 value nearest the exact one: the exact
value is enclosed between two numbers 2^−279 apart or less, in integer arithmetic at 2^−320, and when both round to one
value that is the result. Where they do not, the result is a free value (log entry 15).
-/
namespace Sys2Proof.Machine

/-- Places of the fixed-point numbers. -/
def fxP : Nat := 320
/-- The number 1. -/
def fxOne : Nat := 2 ^ fxP
/-- Product of two fixed-point numbers, rounded down. -/
def fxMul (a b : Nat) : Nat := a * b / fxOne

/-- Σ z^(2k+1)/(2k+1), n terms from k on; z2 is z². -/
def fxOddSeries (z2 : Nat) : Nat → Nat → Nat → Nat
  | 0, _, _ => 0
  | n + 1, k, p => p / (2 * k + 1) + fxOddSeries z2 n (k + 1) (fxMul p z2)

/-- artanh z for z ≤ 1/3. -/
def fxAtanh (z : Nat) : Nat := fxOddSeries (fxMul z z) 110 0 z
/-- arctan of 1/n at p places. -/
def atanInv (p n : Nat) : Nat → Nat → Nat → Int
  | 0, _, _ => 0
  | f + 1, k, t => (t / (2 * k + 1) : Nat) - atanInv p n f (k + 1) (t / (n * n))

/-- ln 2. -/
def fxLn2 : Nat := 2 * fxAtanh (fxOne / 3)
/-- π at 512 places (16 arctan 1/5 − 4 arctan 1/239). -/
def piBig : Nat := (16 * atanInv 512 5 115 0 (2 ^ 512 / 5) - 4 * atanInv 512 239 40 0 (2 ^ 512 / 239)).toNat

/-- e^y for 0 ≤ y < 1: Σ y^n / n!, terms from n on. -/
def fxExpSeries (y : Nat) : Nat → Nat → Nat → Nat
  | 0, _, _ => 0
  | f + 1, n, t => t + fxExpSeries y f (n + 1) (fxMul t y / (n + 1))
def fxExp01 (y : Nat) : Nat := fxExpSeries y 80 0 fxOne

/-- 2^x for a fixed-point x: mantissa in [1, 2) and exponent. -/
def fxExp2 (x : Int) : Nat × Int :=
  let n := x / (fxOne : Int)
  (fxExp01 (fxMul (x - n * fxOne).toNat fxLn2), n)

/-- e^x for a fixed-point x. -/
def fxExp (x : Int) : Nat × Int := fxExp2 (x * fxOne / (fxLn2 : Int))

/-- A finite value as a fixed-point number, rounded down in magnitude. -/
def fxOf (m : Nat) (e : Int) : Nat := if 0 ≤ e + fxP then m * 2 ^ (e + fxP).toNat else m / 2 ^ (-(e + fxP)).toNat

/-- sin and cos of 0 ≤ r < 2 by their series: Σ (−1)^k r^(2k+d) / (2k+d)!. -/
def fxTrigSeries (r2 d : Nat) : Nat → Nat → Nat → Int
  | 0, _, _ => 0
  | f + 1, k, t => (t : Int) - fxTrigSeries r2 d f (k + 1) (fxMul t r2 / ((2 * k + d + 1) * (2 * k + d + 2)))
def fxSin (r : Nat) : Int := fxTrigSeries (fxMul r r) 1 50 0 r
def fxCos (r : Nat) : Int := fxTrigSeries (fxMul r r) 0 50 0 fxOne

/-- The quadrant and the remainder of m × 2^e by π/2: π at 512 places is enough for every finite FP32 value. -/
def reduce (m : Nat) (e : Int) : Nat × Nat :=
  let x := if 0 ≤ e + 512 then m * 2 ^ (e + 512).toNat else m / 2 ^ (-(e + 512)).toNat
  let h := piBig / 2
  (x / h % 4, x % h / 2 ^ (512 - fxP))

/-- erf x for 0 ≤ x < 11: 2/√π e^{−x²} Σ 2^n x^(2n+1) / (1·3·…·(2n+1)). -/
def fxErfSeries (x2 : Nat) : Nat → Nat → Nat → Nat
  | 0, _, _ => 0
  | f + 1, n, t => t + fxErfSeries x2 f (n + 1) (2 * fxMul t x2 / (2 * n + 3))

/-- A special function's result: between two magnitudes at 2^(−320+k), rounded to nearest; inexact always, as the exact
value is no FP32 value. `i` numbers the function for the free value. -/
def enclosed (i x : Nat) (neg : Bool) (v : Int) (k : Int) : Nat × BitVec 7 :=
  let lo := (v - 2 ^ 40).toNat
  let hi := (v + 2 ^ 40).toNat
  let a := if lo = 0 then (fp32.signed neg 0, fNX ||| fUF) else fp32.round 0 0 neg lo (k - fxP) true
  let b := fp32.round 0 0 neg hi (k - fxP) true
  if a.1 = b.1 then a else ((Config.freeSfu i (BitVec.ofNat 32 x)).toNat, a.2)

/-- vexp2 (R161). -/
def sfExp2 (x : Nat) : Nat × BitVec 7 :=
  match fp32.value x with
  | .nan s => (fp32.nan, if s then fNV else 0)
  | .inf n => (if n then 0 else 0x7F800000, 0)
  | .num n m e =>
    if m = 0 then (0x3F800000, 0)
    else if e > 8 || (0 ≤ e && m * 2 ^ e.toNat > 1000) then
      if n then (0, fNX ||| fUF) else (0x7F800000, fOF ||| fNX)
    else
      let f := fxOf m e
      let v : Int := if n then -(f : Int) else f
      if v % (fxOne : Int) = 0 then fp32.round 0 0 false 1 (v / (fxOne : Int)) false
      else if v < -(1000 * fxOne : Int) then (0, fNX ||| fUF)
      else let r := fxExp2 v; enclosed 0 x false r.1 r.2

/-- vlog2 (R161). -/
def sfLog2 (x : Nat) : Nat × BitVec 7 :=
  match fp32.value x with
  | .nan s => (fp32.nan, if s then fNV else 0)
  | .inf n => if n then (fp32.nan, fNV) else (0x7F800000, 0)
  | .num n m e =>
    if m = 0 then (0xFF800000, fDZ)
    else if n then (fp32.nan, fNV)
    else
      let k := Nat.log2 m
      let p : Int := e + k
      let d := m - 2 ^ k
      if d = 0 then fp32.roundV 0 0 (ofInt p)
      else
        -- m / 2^k = (1 + z) / (1 − z) with z = d / (m + 2^k)
        let l := 2 * fxAtanh (d * fxOne / (m + 2 ^ k))
        let v : Int := p * fxOne + (l * fxOne / fxLn2 : Nat)
        enclosed 1 x (v < 0) v.natAbs 0

/-- vrcp (R161): exact division. -/
def sfRcp (x : Nat) : Nat × BitVec 7 := fp32.div 0 (.num false 1 0) (fp32.value x)

/-- vrsqrt (R161): from an exact integer square root. -/
def sfRsqrt (x : Nat) : Nat × BitVec 7 :=
  match fp32.value x with
  | .nan s => (fp32.nan, if s then fNV else 0)
  | .inf n => if n then (fp32.nan, fNV) else (0, 0)
  | .num n m e =>
    if m = 0 then (fp32.signed n 0x7F800000, fDZ)
    else if n then (fp32.nan, fNV)
    else
      let odd : Nat := if e % 2 = 0 then 0 else 1
      let m' := m * 2 ^ odd
      let q := 2 ^ 160 / m'
      let r := isqrt q 80 0
      fp32.round 0 0 false r (-80 - (e - odd) / 2) (r * r * m' != 2 ^ 160)

/-- vsin and vcos (R161). -/
def sfTrig (cos : Bool) (x : Nat) : Nat × BitVec 7 :=
  match fp32.value x with
  | .nan s => (fp32.nan, if s then fNV else 0)
  | .inf _ => (fp32.nan, fNV)
  | .num n m e =>
    if m = 0 then (if cos then 0x3F800000 else fp32.signed n 0, 0)
    else
      let q := reduce m e
      let k := if cos then (q.1 + 1) % 4 else q.1
      let v := if k % 2 = 0 then fxSin q.2 else fxCos q.2
      let neg := (2 ≤ k) != (n && !cos)
      enclosed (if cos then 5 else 4) x neg v 0

/-- vtanh (R161): (1 − t) / (1 + t) with t = e^(−2x). -/
def sfTanh (x : Nat) : Nat × BitVec 7 :=
  match fp32.value x with
  | .nan s => (fp32.nan, if s then fNV else 0)
  | .inf n => (fp32.signed n 0x3F800000, 0)
  | .num n m e =>
    if m = 0 then (fp32.signed n 0, 0)
    else if e > 8 || fxOf m e > 60 * fxOne then enclosed 6 x n (fxOne - 2 ^ 200 : Nat) 0
    else
      let r := fxExp (-(2 * fxOf m e : Nat))
      let t := r.1 / 2 ^ (-r.2).toNat
      enclosed 6 x n ((fxOne - t) * fxOne / (fxOne + t) : Nat) 0

/-- vsigm (R161): 1 / (1 + e^(−x)). -/
def sfSigm (x : Nat) : Nat × BitVec 7 :=
  match fp32.value x with
  | .nan s => (fp32.nan, if s then fNV else 0)
  | .inf n => (if n then 0 else 0x3F800000, 0)
  | .num n m e =>
    if m = 0 then (0x3F000000, 0)
    else if e > 8 || fxOf m e > 200 * fxOne then (if n then (0, fNX ||| fUF) else enclosed 7 x false (fxOne - 2 ^ 200 : Nat) 0)
    else
      let r := fxExp (-(fxOf m e : Nat))
      let t := r.1 / 2 ^ (-r.2).toNat
      if n then
        -- e^−|x| / (1 + e^−|x|), kept at the exponent of e^−|x|
        enclosed 7 x false (r.1 * fxOne / (fxOne + t) : Nat) r.2
      else enclosed 7 x false (fxOne * fxOne / (fxOne + t) : Nat) 0

/-- verf (R161). -/
def sfErf (x : Nat) : Nat × BitVec 7 :=
  match fp32.value x with
  | .nan s => (fp32.nan, if s then fNV else 0)
  | .inf n => (fp32.signed n 0x3F800000, 0)
  | .num n m e =>
    if m = 0 then (fp32.signed n 0, 0)
    else if e > 8 || fxOf m e > 11 * fxOne then enclosed 8 x n (fxOne - 2 ^ 200 : Nat) 0
    else
      let a := fxOf m e
      let x2 := fxMul a a
      let r := fxExp (-(x2 : Int))
      let s := fxErfSeries x2 700 0 a
      -- √π at 320 places from π at 512
      let rootPi := isqrt (piBig * 2 ^ 128) 330 0
      enclosed 8 x n (2 * (r.1 * s / 2 ^ (-r.2).toNat) / rootPi : Nat) 0

/-- A special-function form (R160): lanes of 4 bytes, 18 clk. -/
def fireSfu (row : Instr) (f : Nat → Nat × BitVec 7) (s : State) : Out :=
  fireLanes row 18 (fun _ => 4) (fun _ a _ _ => f a) s

def execVexp2 (s : State) : Out := fireSfu .vexp2 sfExp2 s
def execVlog2 (s : State) : Out := fireSfu .vlog2 sfLog2 s
def execVrcp (s : State) : Out := fireSfu .vrcp sfRcp s
def execVrsqrt (s : State) : Out := fireSfu .vrsqrt sfRsqrt s
def execVsin (s : State) : Out := fireSfu .vsin (sfTrig false) s
def execVcos (s : State) : Out := fireSfu .vcos (sfTrig true) s
def execVtanh (s : State) : Out := fireSfu .vtanh sfTanh s
def execVsigm (s : State) : Out := fireSfu .vsigm sfSigm s
def execVerf (s : State) : Out := fireSfu .verf sfErf s

end Sys2Proof.Machine
end

