-- ==== Sys2Proof/Machine/Memory.lean ====
section
/-!
DEFINITION. Machine/Memory: loads and stores (R207 to R209), acquire and release forms (R212, R213), fences (R214),
full/empty forms (R215 to R217), atomics (R218, R219) and harvest (R222), as a block's instructions fire them.
-/
namespace Sys2Proof.Machine

/-- EA := (a + OFF) modulo 2^64 (R204). -/
def Here.ea (h : Here) (a : Word) : Word := a + h.off

/-- A memory form that received a null or is predicated false: no check, no access, nulls (R205). -/
def State.memNull (s : State) (h : Here) : State := s.memResult h .null .null 1

/-- The scope of FN bits 4:2 (Table 3.7). -/
def Here.scope (h : Here) : Scope := (Scope.ofCode (h.fn / 4)).getD .sys

/-- A loaded value of n bytes as a token, sign-extended or not (R207). -/
def loadTok (n : Nat) (signed : Bool) (vs : List Word) : Tok :=
  let v := vs.headD 0
  .sc (if signed then bfxS v 0 (8 * n) else v)

/-- A scalar load (R204, R207, R212). -/
def fireLd (row : Instr) (n : Nat) (signed : Bool) (acq : Here → Option Scope) (s : State) : Out :=
  s.firesMem row (heldFor loadReady) fun h s =>
    match h.pOn, h.a with
    | true, some a =>
      if (h.ea a).toNat % n != 0 then s.raise h 2 (h.ea a)
      else s.loadForm h (acq h) [(h.ea a, n)] (loadTok n signed)
    | _, _ => s.memNull h

/-- A plain load. -/
def plain (_ : Here) : Option Scope := none
/-- An acquire at the form's scope. -/
def acquire (h : Here) : Option Scope := some h.scope

def execLdB (s : State) : Out := fireLd .ldB 1 true plain s
def execLdBu (s : State) : Out := fireLd .ldBu 1 false plain s
def execLdH (s : State) : Out := fireLd .ldH 2 true plain s
def execLdHu (s : State) : Out := fireLd .ldHu 2 false plain s
def execLdW (s : State) : Out := fireLd .ldW 4 true plain s
def execLdWu (s : State) : Out := fireLd .ldWu 4 false plain s
def execLdD (s : State) : Out := fireLd .ldD 8 false plain s
def execLdacqW (s : State) : Out := fireLd .ldacqW 4 true acquire s
def execLdacqWu (s : State) : Out := fireLd .ldacqWu 4 false acquire s
def execLdacqD (s : State) : Out := fireLd .ldacqD 8 false acquire s

/-- A scalar store (R207, R213): it settles; its block's commit puts it into the store queue. -/
def fireSt (row : Instr) (n : Nat) (rel : Here → Option Scope) (s : State) : Out :=
  s.fires row always fun h s =>
    match h.pOn, h.a, h.bb with
    | true, some a, some b =>
      if (h.ea a).toNat % n != 0 then s.raise h 2 (h.ea a)
      else s.withPas h .store [h.ea a] fun l =>
        (s.settle h (rel h) (l.map fun x => wrOf x.1 (h.ea a) x.2.1 x.2.2 b n)).result h .null .null 1
    | _, _, _ => s.result h .null .null 1

def execStB (s : State) : Out := fireSt .stB 1 plain s
def execStH (s : State) : Out := fireSt .stH 2 plain s
def execStW (s : State) : Out := fireSt .stW 4 plain s
def execStD (s : State) : Out := fireSt .stD 8 plain s
def execStrelW (s : State) : Out := fireSt .strelW 4 acquire s
def execStrelD (s : State) : Out := fireSt .strelD 8 acquire s

/-! ## Vector loads and stores (R208, R209) -/

/-- Looks a lane's value up among the lanes that were loaded. -/
def laneFrom (lanes : List Nat) (vs : List Word) (i : Nat) : Option Nat :=
  ((lanes.zip vs).find? (·.1 == i)).map fun x => x.2.toNat

/-- vld: the 64 bytes at EA, 1-byte lanes; only words with an enabled byte are read. -/
def execVld (s : State) : Out :=
  s.firesMem .vld (heldFor loadReady) fun h s =>
    match h.dead true, h.a with
    | false, some a =>
        let ws := (List.range 8).filter fun i => (List.range 8).any fun j => h.laneOn (8 * i + j)
        if ws.isEmpty then s.memNull h
        else if (h.ea a).toNat % 64 != 0 then s.raise h 2 (h.ea a)
        else s.loadForm h none (ws.map fun i => (h.ea a + BitVec.ofNat 64 (8 * i), 8)) fun vs =>
          pack 1 ((List.range 64).map fun j =>
            if h.laneOn j then (laneFrom ws vs (j / 8)).map fun v => v / 256 ^ (j % 8) % 256 else none)
    | _, _ => s.memNull h

/-- vldb: the word at EA in each of eight 8-byte lanes. -/
def execVldb (s : State) : Out :=
  s.firesMem .vldb (heldFor loadReady) fun h s =>
    match h.dead true, h.a with
    | false, some a =>
      if (List.range 8).all fun i => !h.laneOn (8 * i) then s.memNull h
      else if (h.ea a).toNat % 8 != 0 then s.raise h 2 (h.ea a)
      else s.loadForm h none [(h.ea a, 8)] fun vs =>
        pack 8 ((List.range 8).map fun i => if h.laneOn (8 * i) then some (vs.headD 0).toNat else none)
    | _, _ => s.memNull h

/-- The address of element i of a gather or scatter: EA + index × E (R208). -/
def Here.elemVa (h : Here) (a : Word) (e i : Nat) : Word := h.ea a + BitVec.ofInt 64 (sgn e (laneOf h.vb.1 e i) * e)

/-- vgath (R208). -/
def fireGath (row : Instr) (e : Nat) (s : State) : Out :=
  s.firesMem row (heldFor loadReady) fun h s =>
    match h.dead true, h.a with
    | false, some a =>
        let ls := (List.range (64 / e)).filter fun i => h.laneOn (e * i) && !laneNull h.vb.2 e i
        if ls.isEmpty then s.memNull h
        else if (h.ea a).toNat % e != 0 then s.raise h 2 (h.ea a)
        else s.loadForm h none (ls.map fun i => (h.elemVa a e i, e)) fun vs =>
          pack e ((List.range (64 / e)).map fun i => laneFrom ls vs i)
    | _, _ => s.memNull h

def execVgathW (s : State) : Out := fireGath .vgathW 4 s
def execVgathD (s : State) : Out := fireGath .vgathD 8 s

/-- vst: the enabled, non-null bytes of b at EA, one access per word (R209). -/
def execVst (s : State) : Out :=
  s.fires .vst always fun h s =>
    match h.dead true, h.a with
    | false, some a =>
        let on (j : Nat) : Bool := h.laneOn j && !h.vb.2.getLsbD j
        let m (i : Nat) : Byte := BitVec.ofNat 8 ((List.range 8).foldl (fun x j => if on (8 * i + j) then x + 2 ^ j else x) 0)
        let ws := (List.range 8).filter fun i => m i != 0
        if ws.isEmpty then s.result h .null .null 1
        else if (h.ea a).toNat % 64 != 0 then s.raise h 2 (h.ea a)
        else s.withPas h .store [h.ea a] fun l =>
          let x := l.headD (0, 0, 0)
          (s.settle h none (ws.map fun i =>
            ⟨x.1 / 8 + i, h.vb.1.extractLsb' (64 * i) 64, m i, h.ea a + BitVec.ofNat 64 (8 * i), x.2.1, x.2.2⟩)).result h .null .null 1
    | _, _ => s.result h .null .null 1

/-- Writes of one instruction that fall in one aligned word are one access (R209): later lanes lie over earlier ones. -/
def joinWrites : List Wr → List Wr
  | [] => []
  | w :: ws =>
    let r := joinWrites ws
    match r.find? (fun x => x.word == w.word) with
    | some x => { w with data := merge w.data x.data x.mask, mask := w.mask ||| x.mask } :: r.filter fun y => y.word != w.word
    | none => w :: r

/-- vscat: lane i of c at the element that lane i of b names, in ascending lane order (R209). -/
def fireScat (row : Instr) (e : Nat) (s : State) : Out :=
  s.fires row always fun h s =>
    match h.dead true, h.a with
    | false, some a =>
        let ls := (List.range (64 / e)).filter fun i => h.laneOn (e * i) && !laneNull h.vb.2 e i && !laneNull h.vc.2 e i
        if ls.isEmpty then s.result h .null .null 1
        else if (h.ea a).toNat % e != 0 then s.raise h 2 (h.ea a)
        else s.withPas h .store (ls.map fun i => h.elemVa a e i) fun l =>
          (s.settle h none (joinWrites ((l.zip ls).map fun x =>
            wrOf x.1.1 (h.elemVa a e x.2) x.1.2.1 x.1.2.2 (BitVec.ofNat 64 (laneOf h.vc.1 e x.2)) e))).result h .null .null 1
    | _, _ => s.result h .null .null 1

def execVscatW (s : State) : Out := fireScat .vscatW 4 s
def execVscatD (s : State) : Out := fireScat .vscatD 8 s

/-! ## Fences (R214) -/

/-- fence.acq settles once every load of a lower LSID has returned. -/
def fenceAcqReady (h : Here) (s : State) : Bool := !h.pOn || h.b.loadsBelow s.cycle h.lsid
/-- fence.full settles once these have returned, the thread's stores have left its queue and are performed at its scope, whatever marks of
its fences still stand there, and what earlier full fences of the package let stand is performed (R214, R231). -/
def fenceFullReady (h : Here) (s : State) : Bool :=
  !h.pOn || (h.b.loadsBelow s.cycle h.lsid && ((s.core h.c).sq.all fun e => e.ctx != h.ctx.id || e.isMark || (e.phase != .queued && e.performedAt h.scope)) &&
    s.fulls.all fun r => (s.core r.1).sq.all fun e => !r.2.contains e.id)

def execFenceAcq (s : State) : Out :=
  s.fires .fenceAcq (heldFor fenceAcqReady) fun h s => s.onceReady h fenceAcqReady fun s => s.result h .null .null 1
/-- fence.rel settles at once and leaves its mark at commit. -/
def execFenceRel (s : State) : Out :=
  s.fires .fenceRel always fun h s => if h.pOn then (s.settle h (some h.scope) []).result h .null .null 1 else s.result h .null .null 1
/-- The stores that a full fence of a narrow scope lets stand are kept for the next full fence of the package (R231). -/
def State.addFull (s : State) (h : Here) : State :=
  let ids := ((s.core h.c).sq.filter fun e => e.ctx == h.ctx.id).map SqEnt.id
  let live := s.fulls.filter fun r => (s.core r.1).sq.any fun e => r.2.contains e.id
  { s with fulls := if ids.isEmpty then live else live ++ [(h.c, ids)] }

def execFenceFull (s : State) : Out :=
  s.fires .fenceFull (heldFor fenceFullReady) fun h s => s.onceReady h fenceFullReady fun s =>
    if h.pOn then ((s.addFull h).settle h (some h.scope) []).result h .null .null 1 else s.result h .null .null 1

/-! ## Requests performed at the home -/

/-- The requester. -/
def Here.who (h : Here) : Who := .entry h.c h.k h.b.rid h.i

/-- Sends a request to a home: the core's own L1 copy goes (R242), a committing operation takes its block past the point
of no return (R30), and the instruction waits. -/
def State.askHome (s : State) (h : Here) (word : Nat) (p : Pkt) : State :=
  let s := s.modCore h.c fun k => k.l1Drop (word / 16)
  let s := s.modBlk h.c h.k fun b => if h.e.insn.committing then { b with ponr := true } else b
  (s.phase h fun e => { e with phase := .sent, want := [], words := [(word, 0)] }).sendPkt (s.core h.c).tag p

/-- When a full/empty form may send: R29 for a committing one, R24 and R33 for ldfw and ldfn. -/
def feReady (h : Here) (s : State) : Bool := if h.e.insn.committing then commitReady h s else loadReady h s

/-- A full/empty form (R204, R215, R216, R269): `waits` forms raise HANDLER_BLOCK in a handler, before the
checks of the address (the spec orders it with neither: DESIGN CHOICE, log entry 71); `acc` is the permission. -/
def fireFe (row : Instr) (waits : Bool) (acc : Acc) (s : State) : Out :=
  s.firesMem row (heldFor feReady) fun h s =>
    match h.pOn, h.a, h.bb with
    | true, some a, some b =>
      if waits && h.ctx.hnd then s.raise h 16 0
      else if (h.ea a).toNat % 8 != 0 then s.raise h 2 (h.ea a)
      else s.withPas h acc [h.ea a] fun l =>
        let x := l.headD (0, 0, 0)
        s.strongReady h feReady [x.1 / 8] fun s => s.askHome h (x.1 / 8) (.fe ⟨row, x.1 / 8, b, h.who, x.2.1, h.ea a, x.2.2⟩)
    | _, _, _ => s.memNull h

def execLdfw (s : State) : Out := fireFe .ldfw true .load s
def execLdfwe (s : State) : Out := fireFe .ldfwe true .both s
def execLdfn (s : State) : Out := fireFe .ldfn false .load s
def execLdfne (s : State) : Out := fireFe .ldfne false .both s
def execStfw (s : State) : Out := fireFe .stfw true .both s
def execStfn (s : State) : Out := fireFe .stfn false .both s
def execFepurge (s : State) : Out := fireFe .fepurge false .both s
def execFefill (s : State) : Out := fireFe .fefill false .both s

/-- An atomic (R218). -/
def fireAmo (row : Instr) (s : State) : Out :=
  s.firesMem row (heldFor commitReady) fun h s =>
    match h.pOn, h.a, h.bb with
    | true, some a, some b =>
      let n := if h.fn % 4 = 1 then 8 else 4
      if (h.ea a).toNat % n != 0 then s.raise h 2 (h.ea a)
      else s.withPas h .both [h.ea a] fun l =>
        let x := l.headD (0, 0, 0)
        s.strongReady h commitReady [x.1 / 8] fun s => s.askHome h (x.1 / 8) (.amo row (x.1 / 8) (x.1 % 8 == 4) (n == 8) b h.who x.2.1 (h.ea a) x.2.2)
    | _, _, _ => s.memNull h

def execAmoSwap (s : State) : Out := fireAmo .amoSwap s
def execAmoAdd (s : State) : Out := fireAmo .amoAdd s
def execAmoAnd (s : State) : Out := fireAmo .amoAnd s
def execAmoOr (s : State) : Out := fireAmo .amoOr s
def execAmoXor (s : State) : Out := fireAmo .amoXor s
def execAmoMinS (s : State) : Out := fireAmo .amoMinS s
def execAmoMaxS (s : State) : Out := fireAmo .amoMaxS s
def execAmoMaxU (s : State) : Out := fireAmo .amoMaxU s

/-- Bytes 15:0 of a vector operand; a null among them is a null (R219). -/
def quad (t : Tok) : Option (BitVec 128) :=
  let v := t.vector
  if v.2.extractLsb' 0 16 = 0 then some (v.1.extractLsb' 0 128) else none

/-- A compare-and-swap (R219) of n bytes. -/
def fireCas (row : Instr) (n : Nat) (s : State) : Out :=
  s.firesMem row (heldFor commitReady) fun h s =>
    let op (t : Tok) : Option (BitVec 128) := if n = 16 then quad t else t.scalar.map fun v => v.zeroExtend 128
    match h.pOn, h.a, op (h.tok .b), op h.tokC with
    | true, some a, some b, some c =>
      if (h.ea a).toNat % n != 0 then s.raise h 2 (h.ea a)
      else s.withPas h .both [h.ea a] fun l =>
        let x := l.headD (0, 0, 0)
        s.strongReady h commitReady (if n = 16 then [x.1 / 8, x.1 / 8 + 1] else [x.1 / 8]) fun s => s.askHome h (x.1 / 8) (.cas row (x.1 / 8) (x.1 % 8 == 4) b c h.who x.2.1 (h.ea a) x.2.2)
    | _, _, _, _ => s.memNull h

def execCasW (s : State) : Out := fireCas .casW 4 s
def execCasD (s : State) : Out := fireCas .casD 8 s
def execCasQ (s : State) : Out := fireCas .casQ 16 s

/-! ## Harvest (R222) -/

/-- Whether a page is stack memory in a slice pair of a partition. -/
def State.partStack (s : State) (p pa : Nat) : Bool :=
  isStack pa && (match tget? s.parts p with | some x => x.slices.contains (homeOf pa) | none => false)

/-- The pages a harvest names. -/
def harvestPages (a n : Nat) : List Nat := (List.range n).map fun i => a / 65536 + i

/-- harvest (R222): reads and clears the dirty bits of b pages from a, in one step. Its operand is a physical address, and sr.trapval of its
translation fault is that of the first page that fails (DESIGN CHOICE, log entry 71). -/
def execHarvest (s : State) : Out :=
  s.firesMem .harvest (heldFor commitReady) fun h s =>
    match h.pOn, h.a, h.bb with
    | true, some a, some b =>
      if !s.privileged h.ten then s.raise h 4 0
      else if a.toNat % 65536 != 0 then s.raise h 2 a
      else if b = 0 || 64 < b.toNat then s.raise h 8 0
      else
        let ps := harvestPages a.toNat b.toNat
        match ps.find? fun p => !s.partStack (s.partOf h.ten) (p * 65536) || s.homeFenced (p * 65536) || s.homeFenced (p * 65536 + 128) with
        | some p => s.raise h 3 (BitVec.ofNat 64 (p * 65536))
        | none => s.onceReady h commitReady fun s =>
          let m := ps.zipIdx.foldl (fun m x => if s.dirty.contains x.1 then m + 2 ^ x.2 else m) 0
          let s := { s with dirty := s.dirty.filter fun p => !ps.contains p }
          let s := s.modBlk h.c h.k fun b => { b with ponr := true }
          s.memResult h (.sc (BitVec.ofNat 64 m)) .null 30
    | _, _, _ => s.memNull h

end Sys2Proof.Machine
end

