-- ==== Sys2Proof/Machine/Stream.lean ====
section
/-!
DEFINITION. Machine/Stream: read and write of registers and of bound streams (R89, R90, R165 to R168), and the stream forms
(R162 to R164).
-/
namespace Sys2Proof.Machine

/-! ## Stream descriptors (Table 8.8) -/

/-- Address of element n (R162). -/
def Stream.elemVa (t : Stream) (n : Nat) : Word :=
  let c0 := (t.desc.extractLsb' 64 32).toNat
  let st0 := t.desc.extractLsb' 128 32
  let step : Word := if st0 = 0 then BitVec.ofNat 64 t.esz else st0.signExtend 64
  t.desc.extractLsb' 0 64 + BitVec.ofNat 64 (n / c0) * t.desc.extractLsb' 192 64 + BitVec.ofNat 64 (n % c0) * step

/-- Elements that the next pop or push moves: min(64 / E, N − POS) (R165, R166). -/
def Stream.next (t : Stream) : Nat := min (64 / t.esz) (t.num - t.pos)

/-- A descriptor that sbind accepts (R163). -/
def Stream.descOk (t : Stream) : Bool :=
  (t.desc.extractLsb' 96 8).toNat ≤ 3 && (t.desc.extractLsb' 104 8).toNat ≤ 1 && t.desc.extractLsb' 112 16 == 0 &&
    (t.desc.extractLsb' 0 64).toNat % t.esz == 0 && (t.desc.extractLsb' 128 32).toNat % t.esz == 0 &&
    (t.desc.extractLsb' 192 64).toNat % t.esz == 0 && t.num < 2 ^ 48

/-! ## read -/

/-- The stream number of a read or write of w6 (FN 22) or w7 (FN 23). -/
def Here.strNo (h : Here) : Nat := h.fn - 22
/-- The stream the instruction names, where its register is bound. -/
def Here.bound (h : Here) : Option Stream :=
  if 22 ≤ h.fn && (h.ctx.stream h.strNo).bound then some (h.ctx.stream h.strNo) else none

/-- A register's value at block start (R89). -/
def Here.regTok (h : Here) : Tok :=
  if h.fn < 16 then .sc (h.ctx.greg (BitVec.ofNat 4 h.fn)) else .vec (h.ctx.vreg (BitVec.ofNat 3 (h.fn - 16))) 0

/-- A pop issues its loads only after every acquire of its block that does not depend on it (R167). -/
def popReady (h : Here) (s : State) : Bool :=
  !h.pOn || (h.b.allBack s.cycle fun e n => e.insn.isAcquire && !(h.b.depends h.i).contains n)

/-- A pop (R165): up to 64 bytes of elements, seen through the thread's committed stores only. One that faults behind the reply of a
committing operation emits a null, and its block commits with POS as it was (DESIGN CHOICE, log entry 72). -/
def State.pop (s : State) (h : Here) (t : Stream) : State :=
  if !h.pOn then s.memNull h
  else if t.next = 0 then (s.act h (.pop h.strNo 0)).memNull h
  else
    s.withPas h .load ((List.range t.next).map fun n => t.elemVa (t.pos + n)) fun l =>
      s.onceReady h popReady fun s => s.loadElems h none 0 ((List.range t.next).map fun n => t.elemVa (t.pos + n)) (l.map fun x => (x.1, t.esz, x.2.1, x.2.2)) fun s vs =>
        (s.act h (.pop h.strNo t.next)).memResult h
          (pack t.esz ((List.range (64 / t.esz)).map fun i => (vs[i]?).map BitVec.toNat)) .null h.loadLat

/-- read: the register at block start, or a pop of a bound stream (R89, R165, R168). -/
def execRead (s : State) : Out :=
  match s.here with
  | none => .fault .notEnabled
  | some h => match h.bound with
    | none => s.fires .read always fun h s => if h.pOn then s.result h h.regTok .null 1 else s.result h .null .null 1
    | some t =>
      if t.push then s.fires .read always fun h s => if h.pOn then s.raise h 11 0 else s.result h .null .null 1
      else s.firesMem .read (heldFor popReady) fun h s => s.pop h t

/-! ## write -/

/-- A register write settles with its token (R90). -/
def State.regWrite (s : State) (h : Here) (t : Tok) : State :=
  (s.modBlk h.c h.k fun b => { b with regs := b.regs ++ [(h.fn, t)] }).result h .null .null 1

/-- A push (R166): the non-null lanes below k are translated; commit writes them. -/
def State.push (s : State) (h : Here) (t : Stream) (v : Vec × NullMask) : State :=
  let ls := (List.range t.next).filter fun i => !laneNull v.2 t.esz i
  s.withPas h .store (ls.map fun i => t.elemVa (t.pos + i)) fun l =>
    let ws := (l.zip ls).map fun x =>
      wrOf x.1.1 (t.elemVa (t.pos + x.2)) x.1.2.1 x.1.2.2 (BitVec.ofNat 64 (laneOf v.1 t.esz x.2)) t.esz
    (s.act h (.push h.strNo ws t.next)).result h .null .null 1

/-- write: takes effect at commit (R90); a push where the register is bound (R166, R168). To a register bound with DIR = 0, a token that is
null in every lane of the stream's element size, but not in every byte, raises STREAM_DIR (DESIGN CHOICE, log entry 72). -/
def execWrite (s : State) : Out :=
  s.fires .write always fun h s =>
    let v := (h.tok .a).vector
    match h.bound with
    | none => s.regWrite h (if h.pOn then h.tok .a else .null)
    | some t =>
      if !h.pOn || v.2 = BitVec.allOnes 64 then s.result h .null .null 1
      else if !t.push then s.raise h 11 0
      else if (List.range (64 / t.esz)).all fun i => laneNull v.2 t.esz i then s.result h .null .null 1
      else s.push h t v

/-! ## sbind, sfree, sstat -/

/-- sbind (R163): four plain loads of the descriptor, which do not see the block's own stores. -/
def execSbind (s : State) : Out :=
  s.firesMem .sbind always fun h s =>
    match h.pOn, h.a with
    | true, some a =>
      if a.toNat % 32 != 0 then s.raise h 2 a
      else
        let vas := (List.range 4).map fun i => a + BitVec.ofNat 64 (8 * i)
        s.withPas h .load vas fun l =>
          s.loadElems h none 0 vas (l.map fun x => (x.1, 8, x.2.1, x.2.2)) fun s vs =>
            let d : BitVec 256 := vs.getD 3 0 ++ vs.getD 2 0 ++ vs.getD 1 0 ++ vs.getD 0 0
            let t : Stream := { bound := true, desc := d }
            if t.descOk then (s.act h (.sbind (h.fn % 2) d)).memResult h .null .null h.loadLat else s.raise h 10 a
    | _, _ => s.memNull h

/-- sfree (R163). -/
def execSfree (s : State) : Out :=
  s.fires .sfree always fun h s =>
    if h.pOn then (s.act h (.sfree (h.fn % 2))).result h .null .null 1 else s.result h .null .null 1

/-- sstat: the status as the block began (R164). -/
def execSstat (s : State) : Out :=
  s.fires .sstat always fun h s =>
    if h.pOn then s.result h (.sc (h.ctx.stream (h.fn % 2)).status) .null 1 else s.result h .null .null 1

end Sys2Proof.Machine
end

