-- ==== Sys2Proof/Machine/Threads.lean ====
section
/-!
DEFINITION. Machine/Threads: the forms of migration, spawn, messages, groups and launch (R253, R255, R282 to R299), as a
block's instructions fire them.
-/
namespace Sys2Proof.Machine

/-- Mesh hops from a core's quad to a quad (R180). -/
def hops (c q : Nat) : Nat :=
  let a := coreQuad c
  let row (x : Nat) : Nat := x % 256 / 16
  let col (x : Nat) : Nat := x % 16
  let d (m n : Nat) : Nat := (m - n) + (n - m)
  if a / 256 = q / 256 then d (row a) (row q) + d (col a) (col q) else row a + row q

/-- 20 + 2h clk to logical slice 0 of the partition, with 64 to another die (R180, R292, R294). -/
def State.poolLat (s : State) (c : Nat) : Nat :=
  match tget? s.parts (s.core c).tag with
  | some p => let q := p.slices.headD 0; 20 + 2 * hops c q + (if coreDie c = q / 256 then 0 else 64)
  | none => 20

/-- The physical core of a logical core number of a partition (R369). -/
def State.physCore (s : State) (p n : Nat) : Option Nat := match tget? s.parts p with | some x => x.cores[n]? | none => none

/-! ## Migration -/

/-- The core that a migration to a physical address goes to: position (bits 8:7) in the quad of its home slice (R253). -/
def migrCore (pa : Nat) : Nat := homeOf pa * 4 + pa / 128 % 4

/-- Whether an address has a home slice or a vault's quad. An address of the I/O die has none; the core it names is a
free value (log entry 5). -/
def hasQuad (pa : Nat) : Bool := match regionOf pa with | .stack _ => true | .vault _ => true | _ => false

/-- migr: an exit that translates a as a one-byte load would (R253, R284). -/
def execMigr (s : State) : Out :=
  s.fires .migr always fun h s =>
    match h.pOn, h.a with
    | true, some a => match s.xlate h.c h.ten h.b.bad a .load with
      | .miss => s.askWalk h a
      | .fault => s.exitFault h 3 a
      | .ok pa _ _ =>
        let f := if hasQuad pa then (s, migrCore pa) else
          let f := s.takeFree
          (f.1, f.2.toNat % 4096)
        (f.1.act h (.migr f.2 h.e.insn.x.i16.toNat)).exitValue h h.b.nextSeq
    | _, _ => s.exitNull h

/-! ## Spawn -/

/-- Marks a request as sent: the block is past its point of no return, the instruction waits (R30). -/
def State.sent (s : State) (h : Here) (p : Pkt) : State :=
  let s := s.modBlk h.c h.k fun b => if h.e.insn.committing then { b with ponr := true } else b
  (s.phase h fun e => { e with phase := .sent, want := [] }).sendPkt (s.core h.c).tag p

/-- A register's value at block start, by a nibble of an MS selector (R46). -/
def Here.nibble (h : Here) (j : Nat) : Word := h.ctx.greg (h.e.insn.x.sel.extractLsb' (4 * j) 4)

/-- The child's STATE from the parent's STATE before the spawn's draw (R255). -/
def childLfsr (v : Word) : Word :=
  let x := ((drawState v) ^^^ 0x9E3779B9) &&& 0xFFFFFFFF
  if x = 0 then 1 else x

/-- A spawn also waits until the draws before its own are known (R255). -/
def spawnReady (h : Here) (s : State) : Bool := drawReady h s && commitReady h s

/-- spawn and spawnw (R255, R285). -/
def fireSpawn (row : Instr) (waits : Bool) (s : State) : Out :=
  s.firesMem row (heldFor spawnReady) fun h s =>
    match h.pOn, h.a, h.bb with
    | true, some a, some b =>
      if waits && h.ctx.hnd then s.raise h 16 0
      else if a &&& 63 != 0 then s.raise h 2 a
      else if b >>> 12 != 0 then s.raise h 8 0
      else match s.physCore (s.partOf h.ten) b.toNat with
        | none => s.raise h 8 0
        | some c => s.onceReady h spawnReady fun s =>
          s.sent h (.spawn row c a ((List.range 4).map h.nibble) h.ctx (childLfsr (h.lfsrAt s.cycle)) h.who)
    | _, _, _ => s.memNull h

def execSpawn (s : State) : Out := fireSpawn .spawn false s
def execSpawnw (s : State) : Out := fireSpawn .spawnw true s

/-! ## Messages -/

/-- Payload words of a send: 1 plus the nibbles j = 1, 2, 3 up to the first that equals nibble j − 1 (R286). -/
def payloadCount (sel : BitVec 16) : Nat :=
  let n (j : Nat) : BitVec 4 := sel.extractLsb' (4 * j) 4
  if n 1 = n 0 then 1 else if n 2 = n 1 then 2 else if n 3 = n 2 then 3 else 4

/-- The logical core of a continuation (Table 15.2). -/
def contCore (w : Word) : Nat := if w.getLsbD 63 then (w.extractLsb' 51 12).toNat else (w.extractLsb' 20 12).toNat

/-- The reserved fields of a continuation are zero and its registers end at g15 (R265, R287). -/
def contOk (w : Word) (n : Nat) : Bool :=
  w.getLsbD 63 || (w.extractLsb' 48 15 == 0 && w.extractLsb' 6 10 == 0 && (w.extractLsb' 0 4).toNat + n - 1 ≤ 15)

/-- The header that recv returns (R265). -/
def msgHeader (lcore slot n : Nat) (cont : Word) : BitVec 32 :=
  BitVec.ofNat 32 (lcore * 2 ^ 20 + slot * 2 ^ 16 + (n - 1) * 256) |||
    (if cont.getLsbD 63 then (0 : BitVec 32) else (cont.extractLsb' 4 2).zeroExtend 32 <<< 4)

/-- A send waits for every recv of its block (R289). -/
def sendReady (h : Here) (s : State) : Bool :=
  commitReady h s && (h.b.allDone fun e _ => e.insn.row == .recv || e.insn.row == .recvNw)

/-- send and send.nw (R286, R287). -/
def fireSend (row : Instr) (waits : Bool) (s : State) : Out :=
  s.firesMem row (heldFor sendReady) fun h s =>
    match h.pOn, h.a with
    | true, some a =>
      let n := payloadCount h.e.insn.x.sel
      if waits && h.ctx.hnd then s.raise h 16 0
      else if !contOk a n || (s.physCore (s.partOf h.ten) (contCore a)).isNone then s.raise h 8 0
      else s.onceReady h sendReady fun s => s.sent h (.msg ⟨a, msgHeader (s.core h.c).logical h.k n a, (List.range n).map h.nibble, h.ten, h.ctx.launch, h.ctx.grant, none,
        some (h.c, h.k, h.b.rid, h.i), waits, []⟩)
    | _, _ => s.memNull h

def execSend (s : State) : Out := fireSend .send true s
def execSendNw (s : State) : Out := fireSend .sendNw false s

/-- The header a context record keeps in MSGH, rebuilt (R265). -/
def headerOf (m : BitVec 20) : Word :=
  (m.extractLsb' 4 16).zeroExtend 64 <<< 16 ||| (m.extractLsb' 2 2).zeroExtend 64 <<< 8 ||| (m.extractLsb' 0 2).zeroExtend 64 <<< 4

/-- The buffer's HEAD and COUNT (R266). -/
def bufHead (w : Word) : Nat := (w.extractLsb' 0 4).toNat
def bufCount (w : Word) : Nat := (w.extractLsb' 8 4).toNat
def bufWord (head count : Nat) : Word := BitVec.ofNat 64 (head + 256 * count)

/-- The HEAD and COUNT word of a context's buffer as its core reads it; zero, as in another domain's frame, where the buffer does not
translate (DESIGN CHOICE, log entry 21). -/
def State.bufState (s : State) (t tag : Nat) : State × Word :=
  match s.bufferPa tag with
  | some (pa, dom) => s.readIn t dom (pa / 8)
  | none => (s, 0)

/-- Drains the oldest buffered entry of a context into it (R266, R267); none where its buffer is empty. -/
def State.drainBuffer (s : State) (x : Ctx) : Option (State × Ctx) :=
  if x.num = 0 then none
  else match s.bufferPa x.tag.toNat with
    | none => none
    | some (pa, dom) =>
      let w := (s.readIn x.ten dom (pa / 8)).2
      if bufCount w = 0 then none
      else
        let e := pa / 8 + 8 * (bufHead w + 1)
        let hw := (s.readIn x.ten dom e).2
        let n := (hw.extractLsb' 8 2).toNat + 1
        let pay := (List.range n).map fun j => (s.readIn x.ten dom (e + 1 + j)).2
        let y := x.receive (hw.extractLsb' 0 4).toNat pay (hw.extractLsb' 0 32 &&& ~~~15)
        some (s.strongIn x.ten dom (pa / 8) (bufWord ((bufHead w + 1) % 15) (bufCount w - 1)), y)

/-- A thread without a message waits for one (R267), unless the boundary has just delivered one: its oldest buffered entry is drained at once, or it enters message
wait. -/
def State.awaitMsg (s : State) (c k : Nat) : State :=
  match (s.slot c k).ctx with
  | none => s
  | some x => if x.mdl then s else match s.drainBuffer x with
    | some (s, y) => s.modCtx c k fun _ => y
    | none => s.modCtx c k fun x => { x with mwait := true, rdy := false, clk := s.cycle }

/-- recv (R267, R290): MDL as the block began. With MDL = 0 the block is discarded and the thread waits; a block past its
point of no return is not discarded, and the form emits a null (log entry 19). -/
def execRecv (s : State) : Out :=
  s.fires .recv always fun h s =>
    if !h.pOn then s.result h .null .null 1
    else if h.ctx.hnd then s.raise h 16 0
    else if h.ctx.mdl then (s.act h .clearMdl).result h (.sc (headerOf h.ctx.msgh)) .null 1
    else if h.b.ponr then s.result h .null .null 1
    else (s.discard h.c (h.lead (s.core h.c).paired)).awaitMsg h.c (h.lead (s.core h.c).paired)

/-- recv.nw (R291). -/
def execRecvNw (s : State) : Out :=
  s.fires .recvNw always fun h s =>
    if !h.pOn then s.result h .null .null 1
    else if h.ctx.mdl then (s.act h .clearMdl).result h (.sc (headerOf h.ctx.msgh)) (.sc 1) 1
    else (s.act h .drain).result h (.sc 0) (.sc 0) 1

/-- The lowest number from lo to hi that is not in a list. -/
def lowestFree (used : List Nat) (lo hi : Nat) : Option Nat := ((List.range (hi - lo + 1)).map (lo + ·)).find? fun n => !used.contains n

/-- The continuation word of mkcont (R265, R292). -/
def contWord (tag lcore slot : Nat) (a : Word) : Word := BitVec.ofNat 64 (tag * 2 ^ 32 + lcore * 2 ^ 20 + slot * 2 ^ 16) ||| (a &&& 0x3F)

/-- mkcont (R258, R292). -/
def execMkcont (s : State) : Out :=
  s.fires .mkcont always fun h s =>
    match h.pOn, h.a with
    | true, some a =>
      let k := h.lead (s.core h.c).paired
      let lc := (s.core h.c).logical
      if a >>> 6 != 0 then s.raise h 8 0
      else if h.ctx.num != 0 then s.result h (.sc (contWord h.ctx.tag.toNat lc k a)) .null 1
      else
        let lead := if k = h.k then h.b.taken else (s.slot h.c k).blk.bind (·.taken)
        match lead with
        | some n => (s.modBlk h.c h.k fun b => { b with taken := some n }).result h (.sc (contWord (h.ten * 2048 + n) lc k a)) .null (s.poolLat h.c)
        | none => match (s.ten? h.ten).bind fun t => lowestFree t.numbers 1 2047 with
          | none => s.raise h 13 0
          | some n =>
            let s := s.modTen h.ten fun t => { t with numbers := linsert t.numbers n }
            let s := s.modBlk h.c k fun b => { b with taken := some n }
            let s := s.modBlk h.c h.k fun b => { b with taken := some n }
            s.result h (.sc (contWord (h.ten * 2048 + n) lc k a)) .null (s.poolLat h.c)
    | _, _ => s.result h .null .null 1

/-- yield acts at commit (R293). -/
def execYield (s : State) : Out :=
  s.fires .yield always fun h s => if h.pOn then (s.act h .yield).result h .null .null 1 else s.result h .null .null 1

/-! ## Groups -/

/-- gnew: the lowest free set, or all ones (R271, R294). The trailing slot of a paired core reads the leading slot's set
from the load-value queue (R398). -/
def execGnew (s : State) : Out :=
  s.firesMem .gnew always fun h s =>
    if !h.pOn then s.memNull h
    else match (s.ten? h.ten).bind fun t => lowestFree (t.sets.map (·.1)) 0 4095 with
      | none => s.memResult h (.sc (BitVec.allOnes 64)) .null (s.poolLat h.c)
      | some n =>
        let s := s.modTen h.ten fun t => { t with sets := tset t.sets n { creator := h.ctx.launch } }
        let s := s.modBlk h.c h.k fun b => { b with sets := n :: b.sets }
        s.memResult h (.sc (BitVec.ofNat 64 n)) .null (s.poolLat h.c)

/-- The sets new to the thread that the block's gjoins name, by index, without repeats (R295). -/
def joinsOf (have_ : List Nat) : List (Nat × Nat) → List Nat
  | [] => []
  | (_, n) :: r => if have_.contains n then joinsOf have_ r else n :: joinsOf (n :: have_) r

/-- Inserts by index. -/
def insertByIdx (x : Nat × Nat) : List (Nat × Nat) → List (Nat × Nat)
  | [] => [x]
  | y :: ys => if x.1 ≤ y.1 then x :: y :: ys else y :: insertByIdx x ys

/-- The gjoins of the block that have fired, with the one at h, in index order. -/
def Here.joins (h : Here) (n : Nat) : List (Nat × Nat) :=
  insertByIdx (h.i, n) ((h.b.acts.filterMap fun a => match a.2 with | .join m => some (a.1, m) | _ => none).foldr insertByIdx [])

/-- The set number of a group form: OPERAND where bits 63:12 are not zero (R295, R296). -/
def State.withSet (s : State) (h : Here) (f : Nat → State) : State :=
  match h.pOn, h.a with
  | true, some a => if a >>> 12 != 0 then s.raise h 8 0 else f a.toNat
  | _, _ => s.memNull h

/-- gjoin (R271, R295): of the gjoins that name sets new to the thread, those that find no entry raise MEMBERSHIP, the
highest index first. -/
def execGjoin (s : State) : Out :=
  s.fires .gjoin always fun h s => match h.pOn, h.a with
    | true, some a =>
      if a >>> 12 != 0 then s.raise h 8 0
      else
        let new := joinsOf h.ctx.groups (h.joins a.toNat)
        if 4 < h.ctx.groups.length + new.length then s.raise h 15 (BitVec.ofNat 64 (new.getLastD 0))
        else (s.act h (.join a.toNat)).result h .null .null 1
    | _, _ => s.result h .null .null 1

/-- gleave (R272, R295). -/
def execGleave (s : State) : Out :=
  s.fires .gleave always fun h s => match h.pOn, h.a with
    | true, some a =>
      if a >>> 12 != 0 then s.raise h 8 0
      else if !h.ctx.groups.contains a.toNat then s.raise h 15 a
      else (s.act h (.leave a.toNat)).result h .null .null 1
    | _, _ => s.result h .null .null 1

/-- A bar arrives once every load of its block with a lower LSID has returned (R240). -/
def barReady (h : Here) (s : State) : Bool := h.b.loadsBelow s.cycle h.lsid

/-- bar and bar.nw check GRPS and tok, and then act at the set's home (R272, R296). -/
def fireBar (row : Instr) (waits : Bool) (s : State) : Out :=
  s.firesMem row (heldFor barReady) fun h s =>
    if waits && h.ctx.hnd && h.pOn && h.a.isSome then s.raise h 16 0
    else s.withSet h fun n =>
      if !h.ctx.groups.contains n || (h.b.curTok h.ctx).any (fun t => t.set != n) then s.raise h 15 (BitVec.ofNat 64 n)
      else s.onceReady h barReady fun s => s.sent h (.arrive h.c h.k h.b.rid h.i h.ctx.id h.ten n waits)

def execBar (s : State) : Out := fireBar .bar true s
def execBarNw (s : State) : Out := fireBar .barNw false s

/-! ## Launch -/

/-- launch and launchi (R298). -/
def fireLaunch (row : Instr) (indirect : Bool) (s : State) : Out :=
  s.fires row always fun h s =>
    match h.pOn, h.a, h.bb with
    | true, some a, some b =>
      let cnt := b &&& 0x01FFFFFFFFFFFFF8
      if (h.ea a).toNat % 64 != 0 then s.raise h 2 (h.ea a)
      else if b >>> 57 != 0 || (!indirect && cnt != 0) then s.raise h 8 0
      else s.withPas h .load (h.ea a :: if indirect then [cnt] else []) fun l =>
        (s.act h (.launch ((l.getD 0 (0, 0, 0)).1) (h.ea a) ((l[1]?).map (·.1)) ((b &&& 7).toNat + 8) ((l.getD 0 (0, 0, 0)).2.2) ((l.getD 1 (0, 0, 0)).2.2))).result h .null .null 1
    | _, _, _ => s.result h .null .null 1

def execLaunch (s : State) : Out := fireLaunch .launch false s
def execLaunchi (s : State) : Out := fireLaunch .launchi true s

end Sys2Proof.Machine
end

