-- ==== Sys2Proof/Machine/Tensor.lean ====
section
/-!
DEFINITION. Machine/Tensor: EFP8 blocks (R121 to R126), the matrix slice's sums (R136 to R138, R326), tile status counters
(R309) and the narrowing of mst.bf (R331).
-/
namespace Sys2Proof.Machine

/-! ## EFP8 -/

/-- Offset codes of Table 7.4, by o: number of bits, and the bits read as a number with the first bit highest. -/
def efpTable : Nat → List (Nat × Nat)
  | 0 => (List.range 16).map fun o => (4, o)
  | 1 => [(6, 0b111100), (7, 0b1111100), (6, 0b111101), (5, 0b11100), (4, 0b1100), (3, 0b101), (2, 0b01), (2, 0b00),
          (3, 0b100), (4, 0b1101), (5, 0b11101), (7, 0b1111101), (7, 0b1111110), (8, 0b11111110), (10, 0b1111111100),
          (10, 0b1111111101)]
  | 2 => (1, 0) :: (List.range 15).map fun o => (5, 16 + o)
  | _ => (List.range 12).map (fun o => (6, 48 + o)) ++ [(3, 0b101), (3, 0b100), (2, 0b01), (2, 0b00)]

/-- Reads one offset code from bit p of a bit stream: o and the next position (R122, R124). -/
def efpCode (t : List (Nat × Nat)) (bits p : Nat) : Nat → Nat → Nat → Option (Nat × Nat)
  | 0, _, _ => none
  | fuel + 1, len, code =>
    let code := 2 * code + if bits.testBit (p + len) then 1 else 0
    match t.findIdx? fun x => x == (len + 1, code) with
    | some o => some (o, p + len + 1)
    | none => efpCode t bits p fuel (len + 1) code

/-- The E6M3 code of an element (Table 7.3). -/
def efpValue (s : Bool) (m o : Nat) (b : Int) : Nat :=
  if o = 0 then (e6m3.roundV 0 0 (.num s m (b - 9))).1 else e6m3.signed s ((b + o + 24).toNat * 8 + m)

/-- Elements left to read from a position: their codes and the end position (R122). -/
def efpElems (t : List (Nat × Nat)) (bits : Nat) (b : Int) : Nat → Nat → Option (List Nat × Nat)
  | 0, p => some ([], p)
  | n + 1, p =>
    match efpCode t bits (p + 4) 10 0 0 with
    | none => none
    | some (o, q) => match efpElems t bits b n q with
      | none => none
      | some (es, r) => some (efpValue (bits.testBit p) (bits / 2 ^ (p + 1) % 8) o b :: es, r)

/-- Decodes a block in a 64-byte slot (R121 to R125, R301): 32 E6M3 codes, or none where it is ill-formed. -/
def efpDecode (slot : Nat) : Option (List Nat) :=
  let l := slot / 2 ^ 496 % 32
  let hdr := slot % 65536
  let b : Int := (hdr % 256 : Nat) - (127 : Int)
  if slot / 2 ^ 501 != 0 || l = 0 || 30 < l || hdr / 1024 != 0 || b < -24 || 24 < b then none
  else match efpElems (efpTable (hdr / 256 % 4)) (slot % 2 ^ 496) b 32 16 with
    | none => none
    | some (es, p) =>
      if 16 * l < p || p ≤ 16 * (l - 1) || slot % 2 ^ 496 / 2 ^ p != 0 then none else some es

/-- A magnitude m × 2^e rounded to 4 significant bits, nearest-even, with unbounded exponent: the 4-bit m and its exponent
(R126). m is not 0. -/
def efpRound (m : Nat) (e : Int) : Nat × Int :=
  let k := Nat.log2 m
  if k ≤ 3 then (m * 2 ^ (3 - k), e + k)
  else
    let s := k - 3
    let x := m / 2 ^ s + if roundsUp 0 false (m / 2 ^ s) (m % 2 ^ s) s false 0 then 1 else 0
    if x = 16 then (8, e + k + 1) else (x, e + k)

/-- How an FP32 value is encoded under a base exponent: sign, M, o, flags and whether it was replaced on overflow (R126,
R334). -/
def efpElem (v : FV) (b : Int) : Bool × Nat × Nat × BitVec 7 × Bool :=
  match v with
  | .nan _ => (false, 0, 0, fNV, false)
  | .inf n => (n, 7, 15, fOF, true)
  | .num n m e =>
    if m = 0 then (n, 0, 0, 0, false)
    else
      let k : Int := e + Nat.log2 m
      if k < b - 6 then
        -- M is the magnitude divided by 2^(b-9), rounded nearest-even
        let q : Int := e - (b - 9)
        let x := if 0 ≤ q then m * 2 ^ q.toNat else
          let s := (-q).toNat
          m / 2 ^ s + if roundsUp 0 false (m / 2 ^ s) (m % 2 ^ s) s false 0 then 1 else 0
        let exact := 0 ≤ q || m % 2 ^ (-q).toNat = 0
        if x = 8 then (n, 0, 1, fNX, false) else (n, x, 0, if exact then 0 else fNX, false)
      else
        let r := efpRound m e
        if b + 8 < r.2 then (n, 7, 15, fOF, true)
        else
          let exact : Bool := Nat.log2 m ≤ 3 || m % 2 ^ (Nat.log2 m - 3) == 0
          (n, r.1 - 8, (r.2 - b + 7).toNat, if exact then 0 else fNX, false)

/-- The base exponent of 32 values (R126): an infinity counts above the range, a NaN as +0. -/
def efpBase (vs : List FV) : Int :=
  let emax := vs.foldl (fun (a : Option Int) v => match v with
    | .inf _ => some 1000
    | .num _ m e => if m = 0 then a else
        let k := (efpRound m e).2
        some (match a with | none => k | some x => max x k)
    | .nan _ => a) none
  match emax with
  | none => 0
  | some x => min 24 (max (-24) (x - 8))

/-- Bits of an element in reading order: count, and the bits as a number with the first bit lowest. -/
def efpBits (t : List (Nat × Nat)) (s : Bool) (m o : Nat) : Nat × Nat :=
  let c := t.getD o (0, 0)
  let rev := (List.range c.1).foldl (fun a i => if c.2.testBit (c.1 - 1 - i) then a + 2 ^ i else a) 0
  (4 + c.1, (if s then 1 else 0) + 2 * m + 16 * rev)

/-- Encodes 32 values into a slot: the table with the fewest parcels, the lowest number on a tie; the flags and the
number of replaced elements (R126, R334). -/
def efpEncode (vs : List FV) : Nat × BitVec 7 × Nat :=
  let b := efpBase vs
  let es := vs.map fun v => efpElem v b
  let stream (t : Nat) : Nat × Nat := es.foldl (fun a x =>
    let y := efpBits (efpTable t) x.1 x.2.1 x.2.2.1
    (a.1 + y.1, a.2 + y.2 * 2 ^ a.1)) (0, 0)
  let parcels (t : Nat) : Nat := 1 + ((stream t).1 + 15) / 16
  let t := (List.range 4).foldl (fun a t => if parcels t < parcels a then t else a) 0
  ((b + 127).toNat + 256 * t + (stream t).2 * 65536 + parcels t * 2 ^ 496,
    es.foldl (fun f x => f ||| x.2.2.2.1) 0, (es.filter fun x => x.2.2.2.2).length)

/-! ## Products and sums (R136 to R138) -/

/-- A product with its scales (R137, R326), and the cases it counts. -/
def mmaProd (a b : FV) (sa sb : Nat) : FV × BitVec 7 :=
  let f : BitVec 7 := if sa = 255 || sb = 255 then fFINV else 0
  if a.isNan || b.isNan then (.nan false, f)
  else match mulExact a b with
    | none => (.nan false, f ||| fNV)
    | some v => if f != 0 then (.nan false, f) else match v with
      | .num n m e => (.num n m (e + ((sa : Int) - 127) + ((sb : Int) - 127)), 0)
      | v => (v, 0)

/-- Exact sum of values without NaN: a zero sum is −0 only if all are −0; none for +∞ with −∞. -/
def exactSum (ps : List FV) : Option FV :=
  let infs := ps.filterMap fun p => match p with | .inf n => some n | _ => none
  if infs.contains true && infs.contains false then none
  else match infs with
    | n :: _ => some (.inf n)
    | [] =>
      let e := ps.foldl (fun (a : Int) p => match p with | .num _ _ x => min a x | _ => a) 0
      let z : Int := ps.foldl (fun (a : Int) p => match p with
        | .num n m x => a + (if n then -1 else 1) * (m * 2 ^ (x - e).toNat : Nat)
        | _ => a) 0
      some (if z = 0 then .num (ps.all fun p => match p with | .num n _ _ => n | _ => false) 0 e else .num (z < 0) z.natAbs e)

/-- One group onto an FP32 accumulator (R136, R137). -/
def mmaGroup (acc : Nat) (ps : List (FV × BitVec 7)) : Nat × BitVec 7 :=
  let has (n : Bool) : Bool := ps.any fun p => match p.1 with | .inf m => m == n | _ => false
  let f := ps.foldl (fun f p => f ||| p.2) (if has true && has false then fNV else 0)
  if ps.any fun p => p.1.isNan then (fp32.nan, f)
  else match exactSum (ps.map (·.1)) with
    | none => (fp32.nan, f ||| fNV)
    | some s =>
      let r := match fp32.value acc with
        | .nan _ => (fp32.nan, 0)
        | v => fp32.add 0 v s
      (r.1, f ||| r.2)

/-- Groups of four products in ascending K. -/
def mmaGroups : Nat → List (FV × BitVec 7) → Nat → BitVec 7 → Nat × BitVec 7
  | 0, _, acc, f => (acc, f)
  | n + 1, ps, acc, f =>
    let r := mmaGroup acc (ps.take 4)
    mmaGroups n (ps.drop 4) r.1 (f ||| r.2)

/-- An operand element as a value: its bits, and how they are read (Table 19.3). -/
def mmaFmtA (f : Nat) (fmt : Word) : Fmt :=
  if f = 0 then (if (fmt &&& 3) = 1 then e5m2 else e4m3)
  else if f = 1 then e4m3 else if f = 2 then e5m2 else if f = 4 then bf16 else fp16
def mmaFmtB (f : Nat) (fmt : Word) : Fmt :=
  if f = 0 then e6m3
  else if f = 1 then (if fmt.getLsbD 4 then e5m2 else e4m3)
  else if f = 2 then (if fmt.getLsbD 4 then e4m3 else e5m2)
  else if f = 4 then bf16 else fp16

/-- Element k of a latch row: 8 or 16 bits. -/
def rowElem (row : BitVec 1024) (esz k : Nat) : Nat := row.toNat / 2 ^ (8 * 2 ^ esz * k) % 2 ^ (8 * 2 ^ esz)
/-- Element n of a B row: 8 bits in BFMT 1, else 16. -/
def bopElem (row : BitVec 512) (bfmt n : Nat) : Nat := if bfmt = 1 then row.toNat / 2 ^ (8 * n) % 256 else row.toNat / 2 ^ (16 * n) % 65536

/-- One element of a floating-point mma (R136): the new accumulator and the cases met. -/
def mmaElem (f : Nat) (fmt : Word) (ar : BitVec 1024) (bs : List (BitVec 512)) (esz bfmt kk : Nat) (sa sb : Nat → Nat) (n acc : Nat) :
    Nat × BitVec 7 :=
  let ps := (List.range kk).map fun k =>
    mmaProd ((mmaFmtA f fmt).value (rowElem ar esz k)) ((mmaFmtB f fmt).value (bopElem (bs.getD k 0) bfmt n)) (sa k) (sb k)
  mmaGroups (kk / 4) ps acc 0

/-- One element of an INT8 mma (R138). -/
def mmaInt (fmt : Word) (ar : BitVec 1024) (bs : List (BitVec 512)) (kk n acc : Nat) : Nat :=
  let v (x : Nat) (uns : Bool) : Int := if uns || x < 128 then x else (x : Int) - 256
  let sum := (List.range kk).foldl (fun (a : Int) k =>
    a + v (rowElem ar 0 k) (fmt.getLsbD 2) * v (bopElem (bs.getD k 0) 1 n) (fmt.getLsbD 3)) (acc : Int)
  (sum % 2 ^ 32).toNat

/-! ## Tiles -/

/-- Element (m, n) of a tile. -/
def Tile.elt (t : Tile) (i : Nat) : BitVec 32 := t.elts.getD i 0

/-- Adds the cases of one command's elements to the counters of a status word, saturating at 255 (R309). -/
def tileCount (st : Word) (fs : List (BitVec 7)) : Word :=
  let add (st : Word) (at_ : Nat) (f : BitVec 7) : Word :=
    let n := (fs.filter fun x => x &&& f != 0).length
    let old := (st.extractLsb' at_ 8).toNat
    (st &&& ~~~((0xFF : Word) <<< at_)) ||| (BitVec.ofNat 64 (min 255 (old + n)) <<< at_)
  add (add (add (add (add st 0 fNV) 8 fOF) 16 fUF) 24 fNX) 32 fFINV

/-- INV with its CAUSE (Table 18.2). -/
def tileInvalid (st : Word) (cause : Nat) : Word :=
  (st &&& 0x07FFFFFFFFFFFFFF) ||| (1 <<< 63) ||| (BitVec.ofNat 64 cause <<< 59)

end Sys2Proof.Machine
end

