-- ==== Sys2Proof/Machine/Matrix.lean ====
section
/-!
DEFINITION. Machine/Matrix: the matrix and engine forms (R300 to R306, R322 to R336) as a block's instructions fire them.
-/
namespace Sys2Proof.Machine

/-! ## Tile owners (R307, R308) -/

/-- The 16 bits of a tile in sr.accown (Table 18.1). -/
def accField (acc : Word) (tt : Nat) : BitVec 16 := acc.extractLsb' (16 * tt) 16
/-- V of a tile. -/
def accValid (acc : Word) (tt : Nat) : Bool := (accField acc tt).getLsbD 15
/-- TEN of a tile. -/
def accTen (acc : Word) (tt : Nat) : Nat := ((accField acc tt).extractLsb' 10 5).toNat
/-- sr.accown with a tile's V set, TEN and SLOT. -/
def accSet (acc : Word) (tt ten slot : Nat) : Word :=
  (acc &&& ~~~((0xFFFF : Word) <<< (16 * tt))) ||| (BitVec.ofNat 64 (0x8000 + ten % 32 * 1024 + slot % 16 * 64) <<< (16 * tt))

/-- The first-use trap (R340): the slot leaves the rotation and its block is discarded, to replay from its decoded form (R57) after the
trap; a block past its point of no return is kept (R341). -/
def State.firstUse (s : State) (c k tt : Nat) : State :=
  let s := match (s.slot c k).blk with
    | some b => if b.ponr then s else s.replay c k (s.cycle + Config.firstUseClk) id
    | none => s
  (s.modCtx c k fun x => { x with hold := .firstUse tt s.cycle }).countCore c 0x101

/-- The tile a form names: FN bits 1:0 (Table 19.2). -/
def Here.tt (h : Here) : Nat := h.fn % 4

/-- The owner check that every form naming a tile makes first (R308): sr.accown as the block began, or, for a block that a
first-use trap has kept, as that trap left it. A block past its point of no return takes the trap in place of its commit (R341), but a
form that reads the tile takes it first (DEDUCED, log entry 20). The trailing slot of a paired core goes by its leading slot's block. -/
def State.withTile (s : State) (h : Here) (reads : Bool) (f : State → State) : State :=
  let k := h.lead (s.core h.c).paired
  let b := (s.slot h.c k).blk.getD h.b
  if accValid b.accown h.tt && accTen b.accown h.tt != h.ten && (reads || !b.ponr) then s.firstUse h.c k h.tt
  else f (s.act h (.own h.tt))

/-! ## mgath and mldb -/

/-- The bytes from an address on, cut at word boundaries: addresses and sizes. -/
def pieces (va : Word) : Nat → Nat → List (Word × Nat)
  | 0, _ => []
  | fuel + 1, n =>
    if n = 0 then []
    else
      let m := min n (8 - va.toNat % 8)
      (va, m) :: pieces (va + BitVec.ofNat 64 m) fuel (n - m)

/-- Pieces of a run of n bytes. -/
def run (va : Word) (n : Nat) : List (Word × Nat) := pieces va (n / 8 + 2) n

/-- Plain loads of pieces at the form's LSID (R24, R324); the values are given to f. -/
def State.loadPieces (s : State) (h : Here) (ps : List (Word × Nat)) (f : State → List Word → State) : State :=
  s.withPas h .load (ps.map (·.1)) fun l =>
    let es : Elems := (l.zip ps).map fun x => (x.1.1, x.2.2, x.1.2.1, x.1.2.2)
    s.strongReady h loadReady (h.awaits s.cycle false es) fun s => s.loadElems h none h.lsid (ps.map (·.1)) es f

/-- The number that pieces make, the first piece lowest. -/
def joinPieces : List (Word × Nat) → List Word → Nat
  | (_, n) :: ps, v :: vs => v.toNat % 2 ^ (8 * n) + 2 ^ (8 * n) * joinPieces ps vs
  | _, _ => 0

/-- The numbers of several runs whose pieces were loaded together. -/
def joinRuns : List (List (Word × Nat)) → List Word → List Nat
  | [], _ => []
  | r :: rs, vs => joinPieces r (vs.take r.length) :: joinRuns rs (vs.drop r.length)

/-- A gather descriptor (R300). -/
structure GDesc where
  base : Word
  rowb : Nat
  nrows : Nat
  kq : Nat
  esz : Nat
deriving DecidableEq, Repr

def GDesc.of (w0 w1 : Word) : GDesc :=
  ⟨w0, (w1.extractLsb' 0 32).toNat, (w1.extractLsb' 32 16).toNat, (w1.extractLsb' 48 8).toNat, (w1.extractLsb' 56 8).toNat⟩

/-- Its fields are within their limits. -/
def GDesc.ok (d : GDesc) : Bool := 1 ≤ d.nrows && 1 ≤ d.kq && d.kq ≤ 32 && d.esz ≤ 1 && (d.esz = 0 || d.kq ≤ 16)

/-- The index of a latch row: 0xFFFF for a row without one. -/
def Here.rowIdx (h : Here) (r : Nat) : Nat := if laneNull h.vb.2 2 r then 0xFFFF else laneOf h.vb.1 2 r

/-- mgath (R300, R323, R324). -/
def execMgath (s : State) : Out :=
  s.firesMem .mgath (heldFor loadReady) fun h s =>
    match h.pOn && h.vb.2 != BitVec.allOnes 64, h.a with
    | true, some a =>
      if a.toNat % 16 != 0 then s.raise h 2 a
      else s.loadPieces h [(a, 8), (a + 8, 8)] fun s ws =>
        let d := GDesc.of (ws.getD 0 0) (ws.getD 1 0)
        if !d.ok then s.raise h 8 0
        else match (List.range 32).find? fun r => h.rowIdx r != 0xFFFF && d.nrows ≤ h.rowIdx r with
          | some r => s.raise h 8 (BitVec.ofNat 64 r)
          | none =>
            let idx := (List.range 32).map h.rowIdx
            let runs := idx.map fun n => if n = 0xFFFF then [] else run (d.base + BitVec.ofNat 64 (n * d.rowb)) (4 * d.kq * 2 ^ d.esz)
            let done (s : State) (vs : List Word) : State :=
              (s.act h (.latch ((joinRuns runs vs).map (BitVec.ofNat 1024)) d.kq d.esz idx)).memResult h .null .null 4
            if runs.flatten.isEmpty then done s [] else s.loadPieces h runs.flatten done
    | _, _ => s.memNull h

/-- Bytes of a row of B (R301). -/
def bRow (bfmt : Nat) : Nat := if bfmt = 1 then 32 else 64

/-- mldb (R301, R323, R324). -/
def execMldb (s : State) : Out :=
  s.firesMem .mldb (heldFor loadReady) fun h s =>
    match h.pOn, h.a with
    | true, some a =>
      if a.toNat % 16 != 0 then s.raise h 2 a
      else s.loadPieces h [(a, 8), (a + 8, 8)] fun s ws =>
        let base := ws.getD 0 0
        let w := ws.getD 1 0
        let kq := (w.extractLsb' 0 8).toNat
        let bf := (w.extractLsb' 8 8).toNat
        if kq = 0 || 32 < kq || 2 < bf || (bf = 2 && 16 < kq) || w.extractLsb' 16 48 != 0 then s.raise h 8 0
        else if base.toNat % bRow bf != 0 then s.raise h 2 base
        else
          let runs := (List.range (4 * kq)).map fun k => run (base + BitVec.ofNat 64 (bRow bf * k)) (bRow bf)
          s.loadPieces h runs.flatten fun s vs =>
            let rows := joinRuns runs vs
            let dec := rows.map efpDecode
            let ill := bf == 0 && dec.any Option.isNone
            let wide := if bf = 0 then dec.map fun r => (r.getD []).zipIdx.foldl (fun x e => x + e.1 * 2 ^ (16 * e.2)) 0 else rows
            (s.act h (.bop (wide.map (BitVec.ofNat 512)) kq bf ill)).memResult h .null .null (4 * kq)
    | _, _ => s.memNull h

/-! ## mma, mzero, mgang -/

/-- mma (R302, R303, R325): K0 in bits 15:0 of a. -/
def fireMma (row : Instr) (f : Nat) (s : State) : Out :=
  s.fires row always fun h s =>
    match h.pOn, h.a with
    | true, some a => s.withTile h false fun s =>
      if a >>> 16 != 0 then s.raise h 8 0 else (s.act h (.mma h.tt f a.toNat)).result h .null .null 1
    | _, _ => s.result h .null .null 1

def execMmaEfp8 (s : State) : Out := fireMma .mmaEfp8 0 s
def execMmaE4 (s : State) : Out := fireMma .mmaE4 1 s
def execMmaE5 (s : State) : Out := fireMma .mmaE5 2 s
def execMmaI8 (s : State) : Out := fireMma .mmaI8 3 s
def execMmaBf (s : State) : Out := fireMma .mmaBf 4 s
def execMmaH (s : State) : Out := fireMma .mmaH 5 s

/-- mzero (R302, R329). -/
def execMzero (s : State) : Out :=
  s.fires .mzero always fun h s =>
    if h.pOn then s.withTile h false fun s => (s.act h (.mzero h.tt)).result h .null .null 1 else s.result h .null .null 1

/-- The core at a position of a core's gang row (R2). -/
def gangCore (c q : Nat) : Nat := c / 8 * 8 + q

/-- MASK and SRC of mgang are legal for a core (R304, R313). -/
def State.gangOk (s : State) (c : Nat) (a : Word) : Bool :=
  let mask := a.toNat % 256
  a >>> 11 == 0 && mask.testBit (c % 8) && mask.testBit (a.toNat / 256 % 8) &&
    (List.range 8).all fun q => !mask.testBit q || (s.core (gangCore c q)).tag == (s.core c).tag

/-- mgang (R304, R313). -/
def execMgang (s : State) : Out :=
  s.fires .mgang always fun h s =>
    match h.pOn, h.a with
    | true, some a => s.withTile h false fun s =>
      if !s.gangOk h.c a then s.raise h 8 0
      else (s.act h (.mgang h.tt (a.toNat % 256) (a.toNat / 256 % 8))).result h .null .null 1
    | _, _ => s.result h .null .null 1

/-! ## mst and mst.bf -/

/-- mst and mst.bf (R305, R330, R331): the form waits for the commands the core has sent to the tile; MST_READ reads it. -/
def fireMst (row : Instr) (align size : Nat) (ok : Here → State → Bool) (s : State) : Out :=
  s.firesMem row ok fun h s =>
    match h.pOn, h.a with
    | true, some a => s.withTile h true fun s =>
      let va := h.ea a
      if va.toNat % align != 0 then s.raise h 2 va
      else
        -- the first address, and that of the higher page where the access spans two (R177)
        let high := va.toNat % 65536 + size - 65536
        s.withPas h .store (if high = 0 then [va] else [va, va + BitVec.ofNat 64 (size - high)]) fun l =>
        let w (x : Nat × Nat × Nat) : Nat × Word := (x.1, BitVec.ofNat 64 (x.2.1 + 8 * x.2.2))
        s.phase h fun e => { e with
          phase := .sent, words := l.map w, want := ((s.core h.c).mxq.filter fun m => m.tt == h.tt).map MxCmd.id }
    | _, _ => s.memNull h

def execMst (s : State) : Out := fireMst .mst 128 4096 always s
def execMstBf (s : State) : Out := fireMst .mstBf 64 2048 drawReady s

/-! ## Engine forms -/

/-- Operand a of ego, ecfg and ecancel: every bit outside the allowed ones is zero and ENG is not 3. -/
def engOk (a allowed : Word) : Bool := a &&& ~~~allowed == 0 && a &&& 3 != 3
/-- ENG and VQ. -/
def engNo (a : Word) : Nat := a.toNat % 4
def vqNo (a : Word) : Nat := a.toNat / 16 % 16

/-- ego (R306, R332). -/
def execEgo (s : State) : Out :=
  s.firesMem .ego (heldFor commitReady) fun h s =>
    match h.pOn, h.a, h.bb with
    | true, some a, some b =>
      if b.toNat % 64 != 0 then s.raise h 2 b
      else if !engOk a 0xF3 then s.raise h 8 0
      else s.withPas h .load ((List.range 8).map fun i => b + BitVec.ofNat 64 (8 * i)) fun l =>
        s.onceReady h commitReady fun s => s.sent h (.ego (engNo a) (vqNo a) (l.map (·.1)) b h.ten h.ctx.fmt h.ctx.scale h.ctx.rm h.ctx.tag h.who)
    | _, _, _ => s.memNull h

/-- The fields of a descriptor are within the limits of Table 18.4; FLAGS may hold the bits of `flags`. -/
def vqOk (img : List Word) (flags : Word) : Bool :=
  let w1 := img.getD 1 0
  (img.getD 0 0) &&& 63 == 0 && (img.getD 4 0) &&& 63 == 0 && 4 ≤ (w1 &&& 0xFF).toNat && (w1 &&& 0xFF).toNat ≤ 16 &&
    1 ≤ (w1 >>> 8 &&& 0xFF).toNat && (w1 >>> 8 &&& 0xFF).toNat ≤ 15 && (w1 >>> 16 &&& 0xFF) &&& ~~~flags == 0 && w1 >>> 24 == 0

/-- Physical address and domain of the one access of a form. -/
def paDom (l : List (Nat × Nat × Nat)) : Nat × Nat := ((l.headD (0, 0, 0)).1, (l.headD (0, 0, 0)).2.2)

/-- ecfg (R335): SET reads its image when it fires, at its LSID. -/
def execEcfg (s : State) : Out :=
  s.firesMem .ecfg (heldFor loadReady) fun h s =>
    match h.pOn, h.a, h.bb with
    | true, some a, some b =>
      let resume := (a.toNat / 256 % 4) == 1
      let go (s : State) (img : List Word) (cwa : Word) : State :=
        s.withPas h .both [cwa] fun l =>
          (s.act h (.ecfg (engNo a) (vqNo a) resume img (paDom l))).memResult h .null .null 1
      if b.toNat % (if resume then 8 else 64) != 0 then s.raise h 2 b
      else if !engOk a 0x3F3 || 1 < a.toNat / 256 % 4 then s.raise h 8 0
      else if resume then go s [] b
      else s.loadPieces h (run b 64) fun s ws =>
        let cwa := ws.getD 7 0
        if cwa.toNat % 8 != 0 then s.raise h 2 cwa
        else if !vqOk ws 8 || ws.getD 2 0 != 0 || ws.getD 3 0 != 0 || cwa = 0 then s.raise h 8 0
        else go s ws cwa
    | _, _, _ => s.memNull h

/-- ecancel (R336). -/
def execEcancel (s : State) : Out :=
  s.fires .ecancel always fun h s =>
    match h.pOn, h.a, h.bb with
    | true, some a, some b =>
      if b.toNat % 8 != 0 then s.raise h 2 b
      else if !engOk a 0xF3 then s.raise h 8 0
      else s.withPas h .both [b] fun l =>
        (s.act h (.ecancel (engNo a) (vqNo a) (paDom l))).result h .null .null 1
    | _, _, _ => s.result h .null .null 1

end Sys2Proof.Machine
end

