-- ==== Sys2Proof/Machine/System.lean ====
section
/-!
DEFINITION. Machine/System: the system forms as a block's instructions fire them (R357 to R363, R366); what they do at and
after commit stands in Machine/Commit.
-/
namespace Sys2Proof.Machine

/-- A form that only leaves an action for commit. -/
def State.acted (s : State) (h : Here) (a : Act) : State := (s.act h a).result h .null .null 1

/-- A privileged form raises PRIVILEGE in a context without privilege (R54, R346). -/
def State.withSv (s : State) (h : Here) (f : State) : State := if s.privileged h.ten then f else s.raise h 4 0

/-- brk (R362). -/
def execBrk (s : State) : Out := s.fires .brk always fun h s => if h.pOn then s.acted h .brk else s.result h .null .null 1

/-- tlbinv (R358): does not fault on its address. -/
def execTlbinv (s : State) : Out :=
  s.fires .tlbinv always fun h s => match h.pOn, h.a with
    | true, some a => s.acted h (.tlbinv a)
    | _, _ => s.result h .null .null 1

/-- tlbinva (R358): privileged. -/
def execTlbinva (s : State) : Out :=
  s.fires .tlbinva always fun h s => if h.pOn then s.withSv h (s.acted h .tlbinva) else s.result h .null .null 1

/-- A line form: a is translated, and its physical address is kept for commit (R359, R360). -/
def fireLine (row : Instr) (sv : Bool) (acc : Acc) (act : Nat → Act) (s : State) : Out :=
  s.fires row always fun h s => match h.pOn, h.a with
    | true, some a =>
      let f := s.withPas h acc [a] fun l => s.acted h (act (l.headD (0, 0, 0)).1)
      if sv then s.withSv h f else f
    | _, _ => s.result h .null .null 1

def execDcflush (s : State) : Out := fireLine .dcflush false .rdOrWr .dcflush s
def execDcinv (s : State) : Out := fireLine .dcinv true .rdOrWr .dcinv s
def execIcinv (s : State) : Out := fireLine .icinv false .rdOrX .icinv s

/-- ptload (R361): the 1,088 bytes of the image are translated with R. -/
def execPtload (s : State) : Out :=
  s.fires .ptload always fun h s => match h.pOn, h.a, h.bb with
    | true, some a, some b => s.withSv h
      (if a != 6 && a != 7 then s.raise h 8 0
       else if b.toNat % 64 != 0 then s.raise h 2 b
       else s.withPas h .load ((List.range 136).map fun i => b + BitVec.ofNat 64 (8 * i)) fun l =>
        s.acted h (.ptload a.toNat (l.map fun x => x.1 / 8)))
    | _, _, _ => s.result h .null .null 1

/-- UNAV (R363). -/
def unav : Word := 0x8000000000000000

/-- The counters of Table 23.9. -/
def implemented (n : Nat) : Bool := n ≤ 5 || (0x100 ≤ n && n ≤ 0x104) || (0x200 ≤ n && n ≤ 0x202) || (0x300 ≤ n && n ≤ 0x302) || n == 0x3FF

/-- A counter as an instruction reads it (R363, R402); one that the tenant's profiling session carries goes on from the carried
value, or, where the part lacks it, stays at it with UNAV (R403, log entry 64). -/
def State.counter (s : State) (h : Here) (n : Nat) : Word :=
  let carried := (s.ten? h.ten).bind fun x => tget? x.session n
  let v (x : Nat) : Word := BitVec.ofNat 64 ((carried.getD 0 + x) % 2 ^ 63)
  let k := s.core h.c
  let quad := coreQuad h.c
  if n ≤ 5 then v (tget (s.slot h.c h.k).ctr n 0)
  else if !s.privileged h.ten then if implemented n then unav else unav ||| v 0
  else if 0x100 ≤ n && n ≤ 0x104 then v (tget k.ctr n 0)
  else if n = 0x201 then v (tget s.mismatch quad 0)
  else if n = 0x200 || n = 0x202 then v (tget s.sliceCtr (quad * 4 + n % 4) 0)
  else if 0x300 ≤ n && n ≤ 0x302 then v (match tget? s.parts k.tag with | some p => tget p.ctr n 0 | none => 0)
  else if n = 0x3FF then Config.eventSet
  else unav ||| v 0

/-- ctrrd (R363): the quad's own slice stands 0 hops away (R180), the partition's counters at its logical slice 0 (DESIGN CHOICE, log entry 7). -/
def execCtrrd (s : State) : Out :=
  s.fires .ctrrd always fun h s => match h.pOn, h.a with
    | true, some a =>
      if a >>> 16 != 0 then s.raise h 8 0
      else s.result h (.sc (s.counter h a.toNat)) .null (if a.toNat < 0x200 then 1 else if a.toNat < 0x300 then 20 else s.poolLat h.c)
    | _, _ => s.result h .null .null 1

/-- sr.part (Table 21.8): PRE reads as 0. -/
def State.srPart (s : State) (h : Here) : Word :=
  let p := (s.core h.c).tag
  BitVec.ofNat 64 (p + 256 * s.svten p + if s.privileged h.ten then 0x2000 else 0)

/-- sr.where (Table 21.9). -/
def State.srWhere (s : State) (h : Here) : Word :=
  let k := s.core h.c
  BitVec.ofNat 64 (k.logical + h.lead k.paired * 2 ^ 12 + h.ctx.lidx.toNat * 2 ^ 16 + h.ctx.lslot.toNat * 2 ^ 48)

/-- A system register as the block began (R53, R88, R366). -/
def State.sysReg (s : State) (h : Here) (i : Nat) : Word :=
  match i with
  | 0 => h.ctx.stat
  | 1 => h.ctx.fpm
  | 2 => h.ctx.stklim
  | 3 => h.ctx.fmt
  | 4 => h.ctx.scale
  | 5 => h.ctx.tag.zeroExtend 64
  | 6 => h.b.accown
  | 7 => h.ctx.trapcause
  | 8 => h.ctx.trapaddr
  | 9 => h.ctx.trapval
  | 10 => h.ctx.s6.status
  | 11 => h.ctx.s7.status
  | 12 => h.ctx.lfsr
  | 13 => s.srPart h
  | 14 => BitVec.ofNat 64 h.b.began
  | _ => s.srWhere h

/-- srrd: FN is the index (R53). -/
def execSrrd (s : State) : Out :=
  s.fires .srrd always fun h s => if h.pOn then s.result h (.sc (s.sysReg h h.fn)) .null 1 else s.result h .null .null 1

/-- srwr (R366, Table 21.7): acts at commit. -/
def execSrwr (s : State) : Out :=
  s.fires .srwr always fun h s => match h.pOn, h.a with
    | true, some a =>
      let i := h.fn - 16
      if [0, 1, 3, 4, 12].contains i then s.acted h (.srwr i a)
      else if [2, 6, 10, 11, 13].contains i then s.withSv h (s.acted h (.srwr i a))
      else s.raise h 8 0
    | _, _ => s.result h .null .null 1

end Sys2Proof.Machine
end

