-- ==== Sys2Proof/Machine/Maps.lean ====
section
/-!
DEFINITION. Machine/Maps: hashed maps: the map forms (R223 to R228) and the map engines (R172 to R175, R195 to R202).
-/
namespace Sys2Proof.Machine

/-! ## Hashes and layouts (R196, R197) -/

def hashOf (key seed : Word) : Word :=
  let x := (key ^^^ seed) * 0x9E3779B97F4A7C15
  let x := (x ^^^ (x >>> 29)) * 0xBF58476D1CE4E5B9
  x ^^^ (x >>> 32)

/-- BucketOf under a level and a split pointer. -/
def bucketOf (x : Word) (l split : Nat) : Nat := let b := x.toNat % 2 ^ l; if b < split then x.toNat % 2 ^ (l + 1) else b

/-- BucketHome: the logical slice of a bucket among n slices. -/
def bucketHome (b n : Nat) : Nat := b * 0x9E3779B9 % 2 ^ 32 * n / 2 ^ 32

/-- Buckets of a map: 2^L + S. -/
def MapObj.size (m : MapObj) : Nat := 2 ^ m.l + m.s

/-- An empty bucket line in an arena line (R198). -/
def emptyLine (at_ : Nat) : BLine := ⟨at_, List.replicate 7 none⟩

/-- A bucket; every bucket of a map is listed. -/
def MapObj.bucket (m : MapObj) (b : Nat) : Bucket :=
  tget m.buckets b { lstamp := if b < m.s || 2 ^ m.l ≤ b then m.l + 1 else m.l, chain := [] }

/-- Replaces a bucket. -/
def MapObj.setBucket (m : MapObj) (b : Nat) (x : Bucket) : MapObj := { m with buckets := tset m.buckets b x }

/-- The value of a key in a chain. -/
def chainFind (c : List BLine) (key : Word) : Option Word :=
  c.findSome? fun l => l.ents.findSome? fun e => match e with | some (k, v) => if k = key then some v else none | none => none

/-- Replaces a key's value, or deletes it. -/
def chainSet (c : List BLine) (key : Word) (v : Option Word) : List BLine :=
  c.map fun l => { l with ents := l.ents.map fun e => match e with | some (k, w) => if k = key then v.map fun x => (key, x) else some (k, w) | none => none }

/-- Puts an entry at the lowest clear place of a line's entries. -/
def entsPut (key v : Word) : List (Option (Word × Word)) → List (Option (Word × Word))
  | [] => []
  | none :: es => some (key, v) :: es
  | e :: es => e :: entsPut key v es

/-- Adds an entry at the lowest clear place of the first line that has one; where none has, in a new overflow line, the arena line
`new` (R198). -/
def chainAdd (new : Nat) (key v : Word) : List BLine → List BLine
  | [] => [⟨new, entsPut key v (emptyLine new).ents⟩]
  | l :: ls => if l.ents.contains none then { l with ents := entsPut key v l.ents } :: ls else l :: chainAdd new key v ls

/-- Whether adding an entry needs a new line. -/
def chainFull (c : List BLine) : Bool := c.all fun l => !l.ents.contains none

/-! ## Bucket lines in memory (Table 10.6) -/

/-- The 16 words of a bucket line: the header with OCC, STATE, LSTAMP and OVF, then keys and values. An overflow line's header repeats
its bucket's LSTAMP and STATE, and the place of an entry that is not held is 0 (DESIGN CHOICE, log entry 16). -/
def BLine.words (x : BLine) (lstamp state next : Nat) : List Word :=
  let occ := x.ents.zipIdx.foldl (fun n e => if e.1.isSome then n + 2 ^ e.2 else n) 0
  BitVec.ofNat 64 (occ + state * 256 + lstamp * 65536) :: BitVec.ofNat 64 (128 * next) :: x.ents.flatMap fun e => match e with | some (k, v) => [k, v] | none => [0, 0]

/-- Writes a bucket's lines to the arena, as its engine does: a write of the page (R221). -/
def State.storeChain (lstamp state : Nat) : List BLine → State → State
  | [], s => s
  | x :: xs, s =>
    State.storeChain lstamp state xs ((x.words lstamp state ((xs.map BLine.at_).headD 0)).zipIdx.foldl (fun s w => s.agentPut (16 * x.at_ + w.2) w.1 0xFF) s)

/-! ## Arena lines (R197, R201; log entry 16) -/

/-- The logical slice pair of a bucket of a tenant's map. -/
def State.pairOf (s : State) (t b : Nat) : Nat := bucketHome b (s.nslices (s.partOf t)) / 2

/-- A free arena line on a pair, if there is one: the lowest. -/
def Tenant.freeLine (x : Tenant) (pair : Nat) : Option Nat :=
  let a := tget x.arena pair {}
  if a.lines ≤ a.used.length then none else lowestFree a.used a.first (a.first + a.lines - 1)
/-- Takes, or returns, an arena line on a pair. -/
def Tenant.takeLine (x : Tenant) (pair n : Nat) : Tenant :=
  let a := tget x.arena pair {}
  { x with arena := tset x.arena pair { a with used := linsert a.used n } }
def Tenant.returnLine (x : Tenant) (pair n : Nat) : Tenant :=
  let a := tget x.arena pair {}
  { x with arena := tset x.arena pair { a with used := lremove a.used n } }

/-- Raises QUOTA to a tenant's supervisor for a wait on arena lines (R201). -/
def State.arenaEvent (s : State) (t : Nat) (handle : Word) : State := s.supEvent (s.partOf t) 13 handle 0

/-! ## The forms -/

/-- The map of a handle, live or destroyed and not yet gone: the handle is not free (R195, R227). -/
def State.mapAt (s : State) (t h : Nat) : Option MapObj := (s.ten? t).bind fun x => tget? x.maps h

/-- The map a handle names, where it is live. -/
def State.liveMap (s : State) (t h : Nat) : Option MapObj := (s.mapAt t h).filter fun m => !m.dying

/-- The bucket a core computes from the layout it holds for a handle (R199). -/
def Core.bucketFor (k : Core) (t h : Nat) (key : Word) : Nat :=
  match k.layouts.find? fun x => x.1 == t && x.2.1 == h with
  | some (_, _, l, sp, seed) => bucketOf (hashOf key seed) l sp
  | none => 0

/-- A map form on a key: MAP_HANDLE for a handle that is free or outside the table (R195, R223); a destroyed map whose handle is not
free yet answers it (R227). -/
def fireMap (row : Instr) (ok : Here → State → Bool) (s : State) : Out :=
  s.firesMem row (heldFor ok) fun h s =>
    match h.pOn, h.a, h.bb, h.cc with
    | true, some a, some b, some c =>
      if 4096 ≤ a.toNat || (s.mapAt h.ten a.toNat).isNone then s.raise h 12 a
      else s.onceReady h ok fun s => s.sent h (.map ⟨row, h.ten, a.toNat, b, c, (s.core h.c).bucketFor h.ten a.toNat b, h.who, false⟩)
    | _, _, _, _ => s.memNull h

def execMprobe (s : State) : Out := fireMap .mprobe always s
def execMinsert (s : State) : Out := fireMap .minsert commitReady s
def execMupsert (s : State) : Out := fireMap .mupsert commitReady s
def execMremove (s : State) : Out := fireMap .mremove commitReady s
/-- mdestroy (R227) and mstat (R228) go to the descriptor, at the home of bucket 0. -/
def fireDesc (row : Instr) (ok : Here → State → Bool) (s : State) : Out :=
  s.firesMem row (heldFor ok) fun h s =>
    match h.pOn, h.a with
    | true, some a =>
      if 4096 ≤ a.toNat || (s.mapAt h.ten a.toNat).isNone then s.raise h 12 a
      else s.onceReady h ok fun s => s.sent h (.map ⟨row, h.ten, a.toNat, 0, 0, 0, h.who, false⟩)
    | _, _ => s.memNull h

def execMdestroy (s : State) : Out := fireDesc .mdestroy commitReady s
def execMstat (s : State) : Out := fireDesc .mstat always s

/-- mcreate's loads wait as loads do, and then, wherever their words came from, its request as a committing operation's. -/
def createReady (h : Here) (s : State) : Bool := if h.e.got then commitReady h s else loadReady h s

/-- mcreate (R226): two plain loads of its record, then the request. -/
def execMcreate (s : State) : Out :=
  s.firesMem .mcreate (heldFor createReady) fun h s =>
    match h.pOn, h.a with
    | true, some a =>
      if a.toNat % 16 != 0 then s.raise h 2 a
      else s.loadPieces h [(a, 8), (a + 8, 8)] fun s ws =>
        let w := ws.getD 1 0
        let th := (w &&& 0xFF).toNat
        let lv := (w >>> 8 &&& 0xFF).toNat
        if th = 0 || 7 < th || 24 < lv || w >>> 16 != 0 then s.raise h 8 0
        else s.onceReady h commitReady fun s => s.sent h (.map ⟨.mcreate, h.ten, 0, ws.getD 0 0, w, 0, h.who, false⟩)
    | _, _ => s.memNull h

/-! ## Counting and splitting (R172, R200, R201) -/

/-- Changes a map of a tenant. -/
def State.modMap (s : State) (t h : Nat) (f : MapObj → MapObj) : State :=
  s.modTen t fun x => match tget? x.maps h with
    | some m => { x with maps := tset x.maps h (f m) }
    | none => x

/-- Replaces a bucket of a map, and its lines in the arena. -/
def State.putBucket (s : State) (t h b : Nat) (x : Bucket) : State := State.storeChain x.lstamp x.state x.chain (s.modMap t h fun m => m.setBucket b x)

/-- A map reply with the layout as it stands. -/
def MapObj.answer (m : MapObj) (t h : Nat) (p st : Tok) : Reply := .layout p st t h m.l m.s m.seed

/-- Starts the split of bucket S: both buckets are locked, and the target takes its line; a wait where the arena is
exhausted (R201). -/
def State.startSplit (s : State) (t h : Nat) : State :=
  match s.ten? t, s.mapAt t h with
  | some x, some m =>
    let tgt := m.s + 2 ^ m.l
    let pair := s.pairOf t tgt
    match x.freeLine pair with
    | none =>
      let s := if m.stuck then s else s.arenaEvent t (BitVec.ofNat 64 h)
      s.modMap t h fun m => { m with stuck := true }
    | some n =>
      let s := (s.modTen t fun x => x.takeLine pair n).putBucket t h m.s { m.bucket m.s with state := 1 }
      let s := s.putBucket t h tgt { lstamp := m.l + 1, state := 2, chain := [emptyLine n] }
      s.modMap t h fun m => { m with split := some (m.s, tgt), moved := 0, stuck := false }
  | _, _ => s

/-- Answers the held increment whose split has just locked its buckets. -/
def State.answerTrigger (s : State) (t h : Nat) : State :=
  match s.mapAt t h with
  | none => s
  | some m => match m.split, m.triggers with
    | some _, (q, p, st) :: r => (s.modMap t h fun m => { m with triggers := r }).reply q.who (m.answer t h p st)
    | _, _ => s

/-- Starts the split of the oldest held trigger, if any; at L = 25 none starts, and the triggers are answered (R200). -/
def State.nextSplit (s : State) (t h : Nat) : State :=
  match s.mapAt t h with
  | none => s
  | some m =>
    if m.split.isSome || m.triggers.isEmpty then s
    else if 25 ≤ m.l || m.dying then
      m.triggers.foldl (fun s q => s.reply q.1.who (m.answer t h q.2.1 q.2.2)) (s.modMap t h fun m => { m with triggers := [] })
    else (s.startSplit t h).answerTrigger t h

/-- The entries a map holds. -/
def MapObj.entries (m : MapObj) : Nat :=
  m.buckets.foldl (fun n b => b.2.chain.foldl (fun n l => n + (l.ents.filter Option.isSome).length) n) 0

/-- Once the split step of a destroyed map has finished, its lines return to the arena and its entries leave the entry quota; its handle
is free once every request on its way to the map is answered (R227). -/
def State.buryMap (s : State) (t h : Nat) : State :=
  match s.mapAt t h with
  | none => s
  | some m =>
    let busy := s.reqs.any fun r => match r.pkt with
      | .count q _ _ _ => q.ten == t && q.h == h
      | .map q => q.ten == t && q.h == h && q.form != .mcreate
      | _ => false
    if !m.dying || m.split.isSome || !m.triggers.isEmpty then s
    else
      let s := m.buckets.foldl (fun s b => s.modTen t fun x => b.2.chain.foldl (fun x l => x.returnLine (s.pairOf t b.1) l.at_) x) s
      let s := (s.quotaSub t 4 m.entries).modMap t h fun m => { m with buckets := [] }
      if busy then s else s.modTen t fun x => { x with maps := tdel x.maps h }

/-- Whether the engine of a bucket's home does not answer: its slice is on a dead or fenced die or in a contained rectangle (R229, R396). -/
def State.bucketFenced (s : State) (t b : Nat) : Bool :=
  match tget? s.parts (s.partOf t) with
  | some p =>
    let sl := p.slices.getD (bucketHome b p.slices.length) 0
    s.lid.deadDies.contains (sl / 256) || s.lid.fencedDies.contains (sl / 256) || s.lid.contained.contains sl
  | none => false

/-- Whether the slice of a bucket's home serves only vault traffic (R397). -/
def State.bucketDown (s : State) (t b : Nat) : Bool := s.sliceDown (s.partOf t) (bucketHome b (s.nslices (s.partOf t)))

/-- DESCRIPTOR_COUNT (R200): request n, an increment or decrement, at the map's descriptor. A fenced home answers with TRANSLATION; a map
form has no address, and sr.trapval is its handle (DESIGN CHOICE, log entry 48). -/
def execDescriptorCount (s : State) : Out :=
  match s.inFlight s.focus.n with
  | some ⟨_, _, _, _, .count q up p st⟩ =>
    if s.bucketDown q.ten 0 then .fault .notEnabled
    else
    let s := s.dropReq s.focus.n
    match s.mapAt q.ten q.h with
    | none => .next (s.reply q.who (.result p st))
    | some m =>
      if s.bucketFenced q.ten 0 then .next (s.reply q.who (.fault ⟨3, BitVec.ofNat 64 q.h⟩))
      else if m.dying then .next ((s.reply q.who (.result p st)).buryMap q.ten q.h)
      else
        let m' := { m with count := if up then m.count + 1 else m.count - 1 }
        let s := s.modMap q.ten q.h fun _ => m'
        if up && m'.thresh * m'.size < m'.count && m'.l < 25 then
          let s := s.modMap q.ten q.h fun m => { m with triggers := m.triggers ++ [(q, p, st)] }
          .next (s.nextSplit q.ten q.h)
        else .next (s.reply q.who (m'.answer q.ten q.h p st))
  | _ => .fault .notEnabled

/-- Entries of a line that go to the split's target, and the line without them. -/
def splitLine (seed : Word) (l tgt : Nat) (x : BLine) : List (Word × Word) × BLine :=
  let goes (e : Word × Word) : Bool := (hashOf e.1 seed).toNat % 2 ^ (l + 1) == tgt
  (x.ents.filterMap fun e => match e with | some e => if goes e then some e else none | none => none,
    { x with ents := x.ents.map fun e => match e with | some e => if goes e then none else some e | none => none })

/-- The last step of a split: S advances, and at 2^L the level; the locks are released (R172, R200). -/
def State.advance (s : State) (t h : Nat) (m : MapObj) (src tgt : Nat) : State :=
  let s := s.putBucket t h src { m.bucket src with lstamp := m.l + 1, state := 0 }
  let s := s.putBucket t h tgt { m.bucket tgt with state := 0 }
  s.modMap t h fun m =>
    let m := { m with split := none, moved := 0 }
    if m.s + 1 = 2 ^ m.l then { m with l := m.l + 1, s := 0 } else { m with s := m.s + 1 }

/-- The end of a split, and what follows it. -/
def State.endSplit (s : State) (t h src tgt : Nat) : State :=
  match s.mapAt t h with
  | some m => ((s.advance t h m src tgt).nextSplit t h).buryMap t h
  | none => s

/-- SPLIT_STEP (R174, R201, R321): one line of the source chain of tenant n's map m; the step that finds none left ends the
split, and so does the step of a destroyed map (R227). A split that could not take its target's line starts here once the arena has one.
Each step is engine time of the tenant (log entry 7). -/
def execSplitStep (s : State) : Out :=
  let t := s.focus.n
  let h := s.focus.m
  match s.ten? t, s.mapAt t h with
  | some x, some m =>
    let u := s.quotaAdd t 8 1
    match m.split with
    | none => if m.stuck && (x.freeLine (s.pairOf t (m.s + 2 ^ m.l))).isSome then .next ((u.startSplit t h).answerTrigger t h) else .fault .notEnabled
    | some (src, tgt) =>
      if s.bucketDown t src || s.bucketDown t tgt then .fault .notEnabled
      else
      let b := m.bucket src
      match b.chain[m.moved]? with
      | none => .next (u.endSplit t h src tgt)
      | some line =>
        let r := splitLine m.seed m.l tgt line
        let tc := (m.bucket tgt).chain
        let new := x.freeLine (s.pairOf t tgt)
        let tc' := r.1.foldl (fun c e => chainAdd (new.getD 0) e.1 e.2 c) tc
        let more := tc'.length != tc.length
        if more && new.isNone then
          if m.dying then .next (u.endSplit t h src tgt)
          else if m.stuck then .fault .notEnabled
          else .next ((u.arenaEvent t (BitVec.ofNat 64 h)).modMap t h fun m => { m with stuck := true })
        else
          let gone := m.moved != 0 && r.2.ents.all Option.isNone
          let u := u.modTen t fun x =>
            let x := if more then x.takeLine (s.pairOf t tgt) (new.getD 0) else x
            if gone then x.returnLine (s.pairOf t src) line.at_ else x
          let u := u.putBucket t h src { b with chain := if gone then removeAt b.chain m.moved else b.chain.set m.moved r.2 }
          let u := u.putBucket t h tgt { m.bucket tgt with chain := tc' }
          let u := u.modMap t h fun m => { m with moved := if gone then m.moved else m.moved + 1, stuck := false }
          .next (if b.chain.length ≤ m.moved + 1 || m.dying then u.endSplit t h src tgt else u)
  | _, _ => .fault .notEnabled

/-! ## Requests at the engines (R173, R199, R224) -/

/-- Sends an increment or decrement to the descriptor (R200). -/
def State.sendCount (s : State) (q : MapReq) (up : Bool) (p st : Tok) : State := s.sendPkt (s.partOf q.ten) (.count q up p st)

/-- Serves a request at its bucket (R224); none where it must wait for an arena line. -/
def State.serveMap (s : State) (q : MapReq) (x : Tenant) (m : MapObj) : Option State :=
  let b := m.bucket q.bucket
  let old := chainFind b.chain q.key
  let put (c : List BLine) (s : State) : State := s.putBucket q.ten q.h q.bucket { b with chain := c }
  let ans (p st : Word) (s : State) : State := s.reply q.who (m.answer q.ten q.h (.sc p) (.sc st))
  match q.form, old with
  | .mprobe, some v => some (ans v 1 s)
  | .mprobe, none => some (ans 0 0 s)
  | .mremove, some v =>
    some ((((put (chainSet b.chain q.key none) s).quotaSub q.ten 4 1)).sendCount q false (.sc v) (.sc 1))
  | .mremove, none => some (ans 0 0 s)
  | .minsert, some v => some (ans v 0 s)
  | .mupsert, some v => some (ans v 0 (put (chainSet b.chain q.key (some q.val)) s))
  | _, none =>
    if x.atLimit 4 then some (s.reply q.who (.turnedAway ⟨13, BitVec.ofNat 64 q.h⟩ q.ten q.h m.l m.s m.seed))
    else
      let pair := s.pairOf q.ten q.bucket
      match chainFull b.chain, x.freeLine pair with
      | true, none => none
      | full, new =>
        let s := if full then s.modTen q.ten fun x => x.takeLine pair (new.getD 0) else s
        some (((put (chainAdd (new.getD 0) q.key q.val b.chain) s).quotaAdd q.ten 4 1).sendCount q true (.sc 0) (.sc 1))
  | _, some _ => some s

/-- Takes a line for each of the buckets of a new map, where every pair has them (R226). -/
def State.takeBuckets (s : State) (t lv : Nat) : Nat → Tenant → Option (Tenant × List (Nat × Bucket))
  | 0, x => some (x, [])
  | n + 1, x => match s.takeBuckets t lv n x with
    | none => none
    | some (x, bs) => let p := s.pairOf t n; (x.freeLine p).map fun a => (x.takeLine p a, bs ++ [(n, { lstamp := lv, chain := [emptyLine a] })])

/-- What becomes of a request for a new map: the quota or the handle table turns it away; it waits for arena lines; it has a handle. -/
inductive Created where | refused | waits | done (s : State) (h : Nat) (m : MapObj)

/-- Creates a map (R195, R226) in the lowest free handle; a load's map takes it too, which R71 leaves open (DESIGN CHOICE, log entry 48). -/
def State.newMap (s : State) (t : Nat) (seed : Word) (thresh lv : Nat) : Created :=
  match s.ten? t with
  | none => .refused
  | some x => match lowestFree (x.maps.map (·.1)) 0 4095, x.atLimit 3 with
    | some h, false => match s.takeBuckets t lv (2 ^ lv) x with
      | none => .waits
      | some (x, bs) =>
        let m : MapObj := { seed := seed, thresh := thresh, l := lv, s := 0, count := 0, buckets := bs }
        let s := s.modTen t fun _ => { x with maps := tset x.maps h m }
        .done ((bs.foldl (fun s b => State.storeChain lv 0 b.2.chain s) s).quotaAdd t 3 1) h m
    | _, _ => .refused

/-- mcreate at the engine (R226); none where it must wait for arena lines. -/
def State.createMap (s : State) (q : MapReq) : Option State :=
  match s.newMap q.ten q.key (q.val &&& 0xFF).toNat (q.val >>> 8 &&& 0xFF).toNat with
  | .refused => some (s.reply q.who (.fault ⟨13, 0⟩))
  | .waits => none
  | .done s h m => some (s.reply q.who (m.answer q.ten h (.sc (BitVec.ofNat 64 h)) .null))

/-- mdestroy at the descriptor (R202, R227). -/
def State.destroyMap (s : State) (q : MapReq) : State :=
  let s := (s.modMap q.ten q.h fun m => { m with dying := true }).quotaSub q.ten 3 1
  ((s.reply q.who (.result .null .null)).nextSplit q.ten q.h).buryMap q.ten q.h

/-- The status word of mstat (R228). -/
def MapObj.stat (m : MapObj) : Word := BitVec.ofNat 64 (min m.count.toNat (2 ^ 32 - 1) + m.l * 2 ^ 32 + m.s * 2 ^ 40)

/-- MAP_ENGINE_REQUEST (R199, R224): request n at the engine of its bucket: it is forwarded, or served and linearises.
While its bucket is locked, its home's channel is down (R397), or it waits for arena lines that are exhausted, the step is not enabled; the QUOTA that the wait of an mcreate
raises has value 0, since it has no handle yet (DESIGN CHOICE, log entry 48). The engine's clk are charged to the tenant's engine time
(R321; log entry 7), an instruction's when its block commits (R35). -/
def execMapEngineRequest (s : State) : Out :=
  match s.inFlight s.focus.n with
  | some ⟨_, _, _, _, .map q⟩ => match s.ten? q.ten with
    | none => .fault .notEnabled
    | some x =>
      let gone := (s.dropReq s.focus.n).charge q.who q.ten 8 1
      let wait (h : Word) : Out :=
        if q.told then .fault .notEnabled
        else .next ({ s with reqs := s.reqs.modify s.focus.n fun r => { r with pkt := .map { q with told := true } } }.arenaEvent q.ten h)
      if s.bucketDown q.ten (if q.form = .mcreate then 0 else q.bucket) then .fault .notEnabled
      else if q.form = .mcreate then
        if s.bucketFenced q.ten 0 then .next (gone.reply q.who (.fault ⟨3, 0⟩))
        else match gone.createMap q with
          | some s => .next s
          | none => wait 0
      else if s.bucketFenced q.ten q.bucket then .next (gone.reply q.who (.fault ⟨3, BitVec.ofNat 64 q.h⟩))
      else match s.liveMap q.ten q.h with
        | none => .next ((gone.reply q.who (.noMap q.ten q.h)).buryMap q.ten q.h)
        | some m =>
          if q.form = .mdestroy then .next (gone.destroyMap q)
          else if q.form = .mstat then .next (gone.reply q.who (m.answer q.ten q.h (.sc m.stat) .null))
          else
            let hx := hashOf q.key m.seed
            let b := m.bucket q.bucket
            if b.state != 0 then .fault .notEnabled
            else if m.size ≤ q.bucket || hx.toNat % 2 ^ b.lstamp != q.bucket then
              let sl := match tget? s.parts x.part with | some p => p.slices.getD (bucketHome q.bucket p.slices.length) 0 | none => 0
              .next ({ s with reqs := s.reqs.modify s.focus.n (fun r => { r with pkt := .map { q with bucket := bucketOf hx m.l m.s } }),
                              sliceCtr := tadd s.sliceCtr (sl * 4 + 2) 1 }.charge q.who q.ten 8 1)
            else match gone.serveMap q ((gone.ten? q.ten).getD x) m with
              | some s => .next s
              | none => wait (BitVec.ofNat 64 q.h)
  | _ => .fault .notEnabled

end Sys2Proof.Machine
end

