-- ==== Sys2Proof/Machine/Guard.lean ====
section
/-!
DEFINITION. Machine/Guard: containment (R399) and who is answered when a home is fenced (R396).
-/
namespace Sys2Proof.Machine

/-! ## The end of an access -/

/-- Marks of fences that nothing lies ahead of any more leave the store queue (R214). -/
def Core.pruned (k : Core) : Core :=
  { k with sq := k.sq.dropWhile fun e => match e.kind with | .mark _ => e.phase != .queued | _ => false }

/-- An entry leaves its core's store queue: it is performed everywhere. -/
def State.performed (s : State) (c id : Nat) : State :=
  (s.modCore c fun k => { k with sq := k.sq.filter fun x => x.id != id }.pruned).reap c

/-- A late fault of a committed store (R252): at its thread's next block boundary; of a thread that has ended, it is an event
(R30). -/
def State.storeFault (s : State) (c id code : Nat) (va : Word) : State :=
  match (s.core c).sq.find? fun x => x.id == id with
  | some x =>
    if s.contexts.any fun y => y.id == x.ctx && y.hold != .ending then s.modCtxId x.ctx fun y => { y with late := y.late ++ [(⟨code, va⟩, x.blk)] }
    else s.tellSupervisor (s.partOf x.ten) 0 (causeWord code true) va x.blk 0 0 none []
  | none => s

/-- Removes the first action that the slot's thread settles. -/
def State.settled (s : State) (c k : Nat) : State :=
  s.modCtx c k fun y => match y.hold with | .settle (_ :: as) _ => { y with hold := .settle as false } | _ => y

/-- An access that waits at a home that is lost: a committed store faults at its thread's next boundary, and leaves its core's queue; a form
that settles goes on; anyone else gets TRANSLATION (R30, R396). -/
def State.failed (s : State) (e : PEv) : State :=
  match e.who, e.sq with
  | .settle c k, _ => s.settled c k
  | _, some (c, id) => (s.storeFault c id 3 e.va).performed c id
  | w, none => s.reply w (.fault ⟨3, e.va⟩)

/-! ## Containment (R399) -/

/-- Quads of a partition on a die: those of its cores, its slices and its vaults. -/
def Part.quadsOn (p : Part) (die : Nat) : List Nat :=
  (List.range 256).filterMap fun n =>
    let q := die * 256 + n
    if p.slices.contains q || p.vaults.contains q || p.cores.any (fun c => coreQuad c == q) then some q else none

/-- The quads of the rectangle that a quad belongs to: a rectangle of RECT, or, together, the partition's quads of the die that no RECT names
(DESIGN CHOICE, log entry 17). -/
def Part.rectOf (p : Part) (q : Nat) : List Nat :=
  let inside (r : Nat × Nat × Nat × Nat × Nat) (x : Nat) : Bool :=
    x / 256 == r.1 && r.2.1 ≤ x % 256 / 16 && x % 256 / 16 < r.2.1 + r.2.2.2.1 && r.2.2.1 ≤ x % 16 && x % 16 < r.2.2.1 + r.2.2.2.2
  match p.rects.find? fun r => inside r q with
  | some r => (p.quadsOn (q / 256)).filter (inside r)
  | none => (p.quadsOn (q / 256)).filter fun x => !p.rects.any fun r => inside r x

/-- Scrubs the 1 MiB of a vault to 0, full. -/
def State.scrubVault (s : State) (v : Nat) : State :=
  let lo := 0x10000000000 + v * 0x100000
  { s with mem := s.mem.filter (fun x => !(lo ≤ x.1 && x.1 < lo + 0x100000)),
           feFlip := s.feFlip.filter fun w => !(lo ≤ 8 * w && 8 * w < lo + 0x100000) }

/-- L2 lines of some slices go without write-back; what waits at them, or is on its way to their tables, finds a fenced home (R396). -/
def State.dropLines (s : State) (slices : List Nat) : State :=
  let here (line : Nat) : Bool := slices.contains (homeOf (128 * line))
  let gone := s.dirs.filter fun d => here d.line
  let lost := (gone.flatMap fun d => d.cur.toList ++ d.held) ++ s.peq.filter fun e => isStack (128 * e.line) && here e.line
  let s := { s with dirs := s.dirs.filter (fun d => !here d.line), peq := s.peq.filter (fun e => !(isStack (128 * e.line) && here e.line)),
                    replicas := s.replicas.filter fun r => !slices.contains (r.1 % 4 * 256 + homeOf (128 * (r.1 / 4)) % 256) }
  let s := gone.foldl (fun s d => match d.old with | some v => s.putLine d.line v | none => s) s
  lost.foldl State.failed s

/-- Who is parked at a fenced home gets TRANSLATION (R396). -/
def State.failWaits (s : State) : State :=
  let gone := s.waits.filter fun w => s.homeFenced (8 * w.word)
  gone.foldl (fun (s : State) (w : Wait) => s.reply w.q.who (.fault ⟨3, w.q.va⟩)) { s with waits := s.waits.filter fun w => !s.homeFenced (8 * w.word) }

/-- The rectangle of a quad is contained, of each partition that holds a part of the quad: fenced, its cores reset, its lines and vaults lost,
an event of EVCODE 2. -/
def State.contain (s : State) (q : Nat) : State :=
  match s.parts.filter fun p => (p.2.quadsOn (q / 256)).contains q with
  | [] => s
  | ps =>
    let qs := ps.flatMap fun p => p.2.rectOf q
    let s := s.resetCores fun c => qs.elem (coreQuad c)
    let s := qs.foldl State.scrubVault (s.dropLines qs)
    let s := { s with lid := { s.lid with contained := qs.foldl linsert s.lid.contained } }.failWaits
    s.mailEvent 2 (q / 256) (q % 256) 0

end Sys2Proof.Machine
end

