-- ==== Sys2Proof/Machine/Sched.lean ====
section
/-!
DEFINITION. Machine/Sched: where contexts are held and how they take and leave slots (R253, R254, R261 to R264, R352,
R353, R376, R405): migration, the arrival queue, the context cache, spill and save records.
-/
namespace Sys2Proof.Machine

/-! ## Records in memory (R261, R405) -/

/-- Writes words at a virtual address of a tenant, each translated and performed as its tag and the domain of its leaf allow (R368,
R384). None where a translation fails. -/
def State.writeVa (s : State) (t : Nat) (va : Word) : List Word → Option State
  | [] => some s
  | w :: ws => match s.place t va .store with
    | some (pa, dom) => State.writeVa (s.writeIn t dom (pa / 8) w 0xFF) t (va + 8) ws
    | none => none

/-- Reads n words at a virtual address of a tenant, as its tag and domain allow (R368, R384); none where a translation fails. -/
def State.readVa (s : State) (t : Nat) (va : Word) : Nat → Option (State × List Word)
  | 0 => some (s, [])
  | n + 1 => match s.place t va .load with
    | some (pa, dom) =>
      let r := s.readIn t dom (pa / 8)
      (State.readVa r.1 t (va + 8) n).map fun q => (q.1, r.2 :: q.2)
    | none => none

/-- The eight words of a vector register. -/
def vecWords (v : Vec) : List Word := (List.range 8).map fun i => v.extractLsb' (64 * i) 64
/-- A vector register from its words. -/
def vecOf (ws : List Word) : Vec :=
  ws.getD 7 0 ++ ws.getD 6 0 ++ ws.getD 5 0 ++ ws.getD 4 0 ++ ws.getD 3 0 ++ ws.getD 2 0 ++ ws.getD 1 0 ++ ws.getD 0 0

/-- The 768-byte form (R261). -/
def Ctx.record768 (x : Ctx) : List Word := x.record ++ x.w.toList.flatMap vecWords

/-- The address of spill (false) or save (true) record r of a tenant on logical core lc (R405). -/
def Tenant.recVa (x : Tenant) (save : Bool) (lc r : Nat) : Word :=
  if save then x.saveBase + BitVec.ofNat 64 (768 * x.saveN * lc + 768 * r) else x.spillBase + BitVec.ofNat 64 (256 * x.spillN * lc + 256 * r)

/-- The records of one area that hold a context of a tenant on a core. -/
def Core.recsOf (k : Core) (t : Nat) (save : Bool) : List Nat :=
  (k.saved.filter fun r => r.1 == t && r.2.2.savedIn == some save).map (·.2.1)

/-- Records per core of an area (Table 22.2). -/
def Tenant.recs (x : Tenant) (save : Bool) : Nat := if save then x.saveN else x.spillN

/-- A context collects its banks that are still in a core's slots (R351), but for slot `but`. -/
def Core.collect (k : Core) (id : Nat) (but : Option Nat) : Core :=
  { k with slots := k.slots.map fun (x : Nat × Slot) => if some x.1 = but then x else (x.1, { x.2 with banks := x.2.banks.map fun t => if t = id + 1 then 0 else t }) }

/-- Writes a context into record r of an area; none where its address fails translation. -/
def State.putRecordAt (s : State) (c : Nat) (save : Bool) (y : Ctx) (r : Nat) : Option State :=
  match s.ten? y.ten with
  | none => none
  | some x => (s.writeVa y.ten (x.recVa save (s.core c).logical r) (if save then y.record768 else y.record)).map fun s =>
      s.modCore c fun k => { (k.collect y.id none) with saved := k.saved ++ [(y.ten, r, { y with savedIn := some save })] }

/-- Writes a context into the free record of lowest number of an area (R405); none where the area is full. -/
def State.putRecord (s : State) (c : Nat) (save : Bool) (y : Ctx) : Option State :=
  match s.ten? y.ten with
  | none => none
  | some x => match (List.range (x.recs save)).find? fun r => !((s.core c).recsOf y.ten save).contains r with
    | some r => s.putRecordAt c save y r
    | none => none

/-- A context as its record gives it back (R261, R349, R405): the flags are those the core keeps; one that was resumed
while its record held it keeps what RESUME gave it. -/
def Ctx.fromRecord (y : Ctx) (save : Bool) (ws : List Word) : Ctx :=
  let z := y.restore ws
  let z := if (ws.getD 16 0).getLsbD 2 && !y.flt then
      { z with g := y.g, pc := y.pc, stklim := y.stklim, scale := y.scale, stat := y.stat, fpm := y.fpm, fmt := y.fmt, lfsr := y.lfsr }
    else z
  { z with w := if save then Vector.ofFn fun i => vecOf ((ws.drop (32 + 8 * i.val)).take 8) else Vector.replicate 8 0,
           mdl := y.mdl, mwait := y.mwait, hnd := y.hnd, flt := y.flt, rdy := y.rdy, msgh := y.msgh, tag := y.tag,
           grps := y.grps, bv := y.bv, bset := y.bset, bph := y.bph, bk := y.bk, savedIn := none }

/-- Reads a record of a core back: its context, and the state without it. -/
def State.takeRecord (s : State) (c : Nat) (r : Nat × Nat × Ctx) : Option (State × Ctx) :=
  let save := r.2.2.savedIn == some true
  match s.ten? r.1 with
  | none => none
  | some x =>
    (s.readVa r.1 (x.recVa save (s.core c).logical r.2.1) (if save then 96 else 32)).map fun q =>
      (q.1.modCore c fun k => { k with saved := k.saved.filter fun q => q.2.2.id != r.2.2.id }, r.2.2.fromRecord save q.2)

/-! ## The context cache (R262, R376) -/

/-- The share of each tenant admitted to a core: the 32 entries divided equally (R376). -/
def State.share (s : State) (c : Nat) : Nat :=
  match (s.tenants.filter fun t => s.admitted c t.1).length with
  | 0 => 0
  | n => 32 / n

/-- Whether a tenant's share of a core's cache has room, and the cache itself, which holds 32 contexts (R1). -/
def State.cacheRoom (s : State) (c t : Nat) : Bool :=
  s.admitted c t && ((s.core c).cache.filter fun y => y.ten == t).length < s.share c && (s.core c).cache.length < 32

/-- Of several contexts, the one that became ready last. -/
def lastReady : List Ctx → Option Ctx
  | [] => none
  | y :: ys => match lastReady ys with
    | some z => if z.clk < y.clk then some y else some z
    | none => some y

/-- The entry of a tenant's share that is written to its save area when the share is full (R262): the oldest that is not
ready, else the one that became ready last. -/
def Core.victim (k : Core) (t : Nat) : Option Ctx :=
  let mine := k.cache.filter fun y => y.ten == t && y.hold != .migrating
  (mine.find? fun y => !y.rdy) <|> lastReady mine

/-- Puts a context into the cache, displacing an entry of its tenant's share into the save area where the share is full;
none where that is not possible. -/
def State.cachePut (s : State) (c : Nat) (y : Ctx) : Option State :=
  let add (s : State) : State := s.modCore c fun k => { k with cache := k.cache ++ [y] }
  if s.cacheRoom c y.ten then some (add s)
  else if !s.admitted c y.ten then none
  else match (s.core c).victim y.ten with
    | none => none
    | some v => ((s.modCore c fun k => { k with cache := k.cache.filter fun z => z.id != v.id }).putRecord c true v).map add

/-! ## Taking and leaving a slot -/

/-- Whether a slot can take a thread; a paired core starts threads in slots 0 to 7 only (R398). -/
def State.slotFree (s : State) (c k : Nat) : Bool :=
  s.coreRuns c && (s.slot c k).ctx.isNone && (!(s.core c).paired || k < 8 && (s.slot c (k + 8)).ctx.isNone)

/-- The free slot of lowest number. -/
def State.freeSlot (s : State) (c : Nat) : Option Nat := (List.range 16).find? fun k => s.slotFree c k

/-- A context takes a slot: counters of another tenant are cleared (R363), a buffered message is drained (R266), and its banks in
other slots are collected (R351). -/
def State.seat (s : State) (c k : Nat) (y : Ctx) : State :=
  let x := s.slot c k
  let r := if y.mdl then (s, y) else match s.drainBuffer y with
    | some (s, y) => (s, { y with mwait := false })
    | none => (s, y)
  let s := r.1.modCore c fun q => q.collect y.id (some k)
  s.setSlot c k { x with ctx := some { r.2 with savedIn := none, clk := s.cycle }, blk := none, handed := none, drain := false,
                           overrun := false, fetch := none, charge := none, ctr := if x.lastTen = y.ten then x.ctr else [], lastTen := y.ten }

/-- Empties a slot; the banks keep their tags (R351). -/
def State.vacate (s : State) (c k : Nat) : State :=
  s.setSlot c k { s.slot c k with ctx := none, blk := none, handed := none, drain := false, overrun := false, fetch := none, charge := none, trap := none }

/-- Displaces the thread of a slot into the context cache (R262, R352): its abortable block is discarded; a runnable
thread is ready from clk t. None where its tenant's save area is full. -/
def State.displaceAt (s : State) (c k t : Nat) : Option State :=
  let s := s.discard c k
  match (s.slot c k).ctx with
  | none => none
  | some y =>
    let z := match y.hold with
      | .run => if y.mwait then { y with rdy := false } else { y with rdy := true, clk := t }
      | .requeued => { y with hold := .run, rdy := true }
      | _ => { y with rdy := false }
    ((s.vacate c k).cachePut c z).map fun s => s.modCore c fun q => { q with dispAt := some s.cycle }

/-- The same, ready from this clk. -/
def State.displace (s : State) (c k : Nat) : Option State := s.displaceAt c k s.cycle

/-! ## Ready contexts (R254, R262) -/

/-- Where a ready context waits. -/
inductive Where where
  | queue (y : Ctx)
  | cache (y : Ctx)
  | record (r : Nat × Nat × Ctx)
  | slot (k : Nat) (y : Ctx)
deriving DecidableEq, Repr

/-- The context. -/
def Where.ctx : Where → Ctx
  | .queue y => y
  | .cache y => y
  | .record r => r.2.2
  | .slot _ y => y

/-- The ready contexts of a core that wait for a slot. -/
def Core.waiting (k : Core) : List Where :=
  ((k.cache.filter fun y => y.rdy && y.hold == .run).map .cache) ++ ((k.saved.filter fun r => r.2.2.rdy && r.2.2.hold == .run).map .record) ++
    (k.arrivals.map .queue) ++
    (k.slots.filterMap fun x => match x.2.ctx with | some y => if y.hold == .requeued then some (.slot x.1 y) else none | none => none)

/-- The one that has waited longest. -/
def oldestOf : List Where → Option Where
  | [] => none
  | a :: as => match oldestOf as with
    | some b => if b.ctx.clk < a.ctx.clk then some b else some a
    | none => some a

/-- Moves the oldest spill record whose tenant's share has room into the cache (R254). -/
def State.spillBack (s : State) (c : Nat) : State :=
  let rs := (s.core c).saved.filter fun r => r.2.2.savedIn == some false && s.cacheRoom c r.1
  match oldestOf (rs.map .record) with
  | some (.record r) => match s.takeRecord c r with
    | some (s, y) => (s.cachePut c y).getD s
    | none => s
  | _ => s

/-- A record that returns displaces an entry of its tenant's share where the share is full; a save record exchanges
places with it (R254, R262). The context then takes the slot. -/
def State.seatRecord (s : State) (c k : Nat) (r : Nat × Nat × Ctx) : Option State :=
  match s.takeRecord c r with
  | none => none
  | some (s, y) =>
    if s.cacheRoom c y.ten then some (s.seat c k y)
    else match (s.core c).victim y.ten with
      | none => some (s.seat c k y)
      | some v =>
        let s' := s.modCore c fun q => { q with cache := q.cache.filter fun z => z.id != v.id }
        let put := if r.2.2.savedIn == some true then s'.putRecordAt c true v r.2.1 else s'.putRecord c true v
        some ((put.getD s).seat c k y)

/-- SLOT_FILL (R254): the free slot of lowest number of core n takes the ready context that has waited longest. -/
def execSlotFill (s : State) : Out :=
  let c := s.focus.n
  match oldestOf (s.core c).waiting, s.freeSlot c with
  | some (.slot k _), _ => .next (s.modCtx c k fun y => { y with hold := .run, clk := s.cycle })
  | some (.cache y), some k => .next (((s.modCore c fun q => { q with cache := q.cache.filter fun z => z.id != y.id }).seat c k y).spillBack c)
  | some (.record r), some k => match s.seatRecord c k r with
    | some s => .next (s.spillBack c)
    | none => .fault .notEnabled
  | some (.queue y), some k => .next (((s.modCore c fun q => { q with arrivals := q.arrivals.filter fun z => z.id != y.id }).seat c k y).spillBack c)
  | _, _ => .fault .notEnabled

/-- ARRIVAL_QUEUE_ADVANCE (R254): the head of core n's arrival queue moves by the first rule that applies. -/
def execArrivalQueueAdvance (s : State) : Out :=
  let c := s.focus.n
  match (s.core c).arrivals with
  | [] => .fault .notEnabled
  | y :: rest =>
    let t := s.modCore c fun q => { q with arrivals := rest }
    let others := (s.core c).waiting.any fun w => w.ctx.id != y.id
    match s.freeSlot c, others with
    | some k, false => .next (t.seat c k y)
    | _, _ =>
      if ((s.core c).recsOf y.ten false).isEmpty && s.cacheRoom c y.ten then
        .next (t.modCore c fun q => { q with cache := q.cache ++ [y] })
      else match t.putRecord c false y with
        | some s => .next s
        | none => .fault .notEnabled

/-! ## Migration (R253, R254, R264, R284) -/

/-- Finds the context of a migration in its sending slot or, after a slot edge, in the sending core's cache. -/
def State.migrant (s : State) (c k id : Nat) : Option Ctx :=
  match (s.slot c k).ctx with
  | some y => if y.id = id && y.hold == .migrating then some y else (s.core c).cache.find? fun z => z.id == id
  | none => (s.core c).cache.find? fun z => z.id == id

/-- Takes the migrating context out of where it is held. -/
def State.removeMigrant (s : State) (c k id : Nat) : State :=
  let s := s.modCore c fun q => q.collect id none
  match (s.slot c k).ctx with
  | some y => if y.id = id then s.vacate c k else s.modCore c fun q => { q with cache := q.cache.filter fun z => z.id != id }
  | none => s.modCore c fun q => { q with cache := q.cache.filter fun z => z.id != id }

/-- Whether a core's arrival queue accepts a context of a tenant (R254, R376). -/
def State.acceptsArrival (s : State) (c t : Nat) : Bool :=
  s.coreRuns c && (s.core c).arrivals.length < 16 && s.partOf t == (s.core c).tag &&
    (match s.sideNow c with | some o => o == t | none => s.admitted c t)

/-- MIGRATION_ARRIVAL (R254): message n reaches its destination once its thread's own stores are performed (R234). -/
def execMigrationArrival (s : State) : Out :=
  match s.inFlight s.focus.n with
  | some ⟨_, tag, _, _, .migr core id c k⟩ => match s.migrant c k id with
    | none => .fault .notEnabled
    | some y =>
      if !s.drained c id .sys then .fault .notEnabled
      else if (s.core core).tag != tag then .next ((s.dropReq s.focus.n).tagFault (s.core core).tag y.ten)
      else if s.acceptsArrival core y.ten then
        .next (((s.dropReq s.focus.n).removeMigrant c k id).modCore core fun q =>
          { q with arrivals := q.arrivals ++ [{ y with hold := .run, rdy := true, clk := s.cycle }] })
      else .next (s.nack s.focus.n Config.resendClk)
  | _ => .fault .notEnabled

/-- MIGRATION_RESEND (R254): counted in 0x0102 of the sending core. -/
def execMigrationResend (s : State) : Out :=
  match s.reqs[s.focus.n]? with
  | some ⟨_, _, _, _, .migr _ _ c _⟩ => (s.countCore c 0x102).resend s.focus.n fun _ => true
  | _ => .fault .notEnabled

/-! ## Displacement (R263, R352, R353) -/

/-- Whether a ready context waits at a core and no slot is free, and nothing was displaced in this clk. -/
def State.mayDisplace (s : State) (c : Nat) : Bool :=
  !(s.core c).waiting.isEmpty && (s.freeSlot c).isNone && (s.core c).dispAt != some s.cycle

/-- The clk of the stop of a context that waits on RESUME or at a breakpoint; a stopped first-use trap waits from its stop on. -/
def Ctx.stoppedAt (y : Ctx) : Option Nat :=
  match y.hold with | .stopped t => some t | .paused t => some t | .tileSave _ => some y.clk | _ => none

/-- The slots of stopped contexts, oldest stop first, then by slot number (R352). A block past its point of no return that a
first-use trap keeps holds its slot (R341). -/
def Core.stoppedSlots (k : Core) : List Nat :=
  let l := (List.range 16).filterMap fun n => match (k.slot n).ctx, (k.slot n).blk with | some y, none => y.stoppedAt.map fun t => (t, n) | _, _ => none
  (l.foldl (fun r x => (r.takeWhile fun y => y.1 ≤ x.1) ++ x :: (r.dropWhile fun y => y.1 ≤ x.1)) []).map (·.2)

/-- The first slot of a list that can be displaced. -/
def State.displaceFirst (s : State) (c : Nat) : List Nat → Option State
  | [] => none
  | k :: ks => match s.displace c k with
    | some s => some s
    | none => State.displaceFirst s c ks

/-- Whether a slot named in PRE holds something to displace: a block past its point of no return commits first (R262). -/
def Slot.preempts (x : Slot) : Bool :=
  match x.ctx with
  | some y => (y.hold == .run || y.stoppedAt.isSome || y.hold == .requeued) && !x.blk.any Block.ponr
  | none => false

/-- The slots named in PRE that can be displaced, which come first (R352). -/
def Core.preSlots (k : Core) : List Nat := k.pre.filter fun n => (k.slot n).preempts

/-- CONTEXT_DISPLACE (R349, R352): core n displaces a thread that was stopped; a resumed context that waits in its slot
enters the cache once its share has room. -/
def execContextDisplace (s : State) : Out :=
  let c := s.focus.n
  match (s.core c).slots.findSome? (fun x => match x.2.ctx with
      | some y => if y.hold == .requeued && s.cacheRoom c y.ten then some (x.1, y) else none | none => none) with
  | some (k, y) => .next ((s.vacate c k).modCore c fun q => { q with cache := q.cache ++ [{ y with hold := .run }] })
  | none =>
    if s.mayDisplace c && (s.core c).preSlots.isEmpty then
      match s.displaceFirst c (s.core c).stoppedSlots with
      | some s => .next s
      | none => .fault .notEnabled
    else .fault .notEnabled

/-- Slots in message wait for at least 4,096 clk, longest wait first. -/
def State.longWaits (s : State) (c : Nat) : List Nat :=
  let l := (List.range 16).filterMap fun n => match (s.slot c n).ctx with
    | some y => if y.mwait && y.hold == .run && y.clk + Config.swapClk ≤ s.cycle then some (y.clk, n) else none | none => none
  (l.foldl (fun r x => (r.takeWhile fun y => y.1 ≤ x.1) ++ x :: (r.dropWhile fun y => y.1 ≤ x.1)) []).map (·.2)

/-- MESSAGE_WAIT_SWAP (R263, R352): core n, where no other thread is to be displaced first. -/
def execMessageWaitSwap (s : State) : Out :=
  let c := s.focus.n
  if s.mayDisplace c && (s.core c).preSlots.isEmpty && (s.displaceFirst c (s.core c).stoppedSlots).isNone then
    match s.displaceFirst s.focus.n (s.longWaits s.focus.n) with
    | some s => .next s
    | none => .fault .notEnabled
  else .fault .notEnabled

/-- SR_PART_PRE (R262, R352, Table 21.8): slot k of core c, named in PRE, is displaced, one slot of a core in a clk; a block past
its point of no return commits first. A slot that holds nothing to displace, or whose tenant's save area is full, is passed over. -/
def execSrPartPre (s : State) : Out :=
  let c := s.focus.c
  let k := s.focus.k
  if !(s.core c).pre.contains k || (s.core c).dispAt == some s.cycle then .fault .notEnabled
  else
    let done := s.modCore c fun q => { q with pre := lremove q.pre k }
    match (s.slot c k).ctx with
    | none => .next done
    | some _ => if (s.slot c k).preempts then .next ((done.displace c k).getD done) else .fault .notEnabled

end Sys2Proof.Machine
end

