-- ==== Sys2Proof/Machine/Block.lean ====
section
/-!
DEFINITION. Machine/Block: a core's reset, fetch and decode of a block (R36, R51, R55, R57, R351, R398, R400), the replies
that reach its instructions (R33, R37, R183) and TLB walks (R191, R194).
-/
namespace Sys2Proof.Machine

/-- A core as its reset leaves it: s = 15, tiles +0, sr.accown clear, nothing held (R36, R329); its tag and logical number
are the Lid's. -/
def Core.afterReset (k : Core) : Core := { tag := k.tag, logical := k.logical }

/-- CORE_RESET (R36): core n. -/
def execCoreReset (s : State) : Out := .next (s.modCore s.focus.n Core.afterReset)

/-! ## Fetch (R57, R177, R192) -/

/-- Translation of a fetch through its core's TLB (R177, R192 to R194); `bad` is what the slot's last walk came to. -/
def State.fetchXl (s : State) (c t : Nat) (bad : Option (Nat × Bool)) (va : Word) : Xl :=
  s.xlate c t (match bad with | some (p, true) => [(p, va)] | _ => []) va .fetch

/-- The 64 bytes at a physical address, byte 0 in bits 7:0. R57 reads each aligned 8 bytes as one access; the model reads the eight in one step,
so a fetch sees no store without the stores ordered before it (DESIGN CHOICE, log entry 12). -/
def State.line64 (s : State) (pa : Nat) : BitVec 512 :=
  s.word (pa / 8 + 7) ++ s.word (pa / 8 + 6) ++ s.word (pa / 8 + 5) ++ s.word (pa / 8 + 4) ++
    s.word (pa / 8 + 3) ++ s.word (pa / 8 + 2) ++ s.word (pa / 8 + 1) ++ s.word (pa / 8)

/-- A line through the core's instruction cache of 512 lines (R1), which takes no updates; `again` fetches it anew. Which line
leaves a full cache the spec does not say: the one that was fetched first (DESIGN CHOICE, log entry 12). A domain mismatch reads zeros
(R384); what a window holds is free, and so is what a fetch that is dropped for its tag brings (log entries 13, 59). -/
def State.fetchLine (s : State) (c t pa dom : Nat) (again : Bool) : State × BitVec 512 :=
  match (s.core c).icache.find? (fun x => x.1 == pa / 64), again, s.verdict t pa dom with
  | some x, false, .ok => (s, x.2)
  | _, _, .ok =>
    let d := s.line64 pa
    (s.modCore c fun k => { k with icache := ((pa / 64, d) :: k.icache.filter fun x => x.1 != pa / 64).take 512 }, d)
  | _, _, .domain => (s.domainFault t, 0)
  | _, _, _ =>
    let r := s.readWordsIn t dom (pa / 8) 8
    (r.1, BitVec.ofNat 512 (r.2.foldr (fun v (a : Nat) => v.toNat + 2 ^ 64 * a) 0))

/-- Lines i, i + 1, … of a block, n of them at most: those fetched, and the address of the first that is not, with whether its
translation misses the TLB. -/
def State.fetchLines (s : State) (c t : Nat) (bad : Option (Nat × Bool)) (addr : Word) (again : Nat) :
    Nat → Nat → State × List (BitVec 512) × Option (Word × Bool)
  | 0, _ => (s, [], none)
  | n + 1, i =>
    let va := addr + BitVec.ofNat 64 (64 * i)
    match s.fetchXl c t bad va with
    | .ok pa _ dom =>
      let r := s.fetchLine c t pa dom (again.testBit i)
      let q := State.fetchLines r.1 c t bad addr again n (i + 1)
      (q.1, r.2 :: q.2.1, q.2.2)
    | .miss => (s, [], some (va, true))
    | .fault => (s, [], some (va, false))

/-! ## Banks (R351) -/

/-- The banks that a block header's masks name: GL, GH, WL, WH. -/
def hdrBanks (hdr : Word) : List Bool :=
  let g := hdr.extractLsb' 48 16 ||| hdr.extractLsb' 32 16
  let w := hdr.extractLsb' 24 8 ||| hdr.extractLsb' 16 8
  [g.extractLsb' 0 8 != 0, g.extractLsb' 8 8 != 0, w.extractLsb' 0 4 != 0, w.extractLsb' 4 4 != 0]

/-- Clk of the claims of banks tagged with another context. -/
def claimClk (tags : List Nat) (need : List Bool) (id : Nat) : Nat :=
  ((tags.zip need).zip [4, 4, 8, 8]).foldl (fun n x => if x.1.2 && x.1.1 != id + 1 then n + x.2 else n) 0

/-- The tags after the claims. -/
def claimTags (tags : List Nat) (need : List Bool) (id : Nat) : List Nat :=
  (tags.zip need).map fun x => if x.2 then id + 1 else x.1

/-! ## Decode -/

/-- A decoded block in its slot, ready from the second clk after the commit before it, and after its bank claims (R26,
R351); a paired core runs it in slot k + 8 as well (R398). -/
def State.beginBlock (s : State) (c k : Nat) (y : Ctx) (hdr : Word) (lnc : Nat) (is : List Insn) : State :=
  let x := s.slot c k
  let need := hdrBanks hdr
  let start := max (s.cycle + 1) (y.clk + 2) + claimClk x.banks need y.id
  let b : Block := { addr := y.pc, rid := s.nextId, lnc := lnc, hdr := hdr, body := is.map fun i => { insn := i }, start := start, began := start,
                     accown := (s.core c).accown }
  let y := { y with pass := false }
  let s := { s with nextId := s.nextId + 2 }
  let s := s.setSlot c k { x with ctx := some y, blk := some b, banks := claimTags x.banks need y.id }
  if (s.core c).paired then
    let z := s.slot c (k + 8)
    s.setSlot c (k + 8) { z with ctx := some y, blk := some { b with rid := b.rid + 1 } }
  else s

/-- A fetch that has no translation of an address: its miss goes to a walker, and the slot waits (R194); or the context stops
(R177). -/
def State.fetchFails (s : State) (c k : Nat) (y : Ctx) (x : Word × Bool) : State :=
  if x.2 then
    let page := x.1.toNat / 65536
    (s.setSlot c k { s.slot c k with fetch := some (page, false) }).sendPkt (s.core c).tag (.walk c y.ten page)
  else s.stop c k ⟨3, x.1⟩ false y.pc y.pc

/-- Fetches and decodes the block at the context's pc (R51, R55): the first line gives their number. -/
def State.decodeNext (s : State) (c k : Nat) (y : Ctx) (again : Nat) : State :=
  let walked := (s.slot c k).fetch
  let s := s.setSlot c k { s.slot c k with fetch := none }
  let f := s.fetchLines c y.ten walked y.pc again 1 0
  match f.2.1 with
  | [] => f.1.fetchFails c k y (f.2.2.getD (y.pc, false))
  | l0 :: _ =>
    let r := f.1.fetchLines c y.ten walked y.pc again (if lineB l0 then lineCount l0 - 1 else 0) 1
    let s := r.1
    let bad (v : Nat) : State := s.stop c k ⟨1, BitVec.ofNat 64 v⟩ false y.pc y.pc
    match decodeLines (l0 :: r.2.1) 0 0 with
    | .error v => bad v
    | .ok _ => match r.2.2 with
      | some x => s.fetchFails c k y x
      | none => match decodeBlock (l0 :: r.2.1) with
        | .error v => bad v
        | .ok is => s.beginBlock c k y (lineHeader l0) (lineCount l0 - 1) is

/-- Stops issue for a tenant on a core (R400): the context that met the breakpoint waits for resume. -/
def State.debugBreak (s : State) (c k : Nat) (atBreakpoint : Bool) : State :=
  match (s.slot c k).ctx with
  | none => s
  | some y => (s.modCtx c k fun y => { y with hold := .paused s.cycle, pass := atBreakpoint }).modCore c fun q =>
      { q with dbgStop := linsert q.dbgStop y.ten }

/-- BLOCK_DECODE (R55): slot k of core c, whose thread is between blocks. A stop that waits for the block boundary comes
first (R252, R295), then a breakpoint at the block's address (R400). `n` says which lines are fetched anew. -/
def execBlockDecode (s : State) : Out :=
  let c := s.focus.c
  let k := s.focus.k
  match (s.slot c k).ctx, (s.slot c k).blk with
  | some y, none =>
    if y.hold != .run || ((s.core c).paired && 8 ≤ k) then .fault .notEnabled
    else match y.late with
      | (cause, addr) :: rest => .next ((s.modCtx c k fun y => { y with late := rest }).stop c k cause true addr y.pc)
      | [] =>
        if !s.inRotation c k || y.mwait || (match (s.slot c k).fetch with | some (_, false) => true | _ => false) then .fault .notEnabled
        else if (s.core c).brks.contains y.pc && !y.pass then .next (s.debugBreak c k true)
        else .next (s.decodeNext c k y s.focus.n)
  | _, _ => .fault .notEnabled

/-! ## Replies (R37) -/

/-- A reply's words are no longer wanted: with none left the instruction is carried on, or, where some of them were not taken, waits for
the acquires before it (R212). -/
def Entry.settleWant (e : Entry) (ws : List (Nat × Word)) : Entry :=
  let w := { e with want := e.want.filter fun n => !ws.any (·.1 == n) }
  if w.want.isEmpty then { w with phase := if w.late then .held else .retry } else w
/-- Words the instruction wanted arrive. -/
def Entry.receive (e : Entry) (ws : List (Nat × Word)) : Entry := { e with words := e.words ++ ws }.settleWant ws
/-- They arrive and are not taken: they are to be read again. -/
def Entry.refuse (e : Entry) (ws : List (Nat × Word)) : Entry := { e with late := true }.settleWant ws

/-- The instruction that a reply names, in its run. -/
def State.hereOf (s : State) (c k rid i : Nat) : Option Here :=
  let x := s.slot c k
  match x.ctx, x.blk with
  | some y, some b => if b.rid = rid then (b.body[i]?).map fun e => ⟨c, k, i, x, y, b, e⟩ else none
  | _, _ => none

/-- Bytes of a word that a form's result leaves to the block's own stores: ldfw and ldfn take each byte from the stores of
lower LSID in their block (R24, R216). An ldfn that found the word empty takes them too, over 0 and with status 0 (DESIGN CHOICE, log entry
70). -/
def Here.overOwn (h : Here) (p : Tok) : Tok :=
  match h.e.insn.row, p, h.e.words with
  | .ldfw, .sc v, (w, _) :: _ => .sc (overlay (h.b.writesBelow h.lsid) w v)
  | .ldfn, .sc v, (w, _) :: _ => .sc (overlay (h.b.writesBelow h.lsid) w v)
  | _, p, _ => p

/-- The layout a core holds for a handle (R199). -/
def Core.setLayout (k : Core) (t h l sp : Nat) (seed : Word) : Core :=
  { k with layouts := (t, h, l, sp, seed) :: k.layouts.filter fun x => !(x.1 == t && x.2.1 == h) }
def Core.dropLayout (k : Core) (t h : Nat) : Core := { k with layouts := k.layouts.filter fun x => !(x.1 == t && x.2.1 == h) }

/-- Completes a form with a reply's results: its LSID counts for R33 where it is a load. -/
def State.completed (s : State) (h : Here) (p st : Tok) : State :=
  let s := if h.e.insn.isLoad && p != .null then
      s.modBlk h.c h.k fun b => { b with loads := b.loads ++ (h.e.words.take 1).map fun w => (h.lsid, w.1 / 16) }
    else s
  s.memResult h (h.overOwn p) st 1

/-- What a reply does at its instruction. -/
def State.takeReply (s : State) (h : Here) (r : Reply) : State :=
  match r with
  | .words ws => (s.phase h fun e => e.receive ws).modBlk h.c h.k fun b => b.has h.lsid (linesOf (ws.map (·.1)))
  | .result p st => s.completed h p st
  | .layout p st t m l sp seed => (s.modCore h.c fun k => k.setLayout t m l sp seed).completed h p st
  | .turnedAway x t m l sp seed => (s.modCore h.c fun k => k.setLayout t m l sp seed).raise h x.code x.val
  | .noMap t m => (s.modCore h.c fun k => k.dropLayout t m).raise h 12 (BitVec.ofNat 64 m)
  | .fault c => s.raise h c.code c.val

/-- The words of a load that was sent before an acquire of a lower LSID was complete, where no invalidation will call them back or one
has (the line is not installed): they are not taken, and the load reads them again after the acquire (R33, R212, R231). -/
def Entry.tooEarly (e : Entry) (r : Reply) (held : Bool) : Option (List (Nat × Word)) :=
  match r with
  | .words ws => if e.early && !held then some ws else none
  | _ => none

/-- Whether an update of a line is on its way to a core. -/
def State.updating (s : State) (c line : Nat) : Bool :=
  s.reqs.any fun r => match r.pkt with | .inv d l (some _) => d == c && l == line | _ => false

/-- MEMORY_REPLY (R37, R183): reply n reaches its core. A fill's line is installed, tagged with the tenant that asked for it, where
it may be, no new write overtook it and no update is on its way to it. A reply to a run that is no more has no other effect. -/
def execMemoryReply (s : State) : Out :=
  match s.inFlight s.focus.n with
  | some ⟨_, _, _, _, .reply c k rid i r line install⟩ =>
    let s := s.dropReq s.focus.n
    let mine (l : Nat) (f : Fill) : Bool := f.rid == rid && f.idx == i && f.line == l
    let fill := line.bind fun x => (s.core c).fills.find? (mine x.1)
    let held := install && (match fill with | some f => !f.stale && !s.updating c f.line | none => false)
    let s := match line, fill with
      | some (l, d), some f =>
        let s := s.modCore c fun q => { q with fills := q.fills.eraseP (mine l) }
        if held then s.modCore c fun q => q.l1Install f.ten l d else s
      | _, _ => s
    match s.hereOf c k rid i with
    | some h =>
      match h.e.tooEarly r held with
      | some ws => .next (s.phase h fun e => e.refuse ws)
      | none => .next (s.takeReply h r)
    | none => .next s
  | _ => .fault .notEnabled

/-! ## Invalidations (R33, R183, R237) -/

/-- Replays of R33 on a core, for the lines that are invalidated. -/
def State.replay33 (s : State) (c : Nat) (line : Nat → Bool) : State :=
  (s.core c).slots.foldl (fun s x => match x.2.blk with
    | some b => if !b.ponr && b.broken33 line && (!(s.core c).paired || x.1 < 8) then
        (s.replay c x.1 (s.cycle + 1) fun b => { b with replays := b.replays + 1 }).countSlot c x.1 2
      else s
    | none => s) s

/-- Whether a packet is an invalidation or update of a line for a core. -/
def Pkt.forCopy (c line : Nat) : Pkt → Bool
  | .inv d l _ => d == c && l == line
  | _ => false

/-- A core's L1 after an invalidation of a line, or an update with what it writes (R247). -/
def Core.l1Update (k : Core) (line : Nat) : Option (List Wr) → Core
  | none => k.l1Drop line
  | some ws => { k with l1 := k.l1.map fun x => if x.line = line then { x with data := lineOver ws x.data } else x }

/-- INVALIDATION_RECEIVED (R33, R183, R237): invalidation or update n, the oldest of its line on its way to its core, reaches it; a fill in
flight is not installed. It is acknowledged at once (R242). -/
def execInvalidationReceived (s : State) : Out :=
  match s.inFlight s.focus.n with
  | some ⟨_, tag, _, _, .inv c l upd⟩ =>
    if (s.reqs.take s.focus.n).any fun r => r.pkt.forCopy c l then .fault .notEnabled
    else
      let s := s.dropReq s.focus.n
      let s := s.modCore c fun k => { (k.l1Update l upd) with fills := k.fills.map (Fill.seen fun n => n == l) }
      let s := s.replay33 c fun n => n == l
      .next (s.sendPkt tag (.ack l (if upd.isSome then 8 else 7)))
  | _ => .fault .notEnabled

/-! ## Walks (R191, R194, R355) -/

/-- The walkers' walks of one logical slice of a partition. -/
def State.walksAt (s : State) (p sl : Nat) : List Walk := s.walks.filter fun w => w.part == p && w.slice == sl

/-- WALK_REQUEST (R194): miss n reaches its walker: it joins a walk of its page, starts, is queued, or is NACKed. -/
def execWalkRequest (s : State) : Out :=
  match s.inFlight s.focus.n with
  | some ⟨_, _, _, _, .walk c t page⟩ =>
    let p := (s.core c).tag
    let sl := page * 65536 / 2 ^ 21 % max 1 (s.nslices p)
    let gone := s.dropReq s.focus.n
    if s.sliceDown p sl then .fault .notEnabled
    else if s.walks.any fun w => w.part == p && w.ten == t && w.page == page then
      .next { gone with walks := s.walks.map fun w => if w.part = p && w.ten = t && w.page = page then { w with cores := linsert w.cores c } else w }
    else
      let here := s.walksAt p sl
      let add (run : Bool) : Out := .next { gone with walks := s.walks ++ [⟨p, sl, t, page, run, [c]⟩] }
      if (here.filter (·.running)).length < 16 then add true
      else if (here.filter fun w => !w.running).length < 64 then add false
      else .next (s.nack s.focus.n Config.walkResendClk)
  | _ => .fault .notEnabled

/-- WALK_RESEND (R194): NACKed miss n. -/
def execWalkResend (s : State) : Out := s.resend s.focus.n fun p => match p with | .walk _ _ _ => true | _ => false

/-- Installs an entry in a TLB of 256 entries (R193). Which entry leaves a full TLB the spec does not say: the one that was
installed first (DESIGN CHOICE, log entry 8). -/
def Core.tlbAdd (k : Core) (e : TlbEnt) : Core :=
  { k with tlb := (e :: k.tlb.filter fun x => !(x.ten == e.ten && x.base == e.base && x.size == e.size)).take 256 }

/-- What the end of a walk of a page brings to the instructions of a block that wait for it. -/
def Block.walked (b : Block) (page : Nat) (ok : Bool) : Block :=
  let waits (e : Entry) : Bool := e.phase == .xlate && e.reqPage == page
  if b.body.any waits then
    { b with body := b.body.map fun e => if waits e then { e with phase := .retry } else e,
             bad := if ok then b.bad else b.bad ++ [(page, BitVec.ofNat 64 (page * 65536))] }
  else b

/-- WALK_DONE (R191, R194, R355): walk n of s.walks ends: each requester installs the entry, or faults its own blocks; the
walker takes its next request. -/
def execWalkDone (s : State) : Out :=
  match s.walks[s.focus.n]? with
  | some w =>
    if !w.running || s.sliceDown w.part w.slice then .fault .notEnabled
    else
      let r := s.walk w.ten (BitVec.ofNat 64 (w.page * 65536))
      let rest := removeAt s.walks s.focus.n
      let rest := match rest.findIdx? fun x => x.part == w.part && x.slice == w.slice && !x.running with
        | some n => rest.modify n fun x => { x with running := true }
        | none => rest
      if s.walkWaits w.ten (BitVec.ofNat 64 (w.page * 65536)) then .fault .notEnabled
      else .next (w.cores.foldl (fun s c =>
        let s := match r with
          | some (base, size, pte) => s.modCore c fun k => k.tlbAdd ⟨base, size, pte, w.ten, k.epoch⟩
          | none => s
        s.modCore c fun k => { k with slots := k.slots.map fun (x : Nat × Slot) =>
          match x.2.ctx with
          | some y => if y.ten = w.ten then (x.1, { x.2 with
              blk := x.2.blk.map (fun b => b.walked w.page r.isSome),
              fetch := if x.2.fetch = some (w.page, false) then (if r.isSome then none else some (w.page, true)) else x.2.fetch }) else x
          | none => x }) { s with walks := rest })
  | none => .fault .notEnabled

end Sys2Proof.Machine
end

