-- ==== Sys2Proof/Machine/Commit.lean ====
section
/-!
DEFINITION. Machine/Commit: the commit of a block (R25 to R27, R30, R34, R35, R100, R253, R260, R341, R357, R364, R365,
R366, R398, R401) and what its system forms do after it (R357 to R362).
-/
namespace Sys2Proof.Machine

/-! ## Order within a block -/

/-- Inserts by number, behind equal numbers. -/
def insertByNo {α : Type} (x : Nat × α) : List (Nat × α) → List (Nat × α)
  | [] => [x]
  | y :: ys => if x.1 < y.1 then x :: y :: ys else y :: insertByNo x ys

/-- Sorts by number, keeping the order of equal numbers. -/
def sortByNo {α : Type} (l : List (Nat × α)) : List (Nat × α) := l.foldl (fun r x => insertByNo x r) []

/-- The block's commit actions in index order. -/
def Block.ordered (b : Block) : List Act := (sortByNo b.acts).map (·.2)

/-- The LSID of the instruction at an index. -/
def Block.lsidAt (b : Block) (i : Nat) : Option Nat := (b.body[i]?).bind fun e => e.insn.lsid?

/-! ## Register writes (R21, R22, R27) -/

/-- The bytes that a null mask names, all ones. -/
def maskBytes (n : NullMask) : Vec := BitVec.ofNat 512 ((List.range 64).foldl (fun a i => if n.getLsbD i then a + 255 * 2 ^ (8 * i) else a) 0)

/-- A vector register updated on the non-null bytes of a token. -/
def blend (old v : Vec) (n : NullMask) : Vec := (old &&& maskBytes n) ||| (v &&& ~~~maskBytes n)

/-- One register write: a null leaves the register as it was. -/
def Ctx.writeReg (y : Ctx) (r : Nat × Tok) : Ctx :=
  if r.1 < 16 then (match r.2.scalar with | some v => y.setG (BitVec.ofNat 4 r.1) v | none => y)
  else
    let n := BitVec.ofNat 3 (r.1 - 16)
    let v := r.2.vector
    y.setW n (blend (y.vreg n) v.1 v.2)

/-! ## The store queue (R25, R27, R167, R295, R298, R335, R336) -/

/-- The sets that the block's gjoins newly name, and those its gleaves name, each once. -/
def Block.newSets (b : Block) (y : Ctx) : List Nat :=
  joinsOf y.groups ((sortByNo b.acts).filterMap fun a => match a.2 with | .join m => some (a.1, m) | _ => none)

/-- What an action puts into the store queue: a gjoin or gleave that names its set first, a launch, an engine request. -/
def Block.queued (b : Block) (y : Ctx) (a : Nat × Act) : List SqKind :=
  let first (p : Act → Bool) : Bool := ((sortByNo b.acts).find? fun x => p x.2).map (·.1) == some a.1
  match a.2 with
  | .join m => if !y.groups.contains m && first (fun x => match x with | .join n => n == m | _ => false) then [.join m b.addr] else []
  | .leave m => if first (fun x => match x with | .leave n => n == m | _ => false) then
      [.leave m (((b.curTok y).filter fun t => t.set == m).map BarTok.ph)] else []
  | .launch pa va cnt q d e => [.launch ⟨y.ten, q, pa, va, cnt, d, e⟩]
  | .ecfg e v r img cwa => [.ecfg e v r img cwa]
  | .ecancel e v cwa => [.ecancel e v cwa]
  | _ => []

/-- A settled store as store queue entries: a strel is a release, a fence.rel or fence.full leaves its mark. -/
def Block.storeKinds (b : Block) (x : Nat × Bool × List Wr) : List SqKind :=
  let sc := ((b.rels.find? (·.1 == x.1)).map (·.2)).getD .sys
  if x.2.1 then (if x.2.2.isEmpty then [.mark sc] else x.2.2.map fun w => .rel w sc) else x.2.2.map .st

/-- What the block puts into its core's store queue: by LSID, then the push of w6, then the push of w7. -/
def Block.toQueue (b : Block) (y : Ctx) : List SqKind :=
  ((List.range 16).flatMap fun n =>
    (b.stores.filter (·.1 == n)).flatMap b.storeKinds ++
      (b.acts.filter fun a => b.lsidAt a.1 == some n).flatMap (b.queued y)) ++
  ([0, 1].flatMap fun n => b.acts.flatMap fun a => match a.2 with | .push m ws _ => if m = n then ws.map .st else [] | _ => [])

/-- Enters entries at the tail of a core's store queue. -/
def State.enqueue (s : State) (c k : Nat) (y : Ctx) (blk : Word) (l : List SqKind) : State :=
  let es := l.zipIdx.map fun x : SqKind × Nat => ({ id := s.nextId + x.2, ctx := y.id, slot := k, ten := y.ten, blk := blk, kind := x.1 } : SqEnt)
  { s.modCore c fun q => { q with sq := q.sq ++ es } with nextId := s.nextId + l.length }

/-! ## Actions on the context (R113, R163, R165, R166, R258, R267, R272, R273, R295, R366) -/

/-- The advance of a stream by a pop or push. -/
def Stream.advance (t : Stream) (k : Nat) : Stream := if k = 0 then { t with ovr := true } else { t with pos := t.pos + k }

/-- A write of sr.s6cfg or sr.s7cfg: POS, clamped to N, and OVER of a bound stream. -/
def Stream.setCfg (t : Stream) (v : Word) : Stream :=
  if t.bound then { t with pos := min (v.toNat / 65536) t.num, ovr := v.getLsbD 1 } else t

/-- Places a set number in the lowest free GRPS entry. -/
def addGroup (n : BitVec 12) : List (Option (BitVec 12)) → List (Option (BitVec 12))
  | [] => []
  | none :: r => some n :: r
  | g :: r => g :: addGroup n r

/-- srwr of the context's own registers. -/
def Ctx.srwr (y : Ctx) (i : Nat) (v : Word) : Ctx :=
  match i with
  | 0 => { y with stat := cleanStat v }
  | 1 => { y with fpm := cleanFpm v }
  | 2 => { y with stklim := v }
  | 3 => { y with fmt := cleanFmt v }
  | 4 => { y with scale := cleanScale v }
  | 10 => y.setStream 0 (y.s6.setCfg v)
  | 11 => y.setStream 1 (y.s7.setCfg v)
  | 12 => { y with lfsr := cleanLfsr v }
  | _ => y

/-- Pops and pushes advance their streams first. -/
def Ctx.advanceAct (y : Ctx) (a : Act) : Ctx :=
  match a with
  | .pop n k => y.setStream n ((y.stream n).advance k)
  | .push n _ k => y.setStream n ((y.stream n).advance k)
  | _ => y

/-- The other actions on the context. -/
def Ctx.commitAct (y : Ctx) (a : Act) : Ctx :=
  match a with
  | .srwr i v => y.srwr i v
  | .fseed v => { y with lfsr := cleanLfsr v }
  | .sbind n d => y.setStream n { bound := true, desc := d }
  | .sfree n => (y.setStream n {}).setW (if n = 0 then 6 else 7) 0
  | .clearMdl => { y with mdl := false }
  | .join m => if y.groups.contains m then y else { y with grps := addGroup (BitVec.ofNat 12 m) y.grps }
  | .leave m =>
    let y := if y.tok.any fun t => t.set == m then y.withTok none else y
    { y with grps := y.grps.map fun g => if g = some (BitVec.ofNat 12 m) then none else g }
  | _ => y

/-- The draws of a whole block (R109, R132). -/
def Block.draws (b : Block) (y : Ctx) (clk : Nat) : Nat :=
  match b.body with
  | [] => 0
  | e :: _ => ((Here.drawsBelow ⟨0, 0, 0, {}, y, b, e⟩ clk b.body.length).getD 0)

/-- Whether an action is a gjoin of a set that the thread is in as the block begins: it changes nothing (R295). -/
def Ctx.rejoins (y : Ctx) (a : Act) : Bool := match a with | .join m => y.groups.contains m | _ => false

/-- The context after the block's register writes, flags and actions (R27). -/
def Ctx.afterBlock (y : Ctx) (b : Block) (clk : Nat) : Ctx :=
  let z := b.regs.foldl Ctx.writeReg y
  let z := { z with lfsr := drawStates y.lfsr (b.draws y clk) }
  let z := b.ordered.foldl Ctx.advanceAct z
  let z := z.withTok (b.curTok y)
  let z := (b.ordered.filter fun a => !y.rejoins a).foldl Ctx.commitAct z
  let z := { z with stat := z.stat ||| b.flags.zeroExtend 64 }
  match b.taken with
  | some n => { z with tag := (z.tag &&& 0xF800) ||| BitVec.ofNat 16 n }
  | none => z

/-! ## Actions on the core (R302, R308, R310, R366) -/

/-- Commands a block's commit sends to the slice (R311). -/
def Block.mxCount (b : Block) : Nat :=
  (b.acts.filter fun a => match a.2 with | .mma _ _ _ => true | .mzero _ => true | .mgang _ _ _ => true | _ => false).length

/-- What a command's scale reads find in the words that its thread's blocks up to the sending one store to: every store of
the earlier blocks, none of the sending block (R210, R328). The state is that before the block's stores are queued. -/
def State.overFor (s : State) (c : Nat) (y : Ctx) (b : Block) : List Wr :=
  if y.fmt &&& 0xC0 = 0 || b.mxCount = 0 then []
  else
    let own := s.ownWrites c y.id
    let ws := own ++ b.stores.flatMap (·.2.2) ++ b.acts.flatMap fun a => match a.2 with | .push _ ws _ => ws | _ => []
    ((ws.map (·.word)).eraseDups).map fun w => ⟨w, overlay own w (s.word w), coverOf ws w, 0, 0, 0⟩

/-- A matrix command as it is sent: A and B as they stand. -/
def Core.mxCmd (q : Core) (id k : Nat) (y : Ctx) (b : Block) (prior : List Wr) (kind tt f k0 mask src : Nat) : MxCmd :=
  { id := id, prior := prior, kind := kind, tt := tt, f := f, k0 := k0, mask := mask, src := src, ten := y.ten, slot := k, ctxtag := y.tag, blk := b.addr, fmt := y.fmt,
    scale := y.scale, latch := q.latch, lkq := q.lkq, lesz := q.lesz, lidx := q.lidx, latchTag := q.latchTag, bop := q.bop, bkq := q.bkq,
    bfmt := q.bfmt, bill := q.bill, bopTag := q.bopTag }

/-- The latch and B writes of the block. -/
def Core.takeOperand (q : Core) (k : Nat) (y : Ctx) (a : Act) : Core :=
  match a with
  | .latch rows kq esz idx => { q with latch := rows, lkq := kq, lesz := esz, lidx := idx, latchTag := some (y.ten, k) }
  | .bop rows kq bf ill => { q with bop := rows, bkq := kq, bfmt := bf, bill := ill, bopTag := some (y.ten, k) }
  | _ => q

/-- A tile passes to a tenant: the gang setting of another one is cleared, and what it has still to set sets nothing (R308, R329). -/
def Core.passTile (q : Core) (c tt ten : Nat) : Core :=
  let t := tget q.tiles tt {}
  { q with tiles := if t.gang.isSome && t.gangTen != ten then tset q.tiles tt { t with gang := none } else q.tiles,
           mxq := q.mxq.map fun m => if m.kind = 2 && m.tt = tt && m.ten ≠ ten then { m with mask := 2 ^ (c % 8) } else m }

/-- Tile owners, matrix commands and sr.accown, in index order. -/
def State.coreAct (k c : Nat) (y : Ctx) (b : Block) (prior : List Wr) (s : State) (a : Act) : State :=
  let send (kind tt f k0 mask src : Nat) : State :=
    { s.modCore c fun q => { q with mxq := q.mxq ++ [q.mxCmd s.nextId k y b prior kind tt f k0 mask src] } with nextId := s.nextId + 1 }
  match a with
  | .own tt => s.modCore c fun q => { (q.passTile c tt y.ten) with accown := accSet q.accown tt y.ten k }
  | .mma tt f k0 => send 0 tt f k0 0 0
  | .mzero tt => send 1 tt 0 0 0 0
  | .mgang tt mask src => send 2 tt 0 0 mask src
  | .srwr 6 v => s.modCore c fun q => { q with accown := v &&& 0xFFC0FFC0FFC0FFC0 }
  | _ => s

/-- PRE of sr.part, which the srwr of highest index gives (R366): the slots but its own are to be displaced. -/
def Core.takePre (q : Core) (k : Nat) (b : Block) : Core :=
  match (b.ordered.filterMap fun a => match a with | .srwr 13 v => some v | _ => none).getLast? with
  | some v => { q with pre := ((List.range 16).filter fun n => v.getLsbD (16 + n) && n != k).foldl linsert q.pre }
  | none => q

/-- Tiles that the block owns at commit (R308). -/
def Block.tiles (b : Block) : List Nat := b.acts.filterMap fun a => match a.2 with | .own tt => some tt | _ => none

/-! ## The end of a commit: thread end, migration, post-commit stops, debug stops (R30, R253, R260, R345, R362, R400) -/

/-- A context as its migration message delivers it (R253, R264). Of the trap registers, the trap link and LIDX, which the rules
name neither as carried nor as lost, the model keeps what they held (DESIGN CHOICE, log entry 36). -/
def Ctx.travel (y : Ctx) (mask : Nat) : Ctx :=
  { y with g := Vector.ofFn fun i => if mask.testBit i.val then y.g[i] else 0, w := Vector.replicate 8 0 }

/-- The debug module stops issue for a tenant on a core (R400). -/
def State.stopTenant (s : State) (c t : Nat) : State := s.modCore c fun q => { q with dbgStop := linsert q.dbgStop t }

/-- yield (R293): where a ready context waits, the thread enters the context cache, ready from the clk of its commit. -/
def State.takeYield (s : State) (c k : Nat) : State :=
  match (s.slot c k).ctx with
  | some y => if !(s.core c).waiting.isEmpty && y.hold == .run && y.late.isEmpty then (s.displaceAt c k y.clk).getD s else s
  | none => s

/-- The last part of a commit, once the block's system forms have settled: the thread ends, migrates, stops or goes on. The
first of several stops is taken; the others follow at its next block boundaries. -/
def State.afterCommit (s : State) (c k ex : Nat) (causes : List Cause) (addr : Word) (dbg : Bool) (core mask : Nat) (yields : Bool) : State :=
  match (s.slot c k).ctx with
  | none => s
  | some y =>
    let later (l : List Cause) : List (Cause × Word) := y.late ++ l.map fun f => (f, addr)
    match ex with
    | 1 =>
      -- what came while the thread's last block settled has no later boundary to wait for (R30, R295)
      let s := (later causes).foldl (fun s f => s.eventOf c y.id f.1 f.2) s
      let s := if dbg then s.stopTenant c y.ten else s
      (s.modCtx c k fun y => { y with hold := .ending, late := [] }).reap c
    | 2 =>
      let z := { y.travel mask with late := later causes }
      if core = c then
        let s := s.modCtx c k fun _ => { z with hold := .run }
        if dbg then s.debugBreak c k false else s
      else
        let s := ((s.modCtx c k fun _ => { z with hold := .migrating }).sendPkt (s.core c).tag (.migr core y.id c k)).countSlot c k 5
        if dbg then s.stopTenant c y.ten else s
    | _ =>
      match causes with
      | f :: rest =>
        let s := (s.modCtx c k fun y => { y with late := later rest }).stop c k f true addr y.pc
        if dbg then s.stopTenant c y.ten else s
      | [] =>
        let s := s.modCtx c k fun y => { y with hold := .run }
        if dbg then s.debugBreak c k false else if yields then s.takeYield c k else s

/-! ## System forms after commit (R357 to R362, R365) -/

/-- The cores of a partition. -/
def State.coresOf (s : State) (p : Nat) : List Nat := match tget? s.parts p with | some x => x.cores | none => []

/-- Removes TLB entries of a partition's cores; loads translated through them count as invalidated (R356, R358). -/
def State.dropTlb (s : State) (p : Nat) (f : TlbEnt → Bool) : State :=
  (s.coresOf p).foldl (fun s c =>
    let gone := (s.core c).tlb.filter f
    let base (e : TlbEnt) : Nat := (e.pte.extractLsb' 16 36).toNat * 65536
    let s := s.modCore c fun q => { q with tlb := q.tlb.filter fun e => !f e }
    s.replay33 c fun l => gone.any fun e => base e ≤ 128 * l && 128 * l < base e + e.size) s

/-- Whether every walker of a partition has finished the walks it holds. -/
def State.walksDone (s : State) (p : Nat) : Bool := !s.walks.any fun w => w.part == p

/-- Marks the first action as asked for. -/
def State.asked (s : State) (c k : Nat) : State :=
  s.modCtx c k fun y => match y.hold with | .settle as _ => { y with hold := .settle as true } | _ => y

/-- The end of a commit with one more stop to follow it. -/
def Act.addStop (f : Cause) : Act → Act
  | .after ex causes addr dbg core mask yields => .after ex (causes ++ [f]) addr dbg core mask yields
  | a => a
/-- The end of a commit with a debug stop to follow it. -/
def Act.addDebug : Act → Act
  | .after ex causes addr _ core mask yields => .after ex causes addr true core mask yields
  | a => a
/-- Changes the actions that a slot's thread has still to settle. -/
def State.modActs (s : State) (c k : Nat) (f : Act → Act) : State :=
  s.modCtx c k fun y => match y.hold with | .settle as asked => { y with hold := .settle (as.map f) asked } | _ => y

/-- brk in its turn (R362): BREAK is to follow, or, with the tenant's debug enable, the debug stop. -/
def State.takeBrk (s : State) (c k : Nat) (y : Ctx) : State :=
  s.modActs c k (if (s.ten? y.ten).any Tenant.debug then Act.addDebug else Act.addStop ⟨23, 0⟩)

/-- One action of the system forms, once the block's stores are performed at system scope; none while it cannot go on. -/
def State.settleOne (s : State) (c k : Nat) (y : Ctx) (a : Act) (asked : Bool) : Option State :=
  let p := (s.core c).tag
  match a with
  | .tlbinv va => if s.walksDone p then some ((s.dropTlb p fun e => e.ten == y.ten && e.base ≤ va.toNat && va.toNat < e.base + e.size).settled c k) else none
  | .tlbinva => if s.walksDone p then some ((s.dropTlb p fun _ => true).settled c k) else none
  | .icinv pa =>
    some (((s.coresOf p).foldl (fun s n => s.modCore n fun q => { q with icache := q.icache.filter fun x => x.1 != pa / 64 }) s).settled c k)
  | .dcflush pa =>
    if asked then none else if !isStack pa then some (s.settled c k)
    else some ({ s with peq := s.peq ++ [({ code := 4, line := pa / 128, req := 4096, hint := 1, who := .settle c k, words := [], reply := none,
                                            sq := none, va := 0, dom := 0, ten := y.ten } : PEv)] }.asked c k)
  | .dcinv pa =>
    if asked then none else if !isStack pa then some (s.settled c k)
    else some ({ s with peq := s.peq ++ [({ code := 4, line := pa / 128, req := 4096, hint := 1, who := .settle c k, words := [], reply := none,
                                            sq := none, va := 0, dom := 0, ten := y.ten, drop := true } : PEv)] }.asked c k)
  | .ptload i ws => if asked then none else some ((s.sendPkt p (.ptload c k p i ws)).asked c k)
  | .eretFill w dom => some ((s.fillIn (s.svten p) dom w 0).settled c k)
  | .brk => some ((s.takeBrk c k y).settled c k)
  | .after ex causes addr dbg core mask yields => some (s.afterCommit c k ex causes addr dbg core mask yields)
  | _ => some (s.settled c k)

/-! ## Trace (R401) -/

/-- Exit forms as a trace record numbers them. -/
def exitCode (r : Instr) : Nat :=
  match r with
  | .br => 0 | .call => 1 | .callr => 2 | .jmp => 3 | .ret => 4 | .migr => 5 | .halt => 6 | .svc => 7 | .trap => 8 | _ => 9

/-- The record of a committed block, each word translated for the supervisor tenant whose ring it is; one that does not translate is not
written (DESIGN CHOICE, log entry 57). -/
def State.traceBlock (s : State) (c : Nat) (y : Ctx) (b : Block) (row : Instr) : State :=
  let q := s.core c
  match q.trace with
  | some (t, base, n, next) =>
    if t != y.ten then s
    else if n ≤ next then s.countCore c 0x103
    else
      let w0 : Word := (b.addr &&& 0x01FFFFFFFFFFFFC0) ||| BitVec.ofNat 64 (exitCode row)
      let s := (s.writeVa (s.svten q.tag) (base + BitVec.ofNat 64 (16 * next)) [w0, BitVec.ofNat 64 (s.cycle - q.traceAt)]).getD s
      s.modCore c fun q => { q with trace := some (t, base, n, next + 1), traceAt := s.cycle }
  | none => s

/-! ## BLOCK_COMMIT -/

/-- Whether every instruction of a block is complete by a clk (R27). -/
def Block.complete (b : Block) (clk : Nat) : Bool := b.body.all fun e => e.phase == .done && e.doneAt ≤ clk

/-- The outputs that the store comparator compares (R398): register writes, stores, flags and the taken exit. -/
def Block.outputs (b : Block) : List (Nat × Tok) × List (Nat × Bool × List Wr) × BitVec 7 × List (Nat × Word) :=
  (sortByNo b.regs, sortByNo b.stores, b.flags, b.exits)

/-- The system forms of the block, in index order, and the fill that an eret ends with. -/
def Block.systemActs (b : Block) : List Act :=
  b.ordered.filter fun a => match a with
    | .brk => true | .tlbinv _ => true | .tlbinva => true | .dcflush _ => true | .dcinv _ => true | .icinv _ => true | .ptload _ _ => true | _ => false

/-- eret's fill. -/
def Block.eretActs (b : Block) (row : Instr) : List Act :=
  if row = .eret then b.ordered.filter fun a => match a with | .eretFill _ _ => true | _ => false else []

/-- The core and mask of a taken migr. -/
def Block.migration (b : Block) (i : Nat) : Nat × Nat :=
  (b.acts.findSome? fun a => match a.2 with | .migr c m => if a.1 = i then some (c, m) else none | _ => none).getD (0, 0)

/-- The stops that follow a commit: the block's post-commit fault, then a PROTO_MISMATCH, then svc's or trap's (R30, R252, R364); those of
its system forms come after them, in index order (R357). The spec does not order the others (DESIGN CHOICE, log entry 20). -/
def Block.stopsAfter (b : Block) (row : Instr) (imm : BitVec 32) : List Cause :=
  b.post.toList ++ b.mism.toList ++ (if row = .svc then [⟨21, (imm &&& 0xFFFF).zeroExtend 64⟩] else if row = .trap then [⟨22, (imm &&& 0xFFFF).zeroExtend 64⟩] else [])

/-- The commit itself, for the leading slot: its checks have passed, and `b` took the exit at index i, if there is one there, to `next`. -/
def State.commit (s : State) (c k : Nat) (y : Ctx) (b : Block) (i : Nat) (next : Word) : State :=
  let e := (b.body[i]?).map Entry.insn
  let row := match e with | some n => n.row | none => .null
  let imm := match e with | some n => n.x.imm | none => 0
  let z := y.afterBlock b s.cycle
  let z := if row = .call || row = .callr then z.setG 15 b.nextSeq else z
  let z := { z with pc := next, clk := s.cycle }
  let prior := s.overFor c y b
  let s := s.enqueue c k y b.addr (b.toQueue y)
  let s := s.modCore c fun q => b.ordered.foldl (fun q a => q.takeOperand k y a) q
  let s := (b.ordered.foldl (State.coreAct k c y b prior) s).modCore c fun q => q.takePre k b
  let x := s.slot c k
  let ctr := tadd x.ctr 0 1
  let ctr := if row = .call || row = .callr then tadd ctr 3 1 else if row = .ret then tadd ctr 4 1 else ctr
  let s := (s.setSlot c k { x with ctx := some z.boundary, blk := none, ctr := ctr, drain := false, overrun := false, charge := none }).boundaryReply z
  let s := match x.charge with | some e => s.quotaAdd y.ten 0 (s.cycle - e) | none => s
  let issues := b.issues + (if (s.core c).paired then ((s.slot c (k + 8)).blk.map Block.issues).getD 0 else 0)
  let s := if issues = 0 then s else s.quotaAdd y.ten 0 issues
  let s := b.uses.foldl (fun s u => s.quotaAdd y.ten u.1 u.2) s
  let s := if (s.core c).paired then
      (s.setSlot c (k + 8) { s.slot c (k + 8) with ctx := none, blk := none }).modCore c fun q => { q with lvq := q.lvq.filter fun r => r.1 != k }
    else s
  -- a drain of recv.nw (R291)
  let s := if b.ordered.contains .drain && !z.boundary.mdl then (match s.drainBuffer z.boundary with | some (s, w) => s.modCtx c k fun _ => w | none => s) else s
  let s := if e.isSome then s.traceBlock c y b row else s
  let ends := row = .halt || row = .eret
  let s := if ends then
      match (s.slot c k).ctx with
      | some w => (s.endEffects c k w).modCtx c k fun w => { w with grps := [none, none, none, none], bv := false, late := [] }
      | none => s
    else s
  let dest := b.migration i
  let ex := if ends then 1 else if row = .migr then 2 else 0
  let causes := b.stopsAfter row imm
  let yields := b.ordered.contains .yield
  let acts := b.systemActs ++ b.eretActs row
  if acts.isEmpty then s.afterCommit c k ex causes b.addr false dest.1 dest.2 yields
  else s.modCtx c k fun w => { w with hold := .settle (acts ++ [.after ex causes b.addr false dest.1 dest.2 yields]) false }

/-- Whether the slice's command queue has room for the block's commands (R311). -/
def Core.mxRoom (q : Core) (b : Block) : Bool := b.mxCount = 0 || (q.mxq.filter fun m => !m.started).length + b.mxCount ≤ 16

/-- Whether the slot's launch buffer entry is free where the block needs it (R298). -/
def Slot.lbufRoom (x : Slot) (b : Block) : Bool := x.lbuf.isNone || !(b.acts.any fun a => match a.2 with | .launch _ _ _ _ _ _ => true | _ => false)

/-- A mismatch of a paired core (R32, R398): both slots run the block again; at a second mismatch in a row the slot stops,
and the core's rectangle is contained (a block past its point of no return commits as the leading slot has it). -/
def State.pairMismatch (s : State) (c k : Nat) (y : Ctx) (b : Block) : State :=
  if b.misses = 0 then s.replay c k (s.cycle + 1) fun b => { b with misses := 1 }
  else (s.stop c k ⟨20, 0⟩ false b.addr y.pc).contain (coreQuad c)

/-- Whether both slots of a pair have reached a committing operation with operands that differ (R398). -/
def State.pairSplit (s : State) (c k : Nat) : Bool :=
  let x := s.slot c (k + 8)
  match (s.slot c k).blk, x.ctx, x.blk with
  | some b, some y, some t => !b.ponr && b.body.zipIdx.any fun e => e.1.insn.committing && e.1.phase == .held && (match t.body[e.2]? with
      | some z => z.phase == .waiting && (Here.mk c (k + 8) e.2 x y t z).arrived s.cycle && t.operands e.2 != b.operands e.2
      | none => false)
  | _, _, _ => false

/-- The mismatches of a paired core's committing operations at the end of a clk: neither slot's request goes out, and both run again. -/
def State.takeSplits (s : State) (c : Nat) : State :=
  if (s.core c).paired then
    (List.range 8).foldl (fun s k => if s.pairSplit c k then
      (match (s.slot c k).ctx, (s.slot c k).blk with | some y, some b => s.pairMismatch c k y b | _, _ => s) else s) s
  else s

/-- The exit that a block takes, as its index and the next address. A block past its point of no return whose exits all emitted
nulls goes on to the next block in sequence, with its fault to come (R30, R345). -/
def Block.taken? (b : Block) : Option (Nat × Word) :=
  match b.exits with
  | x :: _ => some x
  | [] => if b.ponr && b.post.isSome then some (b.body.length, b.nextSeq) else none

/-- BLOCK_COMMIT (R27): slot k of core c. A thread whose system forms settle takes its next action (R357). -/
def execBlockCommit (s : State) : Out :=
  let c := s.focus.c
  let k := s.focus.k
  let x := s.slot c k
  match x.ctx, x.blk with
  | some y, none => match y.hold with
    | .settle (a :: _) asked =>
      if s.coreRuns c && s.drained c y.id .sys then
        match s.settleOne c k y a asked with
        | some s => .next s
        | none => .fault .notEnabled
      else .fault .notEnabled
    | _ => .fault .notEnabled
  | some y, some b => match b.taken? with
    | none => .fault .notEnabled
    | some (i, next) =>
      let q := s.core c
      if !s.coreRuns c || y.hold != .run || s.cycle < b.start || !b.ponr && (b.post.isSome || b.again) || !b.complete s.cycle || !q.mxRoom b || !x.lbufRoom b || (q.paired && 8 ≤ k) then .fault .notEnabled
      else match b.tiles.find? fun tt => accValid q.accown tt && accTen q.accown tt != y.ten with
        | some tt => .next (if b.ponr then s.firstUse c k tt else s.replay c k (s.cycle + 1) id)
        | none =>
          if q.paired then
            match (s.slot c (k + 8)).blk with
            | some t =>
              if !t.complete s.cycle then .fault .notEnabled
              else if t.outputs != b.outputs && !b.ponr then .next (s.pairMismatch c k y b)
              else .next (s.commit c k y b i next)
            | none => .fault .notEnabled
          else .next (s.commit c k y b i next)
  | _, _ => .fault .notEnabled

end Sys2Proof.Machine
end

