-- ==== Sys2Proof/Machine/Protocol.lean ====
section
/-!
DEFINITION. Machine/Protocol: coherence tables and the protocol engines (R182, R220, R232, R239, R241 to R252).
-/
namespace Sys2Proof.Machine

/-! ## Action words and tables (R244, R246, R247) -/

/-- An action word of Table 13.2. -/
def aw (next dest msg : Nat) (adds clrs seto wait stall nz cnt : Bool) : BitVec 32 :=
  let f (b : Bool) (n : Nat) : Nat := if b then 2 ^ n else 0
  BitVec.ofNat 32 (next * 2 ^ 28 + dest * 2 ^ 25 + msg * 2 ^ 22 + f adds 21 + f clrs 20 + f seto 19 + f wait 18 + f stall 17 + f nz 16 + f cnt 15)

/-- Its fields. -/
structure Cell where
  next : Nat
  dest : Nat
  msg : Nat
  adds : Bool
  clrs : Bool
  seto : Bool
  wait : Bool
  stall : Bool
  nz : Bool
  cnt : Bool
deriving DecidableEq, Repr

def Cell.of (w : BitVec 32) : Cell :=
  { next := (w.extractLsb' 28 4).toNat, dest := (w.extractLsb' 25 3).toNat, msg := (w.extractLsb' 22 3).toNat, adds := w.getLsbD 21, clrs := w.getLsbD 20,
    seto := w.getLsbD 19, wait := w.getLsbD 18, stall := w.getLsbD 17, nz := w.getLsbD 16, cnt := w.getLsbD 15 }

/-- Whether a state of a standard table is transient (Table 13.3). -/
def stdTransient (idx st : Nat) : Bool :=
  match idx with
  | 1 => st == 2 || st == 3
  | 2 => st == 2 || st == 3
  | 3 => st == 2 || st == 3 || st == 4
  | 4 => st == 2 || st == 3
  | 5 => st == 2 || st == 3
  | _ => false

/-- A cell that the table does not list. -/
def stdDefault (idx st ev : Nat) : BitVec 32 :=
  if stdTransient idx st && ev ≤ 5 then aw st 0 0 false false false false true false false else aw st 0 0 false false false false false false false

/-- A message to the requester, to a next state. -/
def toReq (next msg : Nat) : BitVec 32 := aw next 1 msg false false false false false false false
/-- INV to the sharers, with CLRS and WAIT. -/
def invAll (next : Nat) : BitVec 32 := aw next 2 1 false true false true false false false

/-- The standard tables (Table 13.3). -/
def stdCell (idx st ev : Nat) : BitVec 32 :=
  match idx, st, ev with
  | 0, 0, 0 => toReq 0 4
  | 0, 0, 1 => toReq 0 5
  | 0, 0, 2 => toReq 0 5
  | 1, 0, 0 => aw 1 1 3 true false false false false false false
  | 1, 1, 0 => aw 1 1 3 true false false false false false false
  | 1, 0, 1 => toReq 0 5
  | 1, 0, 2 => toReq 0 5
  | 1, 1, 1 => invAll 2
  | 1, 1, 2 => invAll 2
  | 1, 2, 7 => aw 1 1 5 false false false false false true false
  | 1, 1, 4 => invAll 3
  | 1, 3, 7 => aw 0 0 0 false false false false false false false
  | 1, 1, 5 => aw 1 0 0 false false false false false true false
  | 2, 0, 0 => aw 1 1 3 true false false false false false false
  | 2, 1, 0 => aw 1 1 3 true false false false false false false
  | 2, 0, 1 => toReq 0 5
  | 2, 0, 2 => toReq 0 5
  | 2, 1, 1 => aw 2 2 2 false false false true false false false
  | 2, 1, 2 => aw 2 2 2 false false false true false false false
  | 2, 2, 7 => aw 1 1 5 false false false false false true false
  | 2, 2, 8 => toReq 1 5
  | 2, 1, 4 => invAll 3
  | 2, 3, 7 => aw 0 0 0 false false false false false false false
  | 2, 1, 5 => aw 1 0 0 false false false false false true false
  | 3, 0, 0 => aw 1 1 3 false false true false false false false
  | 3, 1, 0 => aw 2 2 1 false false false true false false false
  | 3, 2, 7 => aw 1 1 3 false false true false false false false
  | 3, 0, 1 => toReq 0 5
  | 3, 0, 2 => toReq 0 5
  | 3, 1, 1 => invAll 3
  | 3, 1, 2 => invAll 3
  | 3, 3, 7 => aw 1 1 5 false false false false false true false
  | 3, 1, 4 => invAll 4
  | 3, 4, 7 => aw 0 0 0 false false false false false false false
  | 3, 1, 5 => aw 1 0 0 false false false false false true false
  | 4, 0, 0 => toReq 1 3
  | 4, 1, 0 => toReq 1 3
  | 4, 0, 1 => toReq 0 5
  | 4, 0, 2 => toReq 0 5
  | 4, 1, 1 => aw 2 3 1 false false false true false false true
  | 4, 1, 2 => aw 2 3 1 false false false true false false true
  | 4, 2, 7 => toReq 1 5
  | 4, 1, 4 => aw 3 3 1 false false false true false false false
  | 4, 3, 7 => aw 0 0 0 false false false false false false false
  | 5, 0, 0 => toReq 0 4
  | 5, 1, 0 => toReq 1 4
  | 5, 0, 3 => aw 1 1 3 true false false false false false false
  | 5, 1, 3 => aw 1 1 3 true false false false false false false
  | 5, 0, 1 => toReq 0 5
  | 5, 0, 2 => toReq 0 5
  | 5, 1, 1 => aw 2 2 6 false false false true false false false
  | 5, 1, 2 => aw 2 2 6 false false false true false false false
  | 5, 2, 9 => toReq 1 5
  | 5, 1, 4 => invAll 3
  | 5, 3, 7 => aw 0 0 0 false false false false false false false
  | 5, 4, 0 => toReq 4 4
  | 5, 4, 6 => toReq 4 5
  | _, _, _ => stdDefault idx st ev

/-- The state of a line that a replica slice holds: RV. -/
def rvState : Nat := 4

/-- The range that a line lies in: its number in the range table, and its entry (R248). -/
def State.rangeOf (s : State) (line : Nat) : Option (Nat × Range) :=
  s.ranges.find? fun r => r.2.start * 512 ≤ line && line < (r.2.start + r.2.size) * 512

/-- Whether a line lies in an entry. -/
def Range.covers (r : Range) (line : Nat) : Bool := r.start * 512 ≤ line && line < (r.start + r.size) * 512

/-- Whether a line lies in a range that is being changed, as it was or as it will be (R249). -/
def State.isDraining (s : State) (line : Nat) : Bool :=
  s.draining.any fun d => d.2.2.1.covers line || (match tget? s.ranges d.1 with | some r => r.covers line | none => false)

/-- PROTO of a line: INV where no range covers it (R248). -/
def State.protoOf (s : State) (line : Nat) : Nat := match s.rangeOf line with | some r => r.2.proto | none => 1

/-- The partition of a line's home. -/
def State.linePart (s : State) (line : Nat) : Nat := (s.destTag (128 * line)).getD 0

/-- The image at index 6 or 7 of a partition (R246, R250). -/
def State.imageOf (s : State) (part idx : Nat) : Option Image := if idx < 6 then none else tget? s.images (part * 2 + (idx - 6))

/-- A table's cell. -/
def State.cell (s : State) (part idx st ev : Nat) : Cell :=
  Cell.of (if idx < 6 then stdCell idx st ev else match s.imageOf part idx with | some m => m.cells.getD (16 * st + ev) 0 | none => stdDefault idx st ev)
/-- Whether a state is stable. -/
def State.stable (s : State) (part idx st : Nat) : Bool :=
  if idx < 6 then !stdTransient idx st else match s.imageOf part idx with | some m => !m.trans.testBit st | none => true
/-- INIT. -/
def State.initOf (s : State) (part idx : Nat) : Nat := if idx < 6 then 0 else match s.imageOf part idx with | some m => m.init | none => 0

/-! ## The directory (R182, R241) -/

/-- The directory entry of a line. -/
def State.dir (s : State) (line : Nat) : Option Dir := s.dirs.find? fun d => d.line == line
/-- Changes a directory entry. -/
def State.modDir (s : State) (line : Nat) (f : Dir → Dir) : State := { s with dirs := s.dirs.map fun d => if d.line = line then f d else d }

/-- The set of its slice that a line falls in: 2,048 lines of 16 ways (R3, R182); which address bits choose it the spec does not say
(DESIGN CHOICE, log entry 11). -/
def l2Set (line : Nat) : Nat := line / 2 % 128

/-- The slice of a die that holds replicas of a line: that of the primary home's number (R251). -/
def replicaSlice (line die : Nat) : Nat := die * 256 + homeOf (128 * line) % 256

/-- Lines of the L2 of a slice in a set and way group, first placed first; lines that a replica slice holds there, by key. -/
def State.inWays (s : State) (slice set g : Nat) : List Dir :=
  s.dirs.filter fun d => d.group == some g && homeOf (128 * d.line) == slice && l2Set d.line == set
def State.replicasIn (s : State) (slice set g : Nat) : List Nat :=
  (s.replicas.filter fun r => r.2.group == g && replicaSlice (r.1 / 4) (r.1 % 4) == slice && l2Set (r.1 / 4) == set).map (·.1)

/-- The way groups of a slice in which a fill of a tenant may be placed: those that it owns in this slot (R182, R373, R374), but for one
that is still flushed for it (R377). The lowest-numbered one with room takes a fill (DESIGN CHOICE, log entry 11). -/
def State.fillGroups (s : State) (slice t : Nat) : List Nat :=
  (List.range 4).filter fun g => s.ownerAt (tget s.lid.weave.group (slice * 4 + g) 0) s.cycle == some t &&
    !s.dirs.any fun d => d.flush && d.group == some g && homeOf (128 * d.line) == slice

/-- A replica slice as a requester or sharer of its line (R241): above every core's number, and 4096 of an agent. -/
def replAgent (die : Nat) : Nat := 8192 + die

/-- An event of the slice's own. -/
def ownEv (code line : Nat) : PEv := agentEv code line []

/-- Whether a range's sharers are replica slices. -/
def State.isRepl (s : State) (line : Nat) : Bool :=
  match s.rangeOf line with
  | some r => r.2.proto == 5 || (match s.imageOf r.2.part r.2.proto with | some m => m.kind == 1 | none => false)
  | none => false

/-- Dies with a replica of a range, other than its primary's. -/
def Range.replicaDies (r : Range) (line : Nat) : List Nat := (List.range 4).filter fun d => r.dies.testBit d && d != homeOf (128 * line) / 256

/-- The sharer set: with BCAST, every core of the partition, or every replica slice (R241). -/
def State.sharerSet (s : State) (d : Dir) : List Nat :=
  if d.bcast then
    match s.rangeOf d.line, s.isRepl d.line with
    | some r, true => (r.2.replicaDies d.line).map replAgent
    | _, _ => s.coresOf (s.linePart d.line)
  else d.sharers

/-- Adds a sharer; a fifth sets BCAST. -/
def Dir.addSharer (d : Dir) (n : Nat) : Dir :=
  if d.bcast || d.sharers.contains n then d
  else if d.sharers.length < 4 then { d with sharers := d.sharers ++ [n] } else { d with bcast := true }

/-! ## Replies -/

/-- Words of a line as an access reads them: zeros on a domain mismatch (R384). -/
def State.lineWords (s : State) (e : PEv) : State × List (Nat × Word) :=
  if s.domainOk (128 * e.line) e.dom then (s, e.words.map fun w => (w, s.word w))
  else (s.domainFault e.ten, e.words.map fun w => (w, (0 : Word)))

/-- Answers a read with its words; DATA may be installed, DATA_NC serves the load only. -/
def State.data (s : State) (e : PEv) (install : Bool) : State :=
  match e.who with
  | .entry c k rid i =>
    let r := s.lineWords e
    r.1.sendPkt (r.1.core c).tag (.reply c k rid i (.words r.2) (some (e.line, r.1.line e.line)) (install && r.1.domainOk (128 * e.line) e.dom))
  | _ => s

/-- Answers a write or a strong access once it is performed everywhere: a store leaves its core's queue, a strong access
gets its reply. -/
def State.acked (s : State) (e : PEv) : State :=
  let s := match e.sq with
    | some (c, id) => s.performed c id
    | none => s
  match e.reply, e.who with
  | some r, .entry c k rid i =>
    s.sendPkt (s.core c).tag (.reply c k rid i r (if e.words.isEmpty then none else some (e.line, s.line e.line)) false)
  | some r, w => s.reply w r
  | none, _ => s

/-- A fault for a requester after its access completed (R252): after its block's commit, or at its thread's next boundary for
a store. -/
def State.lateFault (s : State) (e : PEv) (code : Nat) (va : Word) : State :=
  match e.who, e.sq with
  | .entry c k rid _, _ =>
    match (s.slot c k).blk with
    | some b => if b.rid = rid then s.modBlk c k fun b => { b with mism := b.mism <|> some ⟨code, va⟩ } else s
    | none => s
  | _, some (c, id) => s.storeFault c id code va
  | _, _ => s

/-- A hint that differs from the home's PROTO (R252): counted once, and with MTE a PROTO_MISMATCH. An agent's access carries no hint
(DESIGN CHOICE, log entry 68: R251 gives the hint to cores). -/
def State.checkHint (s : State) (e : PEv) : State × PEv :=
  let seen := { e with seen := true }
  if e.seen || e.hint = s.protoOf e.line || e.req = 4096 then (s, seen)
  else
    let s := { s with mismatch := tadd s.mismatch (homeOf (128 * e.line)) 1 }
    (match s.rangeOf e.line with
      | some r => if r.2.mte then s.lateFault e 18 e.va else s
      | none => s, seen)

/-- Ends the eviction of a line: it leaves the L2, written back or, for dcinv, as last written back (R182, R359); events
that it held are presented again. -/
def State.evicted (s : State) (d : Dir) (e : PEv) : State :=
  let s := { s with dirs := s.dirs.filter (fun x => x.line != d.line), peq := d.held ++ s.peq }
  let s := match e.drop, d.old with | true, some v => s.putLine d.line v | _, _ => s
  match e.who with
  | .settle c k => s.settled c k
  | _ => s

/-! ## Apply (R245) -/

/-- An update that was sent to a replica slice before its line was fetched there brings nothing that the line has not. -/
def Pkt.spent (line die : Nat) : Pkt → Pkt
  | .replUpd d l (some ws) => .replUpd d l (some (if d = die && l = line then [] else ws))
  | p => p

/-- DATA reaches a replica slice, which installs the line where the tenant has room for it there (R247, R374). -/
def State.replicate (s : State) (line die t : Nat) : State :=
  let sl := replicaSlice line die
  match (s.fillGroups sl t).find? fun g => (s.inWays sl (l2Set line) g).length + (s.replicasIn sl (l2Set line) g).length < 4 with
  | some g => { s with replicas := tset s.replicas (line * 4 + die) ⟨s.line line, g⟩, reqs := s.reqs.map fun r => { r with pkt := r.pkt.spent line die } }
  | none => s

/-- The writes of a core's stores to a line that are in home order and whose events the line's table has still to take, held ones first. -/
def State.laterOwn (s : State) (line c : Nat) : List Wr :=
  (((s.dir line).elim [] Dir.held) ++ s.peq.filter fun e => e.line == line).flatMap fun e => match e.sq with
    | some (d, _) => if d = c then e.wrs else []
    | none => []

/-- One message of a cell: INV 1, UPD 2, DATA 3, RUPD 6. An update carries the writes `wrs` of the event that it is sent for, as the
line's data has them; a core's own later stores, which its copy holds already, stand over them. An update acts at a core as UPD and at a
replica slice as RUPD, whichever of the two a loaded table sends; data or an answer that a core did not ask for has no effect (DESIGN
CHOICE, log entry 69). -/
def State.sendOne (line msg t : Nat) (wrs : List Wr) (s : State) (d : Nat) : State :=
  let tag := s.linePart line
  let repl := decide (8192 ≤ d)
  if msg = 1 then s.sendPkt tag (if repl then .replUpd (d - 8192) line none else .inv d line none)
  else if msg = 2 || msg = 6 then s.sendPkt tag (if repl then .replUpd (d - 8192) line (some wrs) else .inv d line (some (wrs ++ s.laterOwn line d)))
  else if msg = 3 && repl then s.replicate line (d - 8192) t
  else s

/-- DATA 3, DATA_NC 4 and ACK 5 as they answer a request; a request of a replica slice serves the read that it was asked for. Data that a
loaded table sends to the requester of a write or a strong access acknowledges it, and an ACK to a reader has no effect (the spec gives
them no meaning: DESIGN CHOICE, log entry 69). -/
def State.answer (s : State) (line msg : Nat) (e : PEv) : State :=
  if e.code = 3 then (if msg = 3 then s.replicate line (e.req - 8192) e.ten else s).data e false
  else if e.code = 0 then (if msg = 5 then s else s.data e (msg == 3))
  else s.acked e

/-- Sends a cell's message. -/
def State.sendCell (s : State) (line : Nat) (c : Cell) (rq : Option PEv) (dests : List Nat) : State :=
  match rq, c.dest == 1 && 3 ≤ c.msg && c.msg ≤ 5 with
  | some e, true => s.answer line c.msg e
  | _, true => s
  | rq, false => dests.foldl (State.sendOne line c.msg (rq.elim 0 PEv.ten) (rq.elim [] PEv.wrs)) s

/-- Applies an event to a line of the directory. "The state's own ack event", where no message was sent, is that of the message that the
cell names: ACKU for UPD, RACK for RUPD, else ACKI (the spec does not say how it is known of a loaded table: DESIGN CHOICE, log entry
69). -/
def State.apply : Nat → Nat → Nat → PEv → State → State
  | 0, _, _, _, s => s
  | fuel + 1, line, code, ev, s =>
    match s.dir line with
    | none => s
    | some d =>
      let part := s.linePart line
      let idx := s.protoOf line
      let c := s.cell part idx d.st code
      if c.stall then s.modDir line fun d => { d with held := d.held ++ [ev] }
      else
        let rq := if 7 ≤ code then d.cur else some ev
        let req := match rq with | some e => e.req | none => 4096
        let all := s.sharerSet d
        let dests := match c.dest with
          | 1 => if req = 4096 then [] else [req]
          | 2 => all.filter (· != req)
          | 3 => (s.coresOf part).filter (· != req)
          | _ => []
        let s := s.sendCell line c rq dests
        let counted (r : Nat × Range) : Nat × Range :=
          if some r.1 = (s.rangeOf line).map (·.1) then (r.1, { r.2 with cnt := r.2.cnt + 1 }) else r
        let s := if c.cnt then { s with ranges := s.ranges.map counted } else s
        let d := if c.clrs then { d with sharers := if code = 1 && all.contains req then [req] else [], bcast := false } else d
        let d := if c.seto then { d with sharers := [req], bcast := false } else d
        let d := if c.adds then d.addSharer req else d
        let d := if c.wait then { d with cnt := dests.length } else d
        let none? := !d.bcast && d.sharers.isEmpty
        let st := if c.nz && none? then s.initOf part idx else c.next
        let cur := if code < 7 then some ev else d.cur
        let stable := s.stable part idx st
        let s := s.modDir line fun x => { d with held := x.held, tags := x.tags, old := x.old, flush := x.flush, st := st, cur := if stable then none else cur }
        if c.wait && d.cnt = 0 then State.apply fuel line (if c.msg = 2 then 8 else if c.msg = 6 then 9 else 7) ev s
        else if stable then
          match s.dir line with
          | none => s
          | some d =>
            if cur.any fun e => e.code == 4 then (match cur with | some e => s.evicted d e | none => s)
            else
              -- the held events are presented again, oldest first
              { s.modDir line (fun d => { d with held := [] }) with peq := d.held ++ s.peq }
        else s

/-- Apply, deep enough for every table that R250 accepts. -/
def State.applyEv (s : State) (line code : Nat) (ev : PEv) : State := s.apply 4 line code ev

/-! ## Fills of the L2 (R182, R374, R377) -/

/-- What stands against a fill of a line for a tenant at its home: nothing, in a way group; the tenant owns none, and reads through;
a line that is replaced first, with the state that this leads to; or the end of such a replacement. Which of several groups takes the fill,
and which of its lines is replaced, the spec does not say: the lowest-numbered group with a way free in the set, and the line that has been
there longest, replicas first (DESIGN CHOICE, log entry 11). -/
inductive Room where | group (g : Nat) | through | replaces (s : State) | waits

/-- Room for a fill in a slice. -/
def State.room (s : State) (slice line t : Nat) : Room :=
  let set := l2Set line
  let gs := s.fillGroups slice t
  match gs.find? fun g => (s.inWays slice set g).length + (s.replicasIn slice set g).length < 4 with
  | some g => .group g
  | none => match gs with
    | [] => .through
    | g :: _ => match s.replicasIn slice set g with
      | r :: _ => .replaces { s with replicas := tdel s.replicas r }
      | [] =>
        let ds := s.inWays slice set g
        if ds.any fun d => d.cur.any fun e => e.code == 4 then .waits
        else match ds.find? fun d => d.cur.isNone with
          | some d => .replaces (s.applyEv d.line 4 (ownEv 4 d.line))
          | none => .waits

/-- Goes on with a line in the L2 of its home, in INIT with no sharers where it was not there, if a way group takes it (R241). A line
that has to leave first leaves in a step of its own. -/
def State.withLine (s : State) (line t dom : Nat) (f : State → Out) : Out :=
  if !isStack (128 * line) || (s.dir line).isSome || !s.domainOk (128 * line) dom || s.isDraining line then f s
  else match s.room (homeOf (128 * line)) line t with
    | .group g => f { s with dirs := s.dirs ++ [({ line := line, st := s.initOf (s.linePart line) (s.protoOf line), group := some g, dom := dom } : Dir)] }
    | .through => f s
    | .replaces s => .next s
    | .waits => .fault .notEnabled

/-- Goes on once a replica slice has room for a line that it asks for, if a way group there takes it. -/
def State.withReplica (s : State) (line die t : Nat) (f : State → Out) : Out :=
  match s.room (replicaSlice line die) line t with
  | .replaces s => .next s
  | .waits => .fault .notEnabled
  | _ => f s

/-! ## Presenting events -/

/-- Whether the stack channel of an address is down: its pair's slices serve only vault traffic (R397). -/
def State.chanDown (s : State) (pa : Nat) : Bool := match regionOf pa with | .stack c => s.lid.downChans.contains c | _ => false

/-- Whether event n of the queue is the oldest for its line, its range is not being changed and its channel is up (R243,
R249, R397). -/
def State.turn (s : State) (n : Nat) (e : PEv) : Bool :=
  (s.peq.take n).all (fun x => x.line != e.line) && !s.isDraining e.line && !s.chanDown (128 * e.line)

/-- Takes event n, of an event code, from the queue. -/
def State.present (s : State) (n code : Nat) (f : State → PEv → Out) : Out :=
  match s.peq[n]? with
  | some e => if e.code = code && s.turn n e then f { s with peq := removeAt s.peq n } e else .fault .notEnabled
  | none => .fault .notEnabled

/-- Holds a read until the releasing core has performed what lay ahead of the release. -/
def State.widened (s : State) (e : PEv) (acquirer : Nat) (ws : List Nat) (f : State) : State :=
  match ws.findSome? fun w => s.outstanding w acquirer with
  | some (c, ids) => { s with widen := s.widen ++ [(e, c, ids)] }
  | none => f

/-- WIDENING_DRAIN (R232): entry n of s.widen: the releasing core has performed its stores, and answers. -/
def execWideningDrain (s : State) : Out :=
  match s.widen[s.focus.n]? with
  | some (e, c, ids) =>
    if (s.core c).sq.any fun x => ids.contains x.id then .fault .notEnabled
    else .next { s with widen := removeAt s.widen s.focus.n, peq := s.peq ++ [e] }
  | none => .fault .notEnabled

/-- Whether every write by an agent to a replicated line has reached its replicas: a release by an agent waits until it has (R231, R239). -/
def State.agentsDone (s : State) : Bool :=
  let out (e : PEv) : Bool := e.req == 4096 && !e.wrs.isEmpty && s.isRepl e.line
  !s.peq.any out && s.dirs.all fun d => !d.held.any out && !d.cur.any out

/-- A read of words that no cache holds: vault and mailbox words; a Handle or Rim window gives what stands outside this
package, a free value (log entry 13). -/
def State.plainWords (s : State) : List Nat → State × List (Nat × Word)
  | [] => (s, [])
  | w :: ws =>
    let r := match regionOf (8 * w) with
      | .handle _ => s.takeFree
      | .rim _ => s.takeFree
      | _ => (s, s.word w)
    let q := State.plainWords r.1 ws
    (q.1, (w, r.2) :: q.2)

/-- A read of words outside stack memory: answered at once, not installed; a window brings whole words (log entry 13);
a fenced tenant's window traffic is dropped (R388). -/
def State.plainRead (s : State) (e : PEv) : State :=
  match e.who with
  | .entry c k rid i =>
    if s.cutOff e.ten (16 * e.line) then s
    else
    let r := (s.countWindow e.who e.ten (16 * e.line) 0 (8 * e.words.length)).plainWords e.words
    r.1.sendPkt (r.1.core c).tag (.reply c k rid i (.words r.2) (some (e.line, 0)) false)
  | _ => s

/-- What may turn a core's access away at its home: a port tag (R368) or a fenced home (R396). -/
def State.gate (s : State) (e : PEv) (f : State) : State :=
  if !s.tagOk (s.core e.req).tag (128 * e.line) then s.tagFault (s.linePart e.line) e.ten
  else if s.homeFenced (128 * e.line) then s.reply e.who (.fault ⟨3, e.va⟩)
  else f

/-- The words of a line. -/
def lineNos (line : Nat) : List Nat := (List.range 16).map (16 * line + ·)

/-- Whether a store of a core, accepted and not performed, has yet to reach the replica of its line on a die: its WR or SA waits or is
held at the line, or the update that carries it is on its way (R239, R245). -/
def State.unapplied (s : State) (die : Nat) (c : Nat) (e : SqEnt) (w : Wr) : Bool :=
  e.phase == .accepted && ((s.peq.any fun p => p.sq == some (c, e.id)) || (s.dirs.any fun d => d.held.any fun p => p.sq == some (c, e.id)) ||
    s.reqs.any fun r => match r.pkt with | .replUpd d l (some ws) => d == die && l == w.word / 16 && ws.contains w | _ => false)

/-- A core's own stores that a die's replica has yet to receive: they are performed at the core's scope, so every reader of the core sees
them (R25, R232, R234). -/
def State.ownUnapplied (s : State) (die c : Nat) : List Wr :=
  (s.core c).sq.filterMap fun e => match e.kind with
    | .st w => if s.unapplied die c e w then some w else none
    | .rel w _ => if s.unapplied die c e w then some w else none
    | _ => none

/-- The replica slice that a read goes to, as its die: its page is hinted REPL, and the slice on its core's die holds a REPL entry for
the range that names that die (R251). -/
def State.replicaOf (s : State) (e : PEv) : Option Nat :=
  let die := coreDie e.req
  match s.rangeOf e.line with
  | some q => if e.hint == 5 && s.isRepl e.line && q.2.dies.testBit die && die != homeOf (128 * e.line) / 256 then some die else none
  | none => none

/-- A line of a replica slice is in RV (R247); in a loaded KIND 1 table too, which has no name for that state (DESIGN CHOICE, log entry
69). -/
def replicaCell (ev : Nat) : Cell := Cell.of (stdCell 5 rvState ev)

/-- RV,RD at a replica slice: what its line holds, under the writes of the reader's core that have not reached it (R25, R232, R234). -/
def State.readReplica (s : State) (e : PEv) (die : Nat) (d : BitVec 1024) : State :=
  match e.who, s.domainOk (128 * e.line) e.dom with
  | .entry c k rid i, true =>
    let own := s.ownUnapplied die c
    s.sendPkt (s.core c).tag (.reply c k rid i (.words (e.words.map fun w => (w, overlay own w (lineWord d (w % 16))))) (some (e.line, d)) ((replicaCell 0).msg == 3))
  | _, _ => s.data e false

/-- Whether a request of a core reaches its home: its tag is right and the home is not fenced (R368, R396). -/
def State.arrives (s : State) (e : PEv) : Bool := s.tagOk (s.core e.req).tag (128 * e.line) && !s.homeFenced (128 * e.line)

/-- RD (R239, R245, R251): event n. A read hinted REPL is served by its die's replica slice, which asks the primary for a
line it does not hold. -/
def execRd (s : State) : Out :=
  match s.peq[s.focus.n]? with
  | none => .fault .notEnabled
  | some e =>
    let body (s : State) : Out :=
      s.present s.focus.n 0 fun s e =>
        .next (s.gate e (s.widened e e.req (lineNos e.line) (
          if !isStack (128 * e.line) then s.plainRead e
          else
            let r := s.checkHint e
            let s := r.1
            let e := r.2
            match s.replicaOf e with
            | some die => match tget? s.replicas (e.line * 4 + die) with
              | some d => s.readReplica e die d.data
              | none => { s with peq := s.peq ++ [{ e with code := 3, req := replAgent die }] }
            | none => if (s.dir e.line).isSome && s.domainOk (128 * e.line) e.dom then s.applyEv e.line 0 e else s.data e false)))
    if s.windowHeld e.ten (16 * e.line) then .fault .notEnabled
    else if e.code = 0 && s.turn s.focus.n e && s.arrives e && (s.replicaOf e).isNone then s.withLine e.line e.ten e.dom body else body s

/-- RRD (R245): event n, a replica slice's request. Where its range no longer has a replica there, its read goes on to the home
(R249, R251). -/
def execRrd (s : State) : Out :=
  match s.peq[s.focus.n]? with
  | none => .fault .notEnabled
  | some e =>
    let die := e.req - 8192
    let body (s : State) : Out :=
      s.present s.focus.n 3 fun s e =>
        .next (s.widened e 4096 (lineNos e.line) (
          if s.replicaOf { e with req := e.who.core } != some die then { s with peq := s.peq ++ [{ e with code := 0, req := e.who.core }] }
          else if (s.dir e.line).isSome then s.applyEv e.line 3 e else s.data e false))
    if e.code = 3 && s.turn s.focus.n e then s.withLine e.line e.ten e.dom fun s => s.withReplica e.line die e.ten body else body s

/-- Whether what an event wrote waits to be sent on as an update until what lay ahead of a release of these words is performed (R232). -/
def State.updWaits (s : State) (e : PEv) : Bool :=
  let m := match s.dir e.line with | some d => (s.cell (s.linePart e.line) (s.protoOf e.line) d.st e.code).msg | none => 0
  (m == 2 || m == 6) && e.wrs.any fun w => (s.outstanding w.word 4096).isSome

/-- Runs event n, of an event code, with its line in the L2 where a core's access brings it in. -/
def State.presentLine (s : State) (n code : Nat) (f : State → PEv → Out) : Out :=
  match s.peq[n]? with
  | some e => if e.code = code && s.turn n e && e.req < 4096 then s.withLine e.line e.ten e.dom fun s => s.present n code f else s.present n code f
  | none => .fault .notEnabled

/-- WR (R245): event n, a write that its home has accepted. -/
def execWr (s : State) : Out :=
  s.presentLine s.focus.n 1 fun s e =>
    if s.updWaits e then .fault .notEnabled
    else
      let r := s.checkHint e
      .next (if (r.1.dir e.line).isSome then r.1.applyEv e.line 1 r.2 else r.1.acked r.2)

/-- The size of an ldacq in bytes. -/
def State.acqSize (s : State) (e : PEv) : Nat :=
  match e.who with
  | .entry c k rid i => match s.hereOf c k rid i with
    | some h => if h.e.insn.row = .ldacqD then 8 else 4
    | none => 8
  | _ => 8

/-- Code of a strong access's size in a size tag. -/
def sizeTag (n : Nat) : Nat := if n = 4 then 1 else if n = 16 then 3 else 2

/-- Whether a strong access overlaps a word whose tag records another size, with the trap enabled (R220). -/
def State.mixedBad (s : State) (w n : Nat) : Bool :=
  match s.dir (w / 16), tget? s.parts (s.linePart (w / 16)) with
  | some d, some p => p.mixed && (match tget? d.tags w with | some t => t != sizeTag n | none => false)
  | _, _ => false

/-- Records a strong access's size. -/
def State.tagSize (s : State) (w n : Nat) : State := s.modDir (w / 16) fun d => { d with tags := tset d.tags w (sizeTag n) }

/-- Whether a thread's own stores to a word have been accepted (R233). -/
def State.ownAccepted (s : State) (who : Who) (w : Nat) : Bool :=
  match who with
  | .entry c k _ _ => match (s.slot c k).ctx with
    | some y => (s.ownWrites c y.id).all fun x => x.word != w
    | none => true
  | _ => true

/-- SA (R233, R245): event n, a strong access: an ldacq is performed here; the others were performed when their home
accepted them. -/
def execSa (s : State) : Out :=
  s.presentLine s.focus.n 2 fun s e =>
    if e.sq.isSome && s.updWaits e then .fault .notEnabled
    else if e.sq.isSome || e.reply.isSome then
      let r := if e.sq.isSome then s.checkHint e else (s, e)
      .next (if (r.1.dir e.line).isSome then r.1.applyEv e.line 2 r.2 else r.1.acked r.2)
    else if s.windowHeld e.ten (16 * e.line) || !(e.words.all fun w => s.ownAccepted e.who w) then .fault .notEnabled
    else .next (s.gate e (s.widened e e.req e.words (
      if !isStack (128 * e.line) then s.plainRead e
      else
        let r := s.checkHint e
        let e := r.2
        let s := r.1
        let n := s.acqSize e
        if e.words.any fun w => s.mixedBad w n then s.reply e.who (.fault ⟨14, e.va⟩)
        else
          let s := e.words.foldl (fun s w => s.tagSize w n) s
          let r := s.lineWords e
          let e := { e with reply := some (.words r.2) }
          let s := r.1.modCore e.req fun k => k.spoil e.line
          if (s.dir e.line).isSome then s.applyEv e.line 2 e else s.acked e)))

/-- EVICT (R182, R243, R359): event n, or a SCRUB that its line held (R396); or, with m not 0, line n leaves the L2 as a victim, and a
replica slice its line n (log entry 11): RV,EVICT sends nothing. -/
def execEvict (s : State) : Out :=
  let n := s.focus.n
  match s.focus.m with
  | 0 => match s.peq[n]? with
    | some e =>
      if (e.code = 4 || e.code = 5) && (s.peq.take n).all (fun x => x.line != e.line) then
        let s := { s with peq := removeAt s.peq n }
        .next (if (s.dir e.line).isSome then s.applyEv e.line e.code e
          else match e.who with | .settle c k => s.settled c k | _ => s)
      else .fault .notEnabled
    | none => .fault .notEnabled
  | 1 => if (s.dir n).isSome then .next (s.applyEv n 4 (ownEv 4 n)) else .fault .notEnabled
  | _ => if (tget? s.replicas n).isSome && (replicaCell 4).msg == 0 then .next { s with replicas := tdel s.replicas n } else .fault .notEnabled

/-- Whether a packet is an update or invalidation of a line for a replica slice. -/
def Pkt.forReplica (die line : Nat) : Pkt → Bool
  | .replUpd d l _ => d == die && l == line
  | _ => false

/-- REPLW (R239, R247): update or invalidation n, the oldest on its way, reaches a replica slice, which applies the write as it received
it and acknowledges it. -/
def execReplw (s : State) : Out :=
  match s.inFlight s.focus.n with
  | some ⟨_, tag, _, _, .replUpd die line upd⟩ =>
    if (s.reqs.take s.focus.n).any fun r => r.pkt.forReplica die line then .fault .notEnabled
    else
      let s := s.dropReq s.focus.n
      let s := match upd, tget? s.replicas (line * 4 + die) with
        | none, _ => { s with replicas := tdel s.replicas (line * 4 + die) }
        | some ws, some r => { s with replicas := tset s.replicas (line * 4 + die) { r with data := lineOver ws r.data } }
        | some _, none => s
      .next (if upd.isNone || (replicaCell 6).msg == 5 then s.sendPkt tag (.ack line (if upd.isNone then 7 else 9)) else s)
  | _ => .fault .notEnabled

/-- An acknowledgement, of an event code, at its line: the last one runs the cell (R245). -/
def State.ackStep (s : State) (n code : Nat) : Out :=
  match s.inFlight n with
  | some ⟨_, _, _, _, .ack line k⟩ =>
    if k != code then .fault .notEnabled
    else
      let s := s.dropReq n
      match s.dir line with
      | none => .next s
      | some d =>
        let s := s.modDir line fun d => { d with cnt := d.cnt - 1 }
        if 1 < d.cnt then .next s
        else .next (s.applyEv line code (ownEv code line))
  | _ => .fault .notEnabled

/-- ACKI (R245): acknowledgement n of an invalidation. -/
def execAcki (s : State) : Out := s.ackStep s.focus.n 7
/-- ACKU (R245): of an update. -/
def execAcku (s : State) : Out := s.ackStep s.focus.n 8
/-- RACK (R245): of a replica update. -/
def execRack (s : State) : Out := s.ackStep s.focus.n 9

end Sys2Proof.Machine
end

