-- ==== Sys2Proof/Machine/Home.lean ====
section
/-!
DEFINITION. Machine/Home: the store queue (R25, R213, R214, R298) and what homes perform: stores (R221, R233), full/empty
forms (R215 to R217), atomics (R218), compare-and-swap (R219); the fill of RESUME (R349, R350).
-/
namespace Sys2Proof.Machine

/-! ## The store queue -/

/-- Changes an entry of a core's store queue. -/
def State.modSq (s : State) (c id : Nat) (f : SqEnt → SqEnt) : State :=
  s.modCore c fun k => { k with sq := k.sq.map fun e => if e.id = id then f e else e }

/-- The scope of the latest fence mark of a thread that its store follows (R231). -/
def markScope (ahead : List SqEnt) (ctx : Nat) : Option Scope :=
  ahead.foldl (fun r e => match e.kind with | .mark sc => if e.ctx = ctx then some sc else r | _ => r) none

/-- Every store ahead of a release has been accepted at its home and performed at its scope (R213). -/
def releasesAfter (ahead : List SqEnt) (sc : Scope) : Bool := ahead.all fun a => !a.isStore || (a.phase == .accepted && a.performedAt sc)

/-- What the head of a store queue does when it leaves: `ahead` are the entries that have left and are not performed. A store behind a
fence mark is a release (R231): it too leaves after the stores ahead of it are accepted. -/
def State.depart (s : State) (c : Nat) (ahead : List SqEnt) (e : SqEnt) : Option State :=
  let tag := (s.core c).tag
  let out (p : Pkt) : Option State := some ((s.modSq c e.id fun e => { e with phase := .departed }).sendPkt tag p)
  match e.kind with
  | .st w =>
    let sc := markScope ahead e.ctx
    if sc.isNone || ahead.all fun a => !a.isStore || a.phase == .accepted then out (.store c e.id w sc e.ten) else none
  | .rel w sc =>
    -- a strong access: the core's own copy of its line goes when it leaves (R242)
    if releasesAfter ahead sc then
      ((s.modSq c e.id fun e => { e with phase := .departed }).modCore c fun k => k.spoil (w.word / 16)).sendPkt tag (.store c e.id w (some sc) e.ten)
    else none
  | .mark sc =>
    if ahead.all fun a => a.performedAt sc then some ((s.modSq c e.id fun e => { e with phase := .departed }).modCore c Core.pruned) else none
  | .join set blk => out (.join c e.id e.ctx e.ten set blk)
  | .leave set tok => out (.leave c (some e.id) e.ctx e.ten set tok)
  | .launch r =>
    if (ahead.all fun a => !a.isStore) && (s.slot c e.slot).lbuf.isNone then
      let s := s.setSlot c e.slot { s.slot c e.slot with lbuf := some r }
      some ((s.performed c e.id).sendPkt tag (.launch c e.slot r))
    else none
  | .ecfg eng vq resume img cwa => if ahead.all fun a => !a.isStore then out (.ecfg c e.id e.ten eng vq resume img cwa) else none
  | .ecancel eng vq cwa => if ahead.all fun a => !a.isStore then out (.ecancel c e.id e.ten eng vq cwa) else none

/-- STORE_QUEUE_DEPART (R25, R213, R214): the oldest entry of core n's store queue that has not left. -/
def execStoreQueueDepart (s : State) : Out :=
  let q := (s.core s.focus.n).sq
  match q.find? fun e => e.phase == .queued with
  | some e => match s.depart s.focus.n (q.takeWhile fun a => a.id != e.id) e with
    | some s => .next s
    | none => .fault .notEnabled
  | none => .fault .notEnabled

/-- Records a release and what lies ahead of it, where something does (R213, R232). -/
def State.addRelease (s : State) (w c : Nat) (sc : Scope) (ids : List Nat) : State :=
  let live := s.releases.filter fun r => r.2.2.2.any fun id => (s.core r.2.1).sq.any fun e => e.id == id
  { s with releases := if ids.isEmpty then live else live ++ [(w, c, sc, ids)] }

/-- The release of an accepted store, with what its core's queue holds ahead of it (R213, R232). -/
def State.noteRelease (s : State) (c id word : Nat) (rel : Option Scope) : State :=
  match rel with
  | some sc => s.addRelease word c sc (((s.core c).sq.takeWhile fun (x : SqEnt) => x.id != id).map SqEnt.id)
  | none => s

/-- A write over an update of its line that is on its way to a core. -/
def Pkt.over (c : Nat) (w : Wr) : Pkt → Pkt
  | .inv d l (some ws) => .inv d l (some (if d = c && l = w.word / 16 then ws ++ [w] else ws))
  | p => p
/-- A store of a core is later than the updates of its line that are on their way to it: they do not undo it there (R25, R237). -/
def State.overUpdates (s : State) (c : Nat) (w : Wr) : State := { s with reqs := s.reqs.map fun r => { r with pkt := r.pkt.over c w } }

/-- A store accepted at the home of a stack word: a plain store is presented to the table as WR, a strel as SA (R233, R243). -/
def State.acceptStack (s : State) (c id : Nat) (w : Wr) (rel : Option Scope) (t : Nat) : State :=
  let q := (s.core c).sq
  let ent : Option SqEnt := q.find? fun x => x.id == id
  let strel : Bool := match ent with | some x => (match x.kind with | .rel _ _ => true | _ => false) | none => false
  if !s.domainOk (8 * w.word) w.dom then (s.domainFault t).performed c id
  else
    if strel && s.mixedBad w.word (maskCount w.mask) then (s.storeFault c id 14 w.va).performed c id
    else
      let s := if strel then s.tagSize w.word (maskCount w.mask) else s
      let s := s.homePut w.word w.data w.mask
      -- the core's own copy follows; blocks of its other threads see it as an update (R33)
      let s := s.overUpdates c w
      let s := s.modCore c fun k =>
        { (k.l1Store t w) with fills := k.fills.map (Fill.seen fun n => n == w.word / 16) }.mark33 (fun n => n == w.word / 16) (ent.map SqEnt.ctx)
      let s := (s.noteRelease c id w.word rel).modSq c id fun e => { e with phase := .accepted }
      let e : PEv := { code := if strel then 2 else 1, line := w.word / 16, req := c, hint := w.hint, who := .none, words := [], reply := none, sq := some (c, id), va := w.va, dom := w.dom, ten := t, wrs := [w] }
      { s with peq := s.peq ++ [e] }.reap c

/-- HOME_STORE_ACCEPT (R233): store n reaches its home, after the stores of its core to the same word that left before it.
Device and remote windows lie outside the package (log entry 13). -/
def execHomeStoreAccept (s : State) : Out :=
  match s.inFlight s.focus.n with
  | some ⟨_, tag, _, _, .store c id w rel t⟩ =>
    let before := (s.reqs.take s.focus.n).any fun r => match r.pkt with | .store c' _ w' _ _ => c' == c && w'.word == w.word | _ => false
    if before || s.chanDown (8 * w.word) then .fault .notEnabled
    else
      let gone := s.dropReq s.focus.n
      if !s.tagOk tag (8 * w.word) then .next (gone.tagFault ((s.destTag (8 * w.word)).getD 0) t)
      else if s.homeFenced (8 * w.word) then .next ((gone.storeFault c id 3 w.va).performed c id)
      else if isStack (8 * w.word) then s.withLine (w.word / 16) t w.dom fun s => .next ((s.dropReq s.focus.n).acceptStack c id w rel t)
      else if s.windowHeld t w.word then .fault .notEnabled
      else
        let s := if outside w.word then gone.countWindow .none t w.word (maskCount w.mask) 0 else gone.putWord w.word w.data w.mask
        .next ((s.noteRelease c id w.word rel).performed c id)
  | _ => .fault .notEnabled

/-! ## Strong accesses -/

/-- Whether the earlier stores of a requester's thread are performed at system scope, as a release needs (R217, R231). -/
def State.whoDrained (s : State) (who : Who) : Bool :=
  match who with
  | .entry c k _ _ => match (s.slot c k).ctx with | some y => s.drained c y.id .sys | none => true
  | _ => true

/-- Whether a strong access of a word waits at the home for what lay ahead of a release made outside its scope (R232). -/
def State.mustWiden (s : State) (who : Who) (w : Nat) : Bool := (s.outstanding w who.core).isSome

/-- What a strong access wrote: the words of ws that have changed, as its update brings them. -/
def State.wrote (s t : State) (ws : List Nat) (e : PEv) : List Wr :=
  ws.filterMap fun w => if t.word w = s.word w then none else some ⟨w, t.word w, 0xFF, e.va, e.hint, e.dom⟩

/-- A strong access of n bytes at words ws, request number `rq`: f performs it and gives its reply, or none where it parks.
It is turned away by a tag, a fenced home, a domain or a mixed size first, and dropped where a fenced tenant makes it through a window
(R388); on a stack line the table then sees SA. -/
def State.strong (s : State) (rq : Nat) (tag : Nat) (ws : List Nat) (n : Nat) (who : Who) (hint : Nat) (va : Word) (dom : Nat) (zero : Reply)
    (f : State → State × Option Reply) : State :=
  let w := ws.headD 0
  let t := s.whoTen who
  let gone := s.dropReq rq
  if !s.tagOk tag (8 * w) then gone.tagFault ((s.destTag (8 * w)).getD 0) t
  else if s.homeFenced (8 * w) then gone.reply who (.fault ⟨3, va⟩)
  else if s.cutOff t w then gone
  else if !isStack (8 * w) then
    let r := f gone
    match r.2 with | some p => r.1.reply who p | none => r.1
  else if !s.domainOk (8 * w) dom then (gone.domainFault t).reply who zero
  else
    let e : PEv := { code := 2, line := w / 16, req := who.core, hint := hint, who := who, words := [], reply := none, sq := none, va := va,
                     dom := dom, ten := t }
    let r := gone.checkHint e
    let s := r.1
    if ws.any fun w => s.mixedBad w n then s.reply who (.fault ⟨14, va⟩)
    else
      let s := ws.foldl (fun s w => s.tagSize w n) s
      let s := if who.core < 4096 then s.modCore who.core fun k => k.spoil (w / 16) else s
      let q := f s
      match q.2 with
      | some p => { q.1 with peq := q.1.peq ++ [{ r.2 with reply := some p, wrs := s.wrote q.1 ws r.2 }] }
      | none => q.1

/-- A strong access of a word at its home, with its line in the L2 where it brings it in (R182, R241). -/
def State.atHome (s : State) (tag w : Nat) (who : Who) (dom : Nat) (f : State → Out) : Out :=
  if s.tagOk tag (8 * w) && !s.homeFenced (8 * w) then s.withLine (w / 16) (s.whoTen who) dom f else f s

/-- Whether a full/empty form fills. -/
def feFills (r : Instr) : Bool := r == .stfw || r == .stfn || r == .fefill
/-- Whether a full/empty form that finds its word so parks: a load on an empty word, a stfw on a full one. -/
def feParks (r : Instr) (full : Bool) : Bool := match r with | .ldfw => !full | .ldfwe => !full | .stfw => full | _ => false

/-- Serve (R215), for a form that does not park: its reply, and its effect on the word. -/
def State.serve (s : State) (q : FeReq) : State × Reply :=
  let w := q.word
  let v := s.word w
  let full := s.full w
  match q.form with
  | .ldfw => (s, .result (.sc v) .null)
  | .ldfwe => (s.emptyWord w, .result (.sc v) .null)
  | .ldfn => (s, if full then .result (.sc v) (.sc 1) else .result (.sc 0) (.sc 0))
  | .ldfne => if full then (s.emptyWord w, .result (.sc v) (.sc 1)) else (s, .result (.sc 0) (.sc 0))
  | .stfw => (s.fillHome w q.b, .result .null .null)
  | .stfn => if full then (s, .result (.sc 0) .null) else (s.fillHome w q.b, .result (.sc 1) .null)
  | .fefill => (s.fillHome w q.b, .result .null .null)
  | _ => (s.emptyWord w, .result .null .null)

/-- A full/empty form at a window: its outcome stands outside the package (log entry 13). -/
def State.feOutside (s : State) (q : FeReq) : State × Reply :=
  let v := s.takeFree
  let b := v.1.takeFree
  match q.form with
  | .ldfw => (v.1, .result (.sc v.2) .null)
  | .ldfwe => (v.1, .result (.sc v.2) .null)
  | .ldfn => (b.1, if b.2.getLsbD 0 then .result (.sc v.2) (.sc 1) else .result (.sc 0) (.sc 0))
  | .ldfne => (b.1, if b.2.getLsbD 0 then .result (.sc v.2) (.sc 1) else .result (.sc 0) (.sc 0))
  | .stfn => (v.1, .result (.sc (v.2 &&& 1)) .null)
  | _ => (s, .result .null .null)

/-- Wait entries that a slice holds (R187). -/
def State.waitsAt (s : State) (home : Nat) : Nat := (s.waits.filter fun x => homeOf (8 * x.word) == home).length

/-- What a form returns on a domain mismatch: zeros (R384). -/
def feZero (r : Instr) : Reply :=
  match r with
  | .ldfn => .result (.sc 0) (.sc 0)
  | .ldfne => .result (.sc 0) (.sc 0)
  | .stfw => .result .null .null
  | .fefill => .result .null .null
  | .fepurge => .result .null .null
  | _ => .result (.sc 0) .null

/-- HOME_FE_REQUEST (R186, R187, R215): request n at its word's home. -/
def execHomeFeRequest (s : State) : Out :=
  match s.inFlight s.focus.n with
  | some ⟨_, tag, _, _, .fe q⟩ =>
    if s.chanDown (8 * q.word) || s.windowHeld (s.whoTen q.who) q.word || !s.ownAccepted q.who q.word || s.mustWiden q.who q.word || (feFills q.form && !s.whoDrained q.who) then .fault .notEnabled
    else if feParks q.form (s.full q.word) && !outside q.word && s.tagOk tag (8 * q.word) && s.domainOk (8 * q.word) q.dom && 2048 ≤ s.waitsAt (homeOf (8 * q.word)) then
      .next { s.nack s.focus.n Config.resendClk with sliceCtr := tadd s.sliceCtr (homeOf (8 * q.word) * 4) 1 }
    else s.atHome tag q.word q.who q.dom fun s => .next (s.strong s.focus.n tag [q.word] 8 q.who q.hint q.va q.dom (feZero q.form) fun s =>
      if outside q.word then
        let n := if feFills q.form then (8, 0) else (0, if q.form == .fepurge then 0 else 8)
        let r := (s.countWindow q.who (s.whoTen q.who) q.word n.1 n.2).feOutside q
        (r.1, some r.2)
      else if feParks q.form (s.full q.word) then ({ s with waits := s.waits ++ [⟨q.word, q.form == .stfw, q⟩] }, none)
      else
        let r := s.serve q
        (r.1, some r.2))
  | _ => .fault .notEnabled

/-- WAIT_RETRY_TIMER (R187): request n, sent back for want of a wait entry. -/
def execWaitRetryTimer (s : State) : Out := s.resend s.focus.n fun p => match p with | .fe _ => true | _ => false

/-- The new value of an atomic (R218) of n bytes; old and b are its low 8 × n bits. -/
def amoNew (row : Instr) (n : Nat) (old b : Word) : Word :=
  let sg (v : Word) : Int := if n = 8 then v.toInt else (v.truncate 32).toInt
  match row with
  | .amoSwap => b
  | .amoAdd => old + b
  | .amoAnd => old &&& b
  | .amoOr => old ||| b
  | .amoXor => old ^^^ b
  | .amoMinS => if sg b < sg old then b else old
  | .amoMaxS => if sg old < sg b then b else old
  | _ => if old.toNat < b.toNat then b else old

/-- HOME_AMO (R218): request n. -/
def execHomeAmo (s : State) : Out :=
  match s.inFlight s.focus.n with
  | some ⟨_, tag, _, _, .amo row w hi d b who hint va dom⟩ =>
    let n := if d then 8 else 4
    let at_ := if hi then 4 else 0
    if s.chanDown (8 * w) || s.windowHeld (s.whoTen who) w || !s.ownAccepted who w || s.mustWiden who w then .fault .notEnabled
    else s.atHome tag w who dom fun s => .next (s.strong s.focus.n tag [w] n who hint va dom (.result (.sc 0) .null) fun s =>
      if outside w then
        let v := (s.countWindow who (s.whoTen who) w n n).takeFree
        (v.1, some (.result (.sc (if d then v.2 else bfxS v.2 0 32)) .null))
      else
        let old := partWord (s.word w) at_ n
        let new := amoNew row n old (partWord b 0 n)
        (s.homePut w (new <<< (8 * at_)) (byteMask at_ n), some (.result (.sc (if d then old else bfxS old 0 32)) .null)))
  | _ => .fault .notEnabled

/-- HOME_CAS (R219): request n. -/
def execHomeCas (s : State) : Out :=
  match s.inFlight s.focus.n with
  | some ⟨_, tag, _, _, .cas row w hi b c who hint va dom⟩ =>
    let q := row == .casQ
    let n := if row = .casW then 4 else 8
    let at_ := if hi then 4 else 0
    let ws := if q then [w, w + 1] else [w]
    let res (v : BitVec 128) : Reply :=
      if q then .result (.vec (v.zeroExtend 512) 0) .null else .result (.sc (if row = .casW then bfxS (v.truncate 64) 0 32 else v.truncate 64)) .null
    if s.chanDown (8 * w) || s.windowHeld (s.whoTen who) w || !(ws.all fun w => s.ownAccepted who w && !s.mustWiden who w) then .fault .notEnabled
    else s.atHome tag w who dom fun s => .next (s.strong s.focus.n tag ws (if q then 16 else n) who hint va dom (res 0) fun s =>
      if outside w then
        let m := if q then 16 else n
        let v := (s.countWindow who (s.whoTen who) w (2 * m) m).takeFree
        let u := v.1.takeFree
        (u.1, some (res (u.2 ++ v.2)))
      else if q then
        let old : BitVec 128 := s.word (w + 1) ++ s.word w
        let s := if old = b then (s.homePut w (c.extractLsb' 0 64) 0xFF).homePut (w + 1) (c.extractLsb' 64 64) 0xFF else s
        (s, some (res old))
      else
        let old := partWord (s.word w) at_ n
        let s := if old = partWord (b.truncate 64) 0 n then s.homePut w (partWord (c.truncate 64) 0 n <<< (8 * at_)) (byteMask at_ n) else s
        (s, some (res (old.zeroExtend 128))))
  | _ => .fault .notEnabled

/-! ## RESUME (R349, R350) -/

/-- ACT 1 or 3 on a context held outside a slot. -/
def State.endHeld (s : State) (c : Nat) (y : Ctx) : State := (((s.endEffects c 0 y).modCtxId y.id Ctx.ended)).reap c

/-- What a stopped context becomes under ACT 0 in its slot: a stopped first-use trap starts again (R340). -/
def Ctx.restarted (y : Ctx) (ws : List Word) (clk : Nat) : Ctx :=
  let z := y.resumed ws clk
  match y.hold with
  | .tileSave tt => { z with hold := .firstUse tt clk }
  | _ => z

/-- The code that a launch takes as STATUS where ACT 1 or 3 ends a stopped context (R279). -/
def Ctx.stopCode (y : Ctx) : Nat :=
  match y.hold with
  | .tileSave _ => 0x0100
  | _ => y.trapcause.toNat % 65536

/-- The context of a number and the core that holds it. -/
def State.holderOf (s : State) (id : Nat) : Option (Nat × Ctx) :=
  s.cores.findSome? fun c => (c.2.contexts.find? fun y => y.id == id).map fun y => (c.1, y)

/-- RESUME_FILL (R349, R350): fill n of a RESUME word, which its wait has emptied, reaches its context, wherever it is held. The
record is read as a system-scope acquire reads it (R232). Outside a slot, and under ACT 2, a context stopped in a first-use trap
meets the trap again when its block runs. -/
def execResumeFill (s : State) : Out :=
  match s.inFlight s.focus.n with
  | some ⟨_, _, _, _, .resume id v⟩ => match s.holderOf id with
    | none => .next (s.dropReq s.focus.n)
    | some (c, y) => match y.recPa with
      | none => .next (s.dropReq s.focus.n)
      | some pa =>
        if (List.range 32).any fun i => (s.outstanding (pa / 8 + i) 4096).isSome then .fault .notEnabled
        else
          let s := s.dropReq s.focus.n
          let act := v.toNat % 4
          let (s, ws) := s.readWordsIn (s.svten (s.core c).tag) y.recDom (pa / 8) 32
          match s.slotOfCtx id with
          | some (n, k) =>
            if act % 2 = 1 then .next ((s.launchStop y y.stopCode).endThread n k)
            else if act = 2 && (s.slot n k).blk.isNone then
              let z := y.resumed ws s.cycle
              .next (((s.vacate n k).cachePut n z).getD (s.modCtx n k fun _ => { z with hold := .requeued }))
            else .next (s.modCtx n k fun _ => y.restarted ws s.cycle)
          | none =>
            if act % 2 = 1 then .next ((s.launchStop y y.stopCode).endHeld c y)
            else .next (s.modCtxId id fun _ => y.resumed ws s.cycle)
  | _ => .fault .notEnabled

end Sys2Proof.Machine
end

