-- ==== Sys2Proof/Machine/Messages.lean ====
section
/-!
DEFINITION. Machine/Messages: messages and handlers (R265 to R269, R286 to R289, R353), spawn (R255, R270, R285), membership
sets and barriers (R271 to R273, R294 to R297).
-/
namespace Sys2Proof.Machine

/-! ## Threads that start -/

/-- A launch. -/
def State.launch? (s : State) (l : Nat) : Option Launch := tget? s.launches l
/-- Changes a launch. -/
def State.modLaunch (s : State) (l : Nat) (f : Launch → Launch) : State :=
  match tget? s.launches l with
  | some x => { s with launches := tset s.launches l (f x) }
  | none => s

/-- A thread that starts counts in its launch's grant and in THREADS, which saturates (R277, Table 15.7). -/
def State.countIn (s : State) (l : Option Nat) (grant : Nat) : State :=
  match l with
  | none => s
  | some l => s.modLaunch l fun x => { x with
      threads := min (2 ^ 32 - 1) (x.threads + 1),
      grants := x.grants.map fun g => if g.1 = grant then (g.1, g.2.1, g.2.2.1, g.2.2.2.1, g.2.2.2.2 + 1) else g }

/-- A spawned child or a handler counts against the spawn quota (R270). -/
def State.countSpawn (s : State) (t : Nat) : State := (s.quotaAdd t 5 1).modTen t fun x => { x with spawns := x.spawns + 1 }

/-- The launch slot number that a context of a launch holds (R277); all ones for none. -/
def State.lslotOf (s : State) (l : Option Nat) : BitVec 12 :=
  match l.bind s.launch? with | some x => BitVec.ofNat 12 x.lslot | none => 0xFFF

/-- A new context of a tenant in its first state (R255, R259, R269). -/
def State.newCtx (s : State) (t : Nat) (pc : Word) (l : Option Nat) (grant : Nat) : State × Ctx :=
  ({ s with nextId := s.nextId + 1 },
   { id := s.nextId, pc := pc, tag := BitVec.ofNat 16 (t * 2048), launch := l, grant := grant, lslot := s.lslotOf l, rdy := true, clk := s.cycle })

/-- Writes words to g0, g1, … of a context. -/
def Ctx.withArgs (y : Ctx) (ws : List Word) : Ctx := ws.zipIdx.foldl (fun y w => y.setG (BitVec.ofNat 4 w.2) w.1) y

/-! ## Messages -/

/-- Accepts message n: it is gone, and its send gets status 1. -/
def State.accepted (s : State) (n : Nat) (m : Msg) : State := (s.dropReq n).answerSend m 1

/-- NACKs message n: it is resent until accepted, or dropped for send.nw with status 0 (R287). -/
def State.nackMsg (s : State) (n : Nat) (m : Msg) : State :=
  if m.wait then s.nack n Config.resendClk else (s.dropReq n).answerSend m 0

/-- The core a message goes to. -/
def State.msgCore (s : State) (m : Msg) : Option Nat := s.physCore (s.partOf m.ten) (contCore m.cont)

/-- Whether a message may be handled: its sender's earlier stores are performed at system scope (R289), for that of a stop those of the
stopped thread and the words of its record (R231, R348), no earlier message of the same slot to the same continuation is on its way
(R268), and its core is not stopped by the debug module (R400). -/
def State.msgReady (s : State) (n : Nat) (m : Msg) (core : Nat) : Bool :=
  (match m.reply with
    | some (c, k, rid, i) => s.whoDrained (.entry c k rid i)
    | none => s.agentsDone && m.after.all fun x => (s.core x.1).sq.all fun e => e.id != x.2 || e.performedAt .sys) && (s.core core).dbgStop.isEmpty &&
    (s.reqs.take n).all fun r => match r.pkt with
      | .msg x => !(x.cont == m.cont && x.hdr &&& 0xFFFF0000 == m.hdr &&& 0xFFFF0000)
      | _ => true

/-- CTX of a KIND 0 continuation. -/
def contTag (w : Word) : BitVec 16 := w.extractLsb' 32 16
/-- SLOT. -/
def contSlot (w : Word) : Nat := (w.extractLsb' 16 4).toNat

/-- Appends a message to the buffer of a context number of tenant t, whose HEAD and COUNT word is w, by strong accesses; what is written
to a buffer that does not translate is discarded (R266; DESIGN CHOICE, log entry 21). -/
def State.bufferMsg (s : State) (t tag : Nat) (w : Word) (m : Msg) : State :=
  match s.bufferPa tag with
  | none => s
  | some (pa, dom) =>
    let e := pa / 8 + 8 * ((bufHead w + bufCount w) % 15 + 1)
    let ws := (m.hdr.zeroExtend 64 ||| BitVec.ofNat 64 (contReg m.cont)) :: m.pay
    (ws.zipIdx.foldl (fun s x => s.strongIn t dom (e + x.2) x.1) s).strongIn t dom (pa / 8) (bufWord (bufHead w) (bufCount w + 1))

/-- Where the receiver of a message is held at a core (R266). -/
def State.receiver (s : State) (core : Nat) (m : Msg) : Option (Ctx × Bool × Bool) :=
  let tag := contTag m.cont
  let inSlot := match (s.slot core (contSlot m.cont)).ctx with
    | some y => if y.tag = tag && y.hold != .migrating && y.hold != .ending then some (y, true, false) else none
    | none => none
  inSlot <|> ((s.core core).cache.find? fun y => y.tag == tag && y.hold != .migrating).map (fun y => (y, false, false)) <|>
    ((s.core core).saved.find? fun r => r.2.2.tag == tag).map fun r => (r.2.2, false, true)

/-- The slots for whose block boundary a send of the block in a slot waits: its message is to be delivered there, or waits behind one
that is. -/
def State.sendsTo (s : State) (c k : Nat) : List (Nat × Nat) :=
  let mine (m : Msg) : Bool := match m.reply with | some (a, b, _, _) => a == c && b == k | none => false
  (s.cores.flatMap fun q => q.2.slots.filterMap fun x => match x.2.ctx with
    | some y => if y.due.any mine then some (q.1, x.1) else none
    | none => none) ++
  s.reqs.filterMap fun r => match r.pkt with
    | .msg m => match s.msgCore m with
      | some core => match (s.slot core (contSlot m.cont)).ctx with
        | some y => if mine m && y.tag == contTag m.cont && y.due.isSome then some (core, contSlot m.cont) else none
        | none => none
      | none => none
    | _ => none

/-- Whether the boundaries of some slots wait, through sends, for that of a slot. -/
def State.waitsFor (s : State) (t : Nat × Nat) : Nat → List (Nat × Nat) → Bool
  | 0, _ => false
  | n + 1, l => l.contains t || State.waitsFor s t n (l.flatMap fun x => s.sendsTo x.1 x.2)

/-- Whether the block boundary of a slot waits, through sends, for the answer to a message of its own: none of them would end. -/
def State.sendCycle (s : State) (core k : Nat) (m : Msg) : Bool :=
  match m.reply with
  | some (c, j, _, _) => s.waitsFor (c, j) ((s.cores.map fun q => q.2.slots.length).sum + 1) [(core, k)]
  | none => false

/-- DELIVER (R266, R287, R288): KIND 0 message n at the core its continuation names. One for a thread that runs a block waits for
the block's boundary, and is accepted there. Where that boundary itself waits for this message's answer, the message is accepted on
arrival: it waits for the boundary, or behind another that does in the buffer (DEDUCED, log entry 21). -/
def execDeliver (s : State) : Out :=
  match s.inFlight s.focus.n with
  | some ⟨_, tag, _, _, .msg m⟩ =>
    if m.cont.getLsbD 63 then .fault .notEnabled
    else match s.msgCore m with
      | none => .next (s.nackMsg s.focus.n m)
      | some core =>
        let n := s.focus.n
        let t := (contTag m.cont).toNat / 2048
        if !s.msgReady n m core then .fault .notEnabled
        else if (s.core core).tag != tag then .next ((s.dropReq n).tagFault (s.core core).tag m.ten)
        else if !s.coreRuns core then .next (s.nackMsg n m)
        else
          let free := match s.ten? t with | some x => !x.numbers.contains ((contTag m.cont).toNat % 2048) | none => true
          if free then .next ((s.countPart (s.core core).tag 0x300).accepted n m)
          else
            let (s, w) := s.bufState t (contTag m.cont).toNat
            let buffered (r : Option (Ctx × Bool × Bool)) : Out :=
              if bufCount w = 15 then .next (s.nackMsg n m)
              else
                let s := (s.bufferMsg t (contTag m.cont).toNat w m).accepted n m
                match r with
                | some (y, false, _) => .next (if y.mwait then s.modCtxId y.id fun z => { z with rdy := true, clk := s.cycle } else s)
                | _ => .next s
            match s.receiver core m with
            | none => buffered none
            | some (y, slot, rec_) =>
              if rec_ || y.mdl || 0 < bufCount w then buffered (some (y, slot, rec_))
              else match (if slot then (s.slot core (contSlot m.cont)).blk else none) with
              | some _ =>
                let cycle := s.sendCycle core (contSlot m.cont) m
                if y.due.isSome then (if cycle then buffered (some (y, slot, rec_)) else .fault .notEnabled)
                else if cycle then .next ((s.modCtxId y.id fun z => { z with due := some { m with reply := none } }).accepted n m)
                else .next ((s.dropReq n).modCtxId y.id fun z => { z with due := some m })
              | none => .next ((s.modCtxId y.id fun z =>
                let z := z.receive (contReg m.cont) m.pay m.hdr
                if z.mwait then { z with mwait := false, rdy := true, clk := s.cycle } else z).accepted n m)
  | _ => .fault .notEnabled

/-- SEND_RESEND (R287): NACKed message n. -/
def execSendResend (s : State) : Out := s.resend s.focus.n fun p => match p with | .msg _ => true | _ => false

/-- The context that a KIND 1 message starts (R269). -/
def State.handler (s : State) (m : Msg) : State × Ctx :=
  let r := s.newCtx m.ten ((m.cont &&& 0x0007FFFFFFFFFFFF) <<< 6) m.launch m.grant
  (r.1, { r.2.withArgs m.pay with hnd := true, spawned := true, link := m.link })

/-- HANDLER_START (R269, R287): KIND 1 message n. -/
def execHandlerStart (s : State) : Out :=
  match s.inFlight s.focus.n with
  | some ⟨_, tag, _, _, .msg m⟩ =>
    if !m.cont.getLsbD 63 then .fault .notEnabled
    else match s.msgCore m with
      | none => .next (s.nackMsg s.focus.n m)
      | some core =>
        let n := s.focus.n
        let full := match s.ten? m.ten with | some x => x.atLimit 5 | none => true
        if !s.msgReady n m core then .fault .notEnabled
        else if (s.core core).tag != tag then .next ((s.dropReq n).tagFault (s.core core).tag m.ten)
        else if !s.acceptsArrival core m.ten || full then .next (s.nackMsg n m)
        else
          let r := s.handler m
          .next (((((r.1.modCore core fun q => { q with arrivals := q.arrivals ++ [r.2] }).countSpawn m.ten).countIn m.launch m.grant)).accepted n m)
  | _ => .fault .notEnabled

/-! ## Spawn -/

/-- The child of a spawn (R255). -/
def State.child (s : State) (parent : Ctx) (entry : Word) (gs : List Word) (lfsr : Word) : State × Ctx :=
  let r := s.newCtx parent.ten entry parent.launch parent.grant
  (r.1, { r.2.withArgs gs with stklim := parent.stklim, fpm := parent.fpm, fmt := parent.fmt, scale := parent.scale, lfsr := lfsr, lslot := parent.lslot, spawned := true })

/-- SPAWN_REQUEST (R255, R285): request n at its core: the child starts, or the request is refused. -/
def execSpawnRequest (s : State) : Out :=
  match s.inFlight s.focus.n with
  | some ⟨_, tag, _, _, .spawn row core entry gs parent lfsr who⟩ =>
    let n := s.focus.n
    let refuse (s : State) : State := if row = .spawnw then s.nack n Config.resendClk else (s.dropReq n).reply who (.result (.sc 0) .null)
    let full := match s.ten? parent.ten with | some x => x.atLimit 5 | none => true
    if !s.whoDrained who then .fault .notEnabled
    else if (s.core core).tag != tag then .next ((s.dropReq n).tagFault (s.core core).tag parent.ten)
    else match s.freeSlot core, (s.core core).waiting.isEmpty && !full with
      | some k, true =>
        let r := s.child parent entry gs lfsr
        .next ((((((r.1.dropReq n).seat core k r.2).countSpawn parent.ten).countIn parent.launch parent.grant)).reply who (.result (.sc 1) .null))
      | _, _ => .next (refuse s)
  | _ => .fault .notEnabled

/-- SPAWNW_RESEND (R285): NACKed request n. -/
def execSpawnwResend (s : State) : Out := s.resend s.focus.n fun p => match p with | .spawn _ _ _ _ _ _ _ => true | _ => false

/-! ## Sets and barriers -/

/-- Changes a set of a tenant. -/
def State.modSet (s : State) (t n : Nat) (f : SetObj → SetObj) : State :=
  s.modTen t fun x => match tget? x.sets n with
    | some o => { x with sets := tset x.sets n (f o) }
    | none => x
/-- A set of a tenant, if it is not free. -/
def State.set? (s : State) (t n : Nat) : Option SetObj := (s.ten? t).bind fun x => tget? x.sets n

/-- Changes the barrier token of a block, where the run still stands (R272). -/
def State.tokAt (s : State) (c k rid : Nat) (t : Option BarTok) : State :=
  match (s.slot c k).blk with
  | some b => if b.rid = rid then s.modBlk c k fun b => { b with tok := some t } else s
  | none => s

/-- The barrier token of a thread in a run. -/
def State.tokOf (s : State) (c k rid : Nat) (y : Ctx) : Option BarTok :=
  match (s.slot c k).blk with
  | some b => if b.rid = rid then b.curTok y else y.tok
  | none => y.tok

/-- Answers a bar whose phase has completed, PH being `ph` now. The token it waited by is cleared (R273); one that a bar.nw of its
block has set since, in the phase that now completes, stands (DEDUCED, log entry 20). -/
def State.answerBar (ph : Bool) (s : State) (w : Nat × Nat × Nat × Nat × Nat) : State :=
  let s := match (s.slot w.1 w.2.1).ctx with
    | some y => match s.tokOf w.1 w.2.1 w.2.2.1 y with
      | some t => if t.bk || t.ph == ph then s.tokAt w.1 w.2.1 w.2.2.1 none else s
      | none => s
    | none => s
  s.reply (.entry w.1 w.2.1 w.2.2.1 w.2.2.2.1) (.result .null .null)

/-- Check (R272): the phase completes while every member has arrived. -/
def State.checkSet : Nat → Nat → Nat → State → State
  | 0, _, _, s => s
  | fuel + 1, t, n, s => match s.set? t n with
    | none => s
    | some o =>
      if 0 < o.memb && o.arr = o.memb then
        let s := s.modSet t n fun o => { o with arr := o.deferred.length, ph := !o.ph, waiters := o.deferred, deferred := [] }
        State.checkSet fuel t n (o.waiters.foldl (State.answerBar (!o.ph)) s)
      else s

/-- Whether request n of a thread to a set comes after another of its requests to it that is still on its way (R297). -/
def State.behindOwn (s : State) (n ctx set : Nat) : Bool :=
  (s.reqs.take n).any fun r => match r.pkt with
    | .join _ _ x _ m _ => x == ctx && m == set
    | .leave _ _ x _ m _ => x == ctx && m == set
    | .arrive _ _ _ _ x _ m _ => x == ctx && m == set
    | .stands w _ m _ => w.2.2.2.2 == ctx && m == set
    | _ => false

/-- Whether the slice of a set's home serves only vault traffic (R271, R397). -/
def State.setDown (s : State) (t n : Nat) : Bool := s.sliceDown (s.partOf t) (n % max 1 (s.nslices (s.partOf t)))

/-- SET_JOIN_HOME (R271, R295): request n. Requests of one thread to one set arrive in order (R297). -/
def execSetJoinHome (s : State) : Out :=
  match s.inFlight s.focus.n with
  | some ⟨_, tag, _, _, .join c sq ctx t n blk⟩ =>
    if s.behindOwn s.focus.n ctx n || s.setDown t n then .fault .notEnabled
    else
      let s := (s.dropReq s.focus.n).performed c sq
      match s.set? t n with
      | some _ => .next (s.modSet t n fun o => { o with memb := o.memb + 1, had := true })
      | none => .next (s.sendPkt tag (.refused ctx n blk))
  | _ => .fault .notEnabled

/-- SET_LEAVE_HOME (R272): request n, of a gleave or a thread's end. An arrival of a phase that has completed was counted
in it. -/
def execSetLeaveHome (s : State) : Out :=
  match s.inFlight s.focus.n with
  | some ⟨_, _, _, _, .leave c sq ctx t n tok⟩ =>
    if s.behindOwn s.focus.n ctx n || s.setDown t n then .fault .notEnabled
    else
      let s := s.dropReq s.focus.n
      let s := match sq with | some id => s.performed c id | none => s
      match s.set? t n with
      | none => .next s
      | some o =>
        let deferred := o.deferred.any fun w => w.2.2.2.2 == ctx
        let o := if tok.isNone then o
          else if deferred then { o with deferred := o.deferred.filter fun w => w.2.2.2.2 != ctx }
          else if tok = some o.ph then { o with arr := o.arr - 1 } else o
        if o.memb ≤ 1 then .next (s.modTen t fun x => { x with sets := tdel x.sets n })
        else .next ((s.modSet t n fun _ => { o with memb := o.memb - 1 }).checkSet 3 t n)
  | _ => .fault .notEnabled

/-- Records an arrival in its block, for a discard (R273, R296). -/
def State.arrivedAt (s : State) (c k rid : Nat) (t : BarTok) : State :=
  match (s.slot c k).blk with
  | some b => if b.rid = rid then s.modBlk c k fun b => { b with bars := b.bars ++ [t] } else s
  | none => s

/-- bar.nw at the home (R272). -/
def State.barNw (s : State) (c k rid i t n : Nat) (y : Ctx) (o : SetObj) : State :=
  let status (v : Word) (s : State) : State := s.reply (.entry c k rid i) (.result .null (.sc v))
  match s.tokOf c k rid y with
  | some x => if o.ph != x.ph then status 1 (s.tokAt c k rid none) else status 0 s
  | none =>
    let s := (s.arrivedAt c k rid ⟨n, o.ph, false⟩).modSet t n fun o => { o with arr := o.arr + 1 }
    if o.arr + 1 = o.memb then status 1 (s.checkSet 3 t n) else status 0 (s.tokAt c k rid (some ⟨n, o.ph, false⟩))

/-- bar at the home (R272). A replay whose arrival was deferred takes the place of the arrival that stands (R273). -/
def State.bar (s : State) (c k rid i t n : Nat) (y : Ctx) (o : SetObj) : State :=
  let w := (c, k, rid, i, y.id)
  match s.tokOf c k rid y with
  | some x =>
    if x.bk then
      if o.deferred.any fun d => d.2.2.2.2 == y.id then
        s.modSet t n fun o => { o with deferred := o.deferred.map fun d => if d.2.2.2.2 = y.id then w else d }
      else if o.ph != x.ph then State.answerBar o.ph s w else s.modSet t n fun o => { o with waiters := o.waiters ++ [w] }
    else if o.ph == x.ph then
      (s.arrivedAt c k rid ⟨n, !o.ph, true⟩).modSet t n fun o => { o with deferred := o.deferred ++ [w] }
    else arriveBar s c k rid t n o w
  | none => arriveBar s c k rid t n o w
where
  /-- Clears the token, arrives and waits. -/
  arriveBar (s : State) (c k rid t n : Nat) (o : SetObj) (w : Nat × Nat × Nat × Nat × Nat) : State :=
    (((s.tokAt c k rid none).arrivedAt c k rid ⟨n, o.ph, true⟩).modSet t n fun o => { o with arr := o.arr + 1, waiters := o.waiters ++ [w] }).checkSet 3 t n

/-- An arrival that stands though its block was discarded, at the home: it counts in its phase, at once or deferred; nothing waits for it
(R273, R296). -/
def State.standing (s : State) (w : Nat × Nat × Nat × Nat × Nat) (t n : Nat) (ph : Bool) : State :=
  match s.set? t n with
  | none => s
  | some o =>
    if o.ph = ph then (s.modSet t n fun o => { o with arr := o.arr + 1 }).checkSet 3 t n
    else s.modSet t n fun o => { o with deferred := o.deferred ++ [w] }

/-- BARRIER_ARRIVE (R272, R296, R297): arrival or poll n, once its thread's joins, leaves and earlier stores are done. -/
def execBarrierArrive (s : State) : Out :=
  match s.inFlight s.focus.n with
  | some ⟨_, _, _, _, .stands w t n ph⟩ =>
    if !s.drained w.1 w.2.2.2.2 .sys || s.behindOwn s.focus.n w.2.2.2.2 n || s.setDown t n then .fault .notEnabled
    else .next ((s.dropReq s.focus.n).standing w t n ph)
  | some ⟨_, _, _, _, .arrive c k rid i ctx t n wait⟩ =>
    match (s.slot c k).ctx with
    | none => .fault .notEnabled
    | some y =>
      if !s.drained c ctx .sys || s.behindOwn s.focus.n ctx n || s.setDown t n then .fault .notEnabled
      else
        let s := s.dropReq s.focus.n
        match s.set? t n with
        | none => .next (s.reply (.entry c k rid i) (.fault ⟨15, BitVec.ofNat 64 n⟩))
        | some o => .next (if wait then s.bar c k rid i t n y o else s.barNw c k rid i t n y o)
  | _ => .fault .notEnabled

/-- GJOIN_REFUSED (R295): refusal n reaches its thread, wherever it is held, or the supervisor where it has ended. -/
def execGjoinRefused (s : State) : Out :=
  match s.inFlight s.focus.n with
  | some ⟨_, tag, _, _, .refused ctx n blk⟩ =>
    let s := s.dropReq s.focus.n
    let v := BitVec.ofNat 64 n
    match s.contexts.find? fun y => y.id == ctx with
    | none => .next (s.tellSupervisor tag 0 (causeWord 15 true) v blk 0 0 none [])
    | some y =>
      if y.hold == .ending then .next (s.tellSupervisor tag 0 (causeWord 15 true) v blk 0 0 none [])
      else
        let s := s.modCtxId ctx fun z => { z with grps := z.grps.map (fun g => if g = some (BitVec.ofNat 12 n) then none else g),
                                                   late := z.late ++ [(⟨15, v⟩, blk)] }
        match s.slotOfCtx ctx with
        | some (c, k) => match (s.slot c k).blk with
          | some b => .next (if b.ponr then s else s.discard c k)
          | none => .next s
        | none => .next s
  | _ => .fault .notEnabled

end Sys2Proof.Machine
end

