-- ==== Sys2Proof/Machine/Launch.lean ====
section
/-!
DEFINITION. Machine/Launch: the die dispatchers (R70, R135, R259, R274 to R280, R298): acceptance of launch records, the start
of dispatch, grants, completion, and what the death of a die does to them.
-/
namespace Sys2Proof.Machine

/-! ## Completion (R279) -/

/-- Whether every earlier release to some words is performed as far as an agent outside the releasing core's scope reads
(R232). -/
def State.quiet (s : State) (ws : List Nat) : Bool := ws.all fun w => (s.outstanding w 4096).isNone

/-- The words 0 to 6 of a completion record (Table 15.7) with their masks: FAULTS is not written. -/
def Launch.completion (x : Launch) (tend : Nat) : List (Word × Byte) :=
  [(BitVec.ofNat 64 (x.status % 65536 + x.elect % 65536 * 65536 + x.leader * 2 ^ 32), 0xFF),
   (BitVec.ofNat 64 (x.regrant % 2 ^ 32 * 2 ^ 32), 0xF0),
   (BitVec.ofNat 64 x.tenq, 0xFF), (BitVec.ofNat 64 x.tstart, 0xFF), (BitVec.ofNat 64 tend, 0xFF),
   (BitVec.ofNat 64 (x.threads + x.misses % 2 ^ 32 * 2 ^ 32), 0xFF), (BitVec.ofNat 64 x.search, 0xFF)]

/-- The completion word. -/
def Launch.cword (x : Launch) : Word :=
  (if x.status ≠ 0 then 1 <<< 63 else 0) ||| (if x.regrant ≠ 0 then 1 <<< 62 else 0) ||| x.seq.zeroExtend 64

/-- The die of this package that a global die number names (R278). -/
def State.dieHere (s : State) (g : Nat) : Option Nat := if g / 4 = s.lid.package then some (g % 4) else none

/-- Whether a launch's leader is a die of this package. -/
def State.leads (s : State) (x : Launch) : Bool := (s.dieHere x.leader).isSome

/-- The fill of a completion word, a release at system scope: it waits until what its leader has written is performed (R239, R279). -/
def State.fillCompletion (s : State) (l : Nat) : State :=
  match s.launch? l with
  | none => s
  | some x => match x.crecPa with
    | some pa => if s.agentsDone then (s.modLaunch l fun x => { x with owes := false }).fillIn x.ten x.crecDom (pa / 8 + 7) x.cword
        else s.modLaunch l fun x => { x with owes := true }
    | none => s

/-- A launch completes with a status: sets that its threads took and that never had a member are freed; its leader writes its record
and fills its word (R271, R279). -/
def State.completeLaunch (s : State) (l status : Nat) : State :=
  match s.launch? l with
  | none => s
  | some x =>
    let x := { x with status := status, done := true, asked := [] }
    let s := s.modLaunch l fun _ => x
    let s := s.modTen x.ten fun t => { t with sets := t.sets.filter fun o => !(o.2.creator == some l && !o.2.had) }
    match x.crecPa, s.leads x with
    | some pa, true =>
      ((x.completion s.cycle).zipIdx.foldl (fun s w => s.writeIn x.ten x.crecDom (pa / 8 + w.2) w.1.1 w.1.2) s).fillCompletion l
    | _, _ => s

/-- LAUNCH_LOST (R275): nothing is written, the supervisor is told, and the launch counts as complete for its queue. -/
def State.loseLaunch (s : State) (l : Nat) : State :=
  match s.launch? l with
  | none => s
  | some x => (s.modLaunch l fun x => { x with crecPa := none, done := true, asked := [] }).supEvent (s.partOf x.ten) 0x0104 x.recVa 0

/-! ## Acceptance (R274, R275, R298) -/

/-- The packages of a span. -/
def spanPackages (span : Word) : List Nat :=
  (List.range ((span.extractLsb' 32 14).toNat + 1)).map ((span.extractLsb' 16 14).toNat + ·)

/-- The live dies of a span, by global number, ascending (R278). -/
def State.liveDies (s : State) (span : Word) : List Nat :=
  let mask := span.toNat % 16
  (spanPackages span).flatMap fun p => ((List.range 4).filter fun d => (mask = 0 || mask.testBit d) &&
    (if p = s.lid.package then !s.lid.deadDies.contains d else !s.lid.farDead.contains (4 * p + d))).map (4 * p + ·)

/-- Whether a record's reserved bits are zero. -/
def recordOk (ws : List Word) : Bool :=
  let w (i : Nat) : Word := ws.getD i 0
  w 4 &&& 0xFFFFC000C000FFF0 == 0 && w 5 &&& ~~~1 == 0 && w 6 &&& ~~~0xFFFFFFFF == 0 && w 0 &&& 7 == 0

/-- Whether every package of a span has a queue of a tenant: packages are numbered to 16,383 (R393), this one has it, and what another one
has stands outside (log entry 24). -/
def State.spanHas (s : State) (t q : Nat) (span : Word) : Bool :=
  (spanPackages span).all fun p => p < 16384 && (p == s.lid.package || !Config.lacksQueue p t q)

/-- The word at a virtual address of a tenant, and its page's encryption domain. -/
def State.wordAt (s : State) (t : Nat) (va : Word) (a : Acc) : Option (Nat × Nat) :=
  (s.place t va a).map fun p => (p.1 / 8, p.2)

/-- The word of a dependence: none where it is malformed, an empty list for none. -/
def State.depWord (s : State) (t : Nat) (a : Word) : Option (List Nat) :=
  if a = 0 then some []
  else if a &&& 7 ≠ 0 then none
  else (s.paNow t a .load).map fun pa => [pa / 8]

/-- The launch with the words of its kernel descriptor (Table 4.2), `cnt` being the count word of a launchi; none where it is
malformed. -/
def State.withKernel (s : State) (x : Launch) (ws : List Word) (desc : Option (List Word)) (cnt : Option (Nat × Nat)) : Option Launch :=
  match recordOk ws && s.spanHas x.ten x.q (ws.getD 4 0), desc, s.depWord x.ten (ws.getD 2 0), s.depWord x.ten (ws.getD 3 0) with
  | true, some k, some d0, some d1 =>
    let w (i : Nat) : Word := k.getD i 0
    let indirect := (w 9).getLsbD 0 && cnt.isNone
    let word := if indirect then (if w 2 &&& 7 = 0 then s.wordAt x.ten (w 2) .load else none) else cnt
    if w 9 &&& ~~~3 ≠ 0 || indirect && word.isNone then none
    else some { x with deps := d0 ++ d1, conc := (ws.getD 5 0).getLsbD 0 || (w 9).getLsbD 1, count := (w 1).toNat, cntWord := word.map (·.1), cntDom := (word.map (·.2)).getD 0,
                       entry := w 0, sp := w 3, stklim := w 4, sstride := w 6, fmtd := w 7, scaled := w 8 }
  | _, _, _, _ => none

/-- A launch slot number that no launch in progress holds, all ones apart (R277, R348): which one is left open, and free here
(log entry 5). -/
def State.freeLslot (s : State) (f : Word) : Nat :=
  let used := (s.launches.filter fun l => !l.2.done).map (·.2.lslot)
  let n := f.toNat % 4095
  (((List.range 4095).map fun i => (n + i) % 4095).find? fun n => !used.contains n).getD 4095

/-- A launch of this package: the first dispatcher of the span to accept it empties the completion word; `tenq` is the clk in which it did
so (R279); a malformed record completes at once with 0xFFFD, one whose dies are all dead with 0xFFFE. -/
def State.enterLaunch (s : State) (t q : Nat) (recVa : Word) (ws : List Word) (cnt : Option (Nat × Nat)) (first : Bool) (tenq : Nat) : State :=
  let l := s.nextId
  let crec := ws.getD 1 0
  let at_ := if crec &&& 63 = 0 then s.wordAt t crec .store else none
  let dies := s.liveDies (ws.getD 4 0)
  let f := s.takeFree
  let g := f.1.takeFree
  let x : Launch := { ten := t, q := q, recVa := recVa, crec := crec, crecPa := at_.map (8 * ·.1), crecDom := (at_.map (·.2)).getD 0, prev := (s.ten? t).bind fun y => tget? y.last q, dies := dies,
                      seq := (ws.getD 6 0).truncate 32, leader := dies.headD (s.lid.package * 4), mirror := dies[1]?, tenq := tenq, tstart := f.2.toNat,
                      lslot := s.freeLslot g.2 }
  let s := { g.1 with nextId := l + 1, launches := tset g.1.launches l x }.modTen t fun y => { y with last := tset y.last q l }
  match at_ with
  | none => s.loseLaunch l
  | some (w, dom) =>
    let s := if first then s.emptyIn t dom (w + 7) else s
    let kd := s.readVa t (ws.getD 0 0) 10
    let s := (kd.map (·.1)).getD s
    match s.withKernel x ws (kd.map (·.2)) cnt with
    | none => s.completeLaunch l 0xFFFD
    | some y => if dies.isEmpty then s.completeLaunch l 0xFFFE else s.modLaunch l fun _ => y

/-- Words of a tenant's page as an agent reads them, zeros in another domain's frame (R384). -/
def State.readWords (s : State) (t dom : Nat) : List Nat → State × List Word
  | [] => (s, [])
  | w :: ws =>
    let v := s.readIn t dom w
    let r := v.1.readWords t dom ws
    (r.1, v.2 :: r.2)

/-- A dispatcher accepts the record with these words (R275, R298): it forwards the launch to the same queue on every other package of its
span, in the order of acceptance; where the span names this package, the launch runs here. -/
def State.acceptLaunch (s : State) (t q : Nat) (recVa : Word) (ws : List Word) (cnt : Option (Nat × Nat)) : State :=
  let span := spanPackages (ws.getD 4 0)
  let away := (span.filter fun p => p < 16384 && p != s.lid.package).map fun p => (p, t, q, s.nextId)
  let s := { s with lid := { s.lid with forwards := s.lid.forwards ++ away } }
  if span.contains s.lid.package then s.enterLaunch t q recVa ws cnt true s.cycle else { s with nextId := s.nextId + 1 }

/-- LAUNCH_RECORD_ACCEPT (R274): the dispatcher of tenant n parks as a reader on word 56 of the next slot of ring m; once it is served, it
reads the record as an acquire does and empties the word. -/
def execLaunchRecordAccept (s : State) : Out :=
  let t := s.focus.n
  let q := s.focus.m
  match (s.ten? t).bind fun x => tget? x.rings q with
  | none => .fault .notEnabled
  | some r =>
    let va := r.base + BitVec.ofNat 64 (64 * (r.next % 2 ^ r.k))
    match s.wordAt t va .both with
    | none => .fault .notEnabled
    | some (w, dom) =>
      let words := (List.range 8).map (w + ·)
      if r.asked.isNone then
        let id := s.nextId
        let s := { s.modTen t fun x => { x with rings := tset x.rings q { r with asked := some id } } with nextId := id + 1 }
        .next (s.sendPkt (s.partOf t) (.fe ⟨.ldfw, w + 7, 0, .ring t q id, 1, va + 56, dom⟩))
      else if r.seen && s.quiet words then
        let v := s.readWords t dom words
        let s := v.1.modTen t fun x => { x with rings := tset x.rings q ⟨r.base, r.k, r.next + 1, none, false⟩ }
        .next ((s.emptyIn t dom (w + 7)).acceptLaunch t q va v.2 none)
      else .fault .notEnabled

/-- A launch that another package's dispatcher forwards (R298): tenant i, queue k, record address x with the 56 bytes of its record, for a
launchi the count word's address y, where z is not 0, and the clk n in which the first dispatcher accepted it (TENQ). -/
def State.forwarded (s : State) : Out :=
  let f := s.focus
  if s.lid.stage != some 2 || (s.ten? f.i).isNone || 16 ≤ f.k || f.bytes.length != 56 then .fault .notEnabled
  else
    let ws : List Word := (List.range 7).map fun i => ((f.bytes.drop (8 * i)).take 8).foldr (fun b (v : Word) => v <<< 8 ||| b.zeroExtend 64) 0
    if !(spanPackages (ws.getD 4 0)).contains s.lid.package then .fault .notEnabled
    else .next (s.enterLaunch f.i f.k f.x ws (if f.z = 0 then none else s.wordAt f.i f.y .load) false f.n)

/-- Requests that a queue holds: accepted and not yet dispatched (R298). -/
def State.queued (s : State) (t q : Nat) : Nat :=
  (s.launches.filter fun l => l.2.ten == t && l.2.q == q && !l.2.begun && !l.2.done).length

/-- LAUNCH_REQUEST_ACCEPT (R274, R298): request n reaches the dispatcher, after the requests to its queue that left before
it; its slot's launch buffer entry is freed. With m = 1, one that another package forwards. -/
def execLaunchRequestAccept (s : State) : Out :=
  if s.focus.m = 1 then s.forwarded
  else match s.inFlight s.focus.n with
  | some ⟨_, tag, _, _, .launch c k r⟩ =>
    let before := (s.reqs.take s.focus.n).any fun x => match x.pkt with | .launch _ _ y => !x.nacked && y.ten == r.ten && y.q == r.q | _ => false
    let words := (List.range 8).map fun i => r.recPa / 8 + i
    if before || !s.quiet words then .fault .notEnabled
    else if tag != s.partOf r.ten then .next ((s.dropReq s.focus.n).tagFault (s.partOf r.ten) r.ten)
    else if 64 ≤ s.queued r.ten r.q then .next (s.nack s.focus.n Config.resendClk)
    else
      let v := ((s.dropReq s.focus.n).setSlot c k { s.slot c k with lbuf := none }).readWords r.ten r.dom words
      .next (v.1.acceptLaunch r.ten r.q r.recVa v.2 (r.cntPa.map fun p => (p / 8, r.cntDom)))
  | _ => .fault .notEnabled

/-- LAUNCH_RESEND (R298): NACKed request n. -/
def execLaunchResend (s : State) : Out := s.resend s.focus.n fun p => match p with | .launch _ _ _ => true | _ => false

/-! ## The start of dispatch (R135, R276) -/

/-- Whether the launch before it on its queue lets a launch begin. -/
def State.prevOk (s : State) (x : Launch) : Bool :=
  match x.prev.bind s.launch? with
  | none => true
  | some p => match p.crecPa with
    | none => true
    | some pa => if x.conc then p.begun || p.done else s.full (pa / 8 + 7)

/-- A descriptor word of a launch: 0 for a zero address, none where it cannot be read (R135); through a window a free value (log entry
13). -/
def State.descWord (s : State) (t : Nat) (a : Word) : Option (State × Word) :=
  if a = 0 then some (s, 0)
  else if a &&& 7 ≠ 0 then none
  else (s.wordAt t a .load).map fun w => s.readIn t w.2 w.1

/-- The word that a descriptor is read from. -/
def State.descAt (s : State) (t : Nat) (a : Word) : List Nat := if a = 0 then [] else ((s.wordAt t a .load).map (·.1)).toList

/-- DISPATCH_BEGIN (R135, R276): launch n; the count word and the descriptors are read as a system-scope acquire reads them. -/
def execDispatchBegin (s : State) : Out :=
  let l := s.focus.n
  match s.launch? l with
  | none => .fault .notEnabled
  | some x =>
    let reads := x.cntWord.toList ++ s.descAt x.ten x.fmtd ++ s.descAt x.ten x.scaled
    if x.begun || x.done || !(x.deps.all s.full) || !s.prevOk x || !s.quiet reads then .fault .notEnabled
    else if (s.paNow x.ten x.crec .store).isNone then .next (s.loseLaunch l)
    else
      let n := match x.cntWord with
        | some w =>
          let v := s.readIn x.ten x.cntDom w
          (v.1, v.2.toNat)
        | none => (s, x.count)
      match n.1.descWord x.ten x.fmtd with
      | none => .next (s.completeLaunch l 0xFFFD)
      | some (u, fm) => match u.descWord x.ten x.scaled with
        | none => .next (s.completeLaunch l 0xFFFD)
        | some (u, sc) =>
          let s := u.modLaunch l fun x => { x with begun := true, tstart := s.cycle, count := n.2, fmt := cleanFmt fm, scale := cleanScale sc }
          if n.2 = 0 then .next (s.completeLaunch l 0)
          else if 2 ^ 32 ≤ n.2 then .next (s.completeLaunch l 8)
          else .next s

/-! ## Grants (R277) -/

/-- A die's share of a partition's cores, in ascending logical order, with their logical numbers. -/
def Part.coresOn (p : Part) (die : Nat) : List (Nat × Nat) := p.cores.zipIdx.filter fun c => coreDie c.1 == die

/-- Whether a core has a free slot and no waiting context. -/
def State.hasRoom (s : State) (c : Nat) : Bool := (s.freeSlot c).isSome && (s.core c).waiting.isEmpty

/-- The core that the next thread on a die goes to: the first with room after the last core used, wrapping. -/
def State.nextCore (s : State) (p die : Nat) : Option (Nat × Nat) :=
  match tget? s.parts p with
  | none => none
  | some q =>
    let at_ := tget q.rr die 0
    let l := q.coresOn die
    ((l.filter fun c => at_ ≤ c.2) ++ l.filter fun c => c.2 < at_).find? fun c => s.hasRoom c.1

/-- Indices of a grant: the last group is shorter. -/
def Launch.size (x : Launch) (g : Nat × Nat × Nat × Nat × Nat) : Nat := min 64 (x.count - g.2.2.1)

/-- Whether a die of a launch may ask for a grant. -/
def Launch.mayAsk (x : Launch) (die : Nat) : Bool :=
  x.begun && !x.done && x.dies.contains die && !x.exhausted.contains die &&
    !(x.asked.any fun a => a.1 == die) && !(x.grants.any fun g => g.2.1 == die && 0 < g.2.2.2.1)

/-- Whether a die of a launch has a core with room: a die of another package asks when it likes. -/
def State.dieRoom (s : State) (x : Launch) (die : Nat) : Bool :=
  match s.dieHere die with
  | some d => (s.nextCore (s.partOf x.ten) d).isSome
  | none => s.leads x

/-- GRANT_REQUEST (R277): die m, by its global number, asks for a grant of launch n. -/
def execGrantRequest (s : State) : Out :=
  match s.launch? s.focus.n with
  | none => .fault .notEnabled
  | some x =>
    if x.mayAsk s.focus.m && s.dieRoom x s.focus.m then
      .next (s.modLaunch s.focus.n fun x => { x with asked := x.asked ++ [(s.focus.m, s.cycle)] })
    else .fault .notEnabled

/-- Index i of a grant as a thread (R70, R129, R259). -/
def State.indexThread (s : State) (l grant : Nat) (x : Launch) (i : Nat) : State × Ctx :=
  let r := s.newCtx x.ten x.entry (some l) grant
  let off := BitVec.ofNat 64 i * x.sstride
  (r.1, { (r.2.setG 14 (x.sp - off)) with
          stklim := x.stklim - off, fmt := x.fmt, scale := x.scale, lidx := BitVec.ofNat 32 i, lfsr := cleanLfsr (BitVec.ofNat 64 (i * 0x9E3779B9)) })

/-- Starts the next index of a grant of a die of this package; none where no core has room. -/
def State.startIndex (s : State) (l die : Nat) : Option State :=
  match s.launch? l, s.dieHere die with
  | none, _ => none
  | _, none => none
  | some x, some d => match x.grants.find? fun g => g.2.1 == die && 0 < g.2.2.2.1, s.nextCore (s.partOf x.ten) d with
    | some g, some (c, lc) => match s.freeSlot c with
      | none => none
      | some k =>
        let r := s.indexThread l g.1 x (g.2.2.1 + (x.size g - g.2.2.2.1))
        let s := (r.1.seat c k r.2).modPart (s.partOf x.ten) fun p => { p with rr := tset p.rr d (lc + 1) }
        some ((s.modLaunch l fun x => { x with
          grants := x.grants.map fun h => if h.1 = g.1 then (h.1, h.2.1, h.2.2.1, h.2.2.2.1 - 1, h.2.2.2.2) else h }).countIn (some l) g.1)
    | _, _ => none

/-- Starts as many indices of a die's grants as its cores have room for. -/
def State.startIndices (l die : Nat) : Nat → State → State
  | 0, s => s
  | n + 1, s => match s.startIndex l die with
    | some s => State.startIndices l die n s
    | none => s

/-- The leader's answer to a die's request: the next 64 indices, or "exhausted", which counts a miss. Another package's die starts its
grant there: none of it is left to start here. -/
def Launch.answer (x : Launch) (here : Bool) (die clk now : Nat) : Launch :=
  let x := { x with asked := x.asked.filter fun a => a.1 != die, search := x.search + (now - clk) }
  if x.stop then { x with exhausted := linsert x.exhausted die }
  else if x.next < x.count then
    let n := min 64 (x.count - x.next)
    { x with next := x.next + n, grants := x.grants ++ [(x.ngrants, die, x.next, if here then n else 0, 0)], ngrants := x.ngrants + 1 }
  else { x with misses := x.misses + 1, exhausted := linsert x.exhausted die }

/-- Grants of which no live die holds one are granted again to the leader itself, and counted in REGRANT (R278). -/
def Launch.regrantOf (x : Launch) (lost : Nat × Nat × Nat × Nat × Nat → Bool) : Launch :=
  x.grants.foldl (fun x g =>
    if lost g then
      { x with grants := (x.grants.filter fun h => h.1 != g.1) ++ [(x.ngrants, x.leader, g.2.2.1, x.size g, 0)],
               ngrants := x.ngrants + 1, regrant := x.regrant + x.size g, mirrored := lremove x.mirrored g.1, asking := lremove x.asking g.1 }
    else x) x

/-- What another package's dispatcher sends about a launch (R277 to R279): its leader with i = 1 its answer to a die's request, grant z of
y indices from x on, or y = 0 for "exhausted"; its leader with i = 2, to its mirror here, that grant z of y indices from x on goes to a
die. To a leader here, with i = 3, a die's answer that it holds grant z (y = 1) or not (y = 0), and with i = 4 an ending fault of code x. -/
def Launch.told (x : Launch) (here : Bool) (die : Nat) (f : Focus) : Launch :=
  let first := f.x.toNat
  let n := f.y.toNat
  let id := f.z.toNat
  let gs := (x.grants.filter fun g => g.1 != id) ++ [(id, die, first, if here && f.i = 1 then n else 0, 0)]
  match f.i with
  | 1 => if n = 0 then { x with asked := x.asked.filter fun a => a.1 != die, exhausted := linsert x.exhausted die }
     else { x with asked := x.asked.filter fun a => a.1 != die, grants := gs, next := max x.next (first + n), ngrants := max x.ngrants (id + 1),
                   mirrored := lremove x.mirrored id }
  | 2 => { x with grants := gs, next := max x.next (first + n), ngrants := max x.ngrants (id + 1), mirrored := linsert x.mirrored id }
  | 3 => let x := { x with asking := lremove x.asking id }
    if n = 1 then x else x.regrantOf fun g => g.1 == id
  | _ => { x with status := first % 65536, stop := true }

/-- Whether another package's dispatcher can have sent this. -/
def State.tellsOk (s : State) (x : Launch) (die : Nat) : Bool :=
  let f := s.focus
  let grant := !s.leads x && f.x.toNat + f.y.toNat ≤ x.count && f.y.toNat ≤ 64
  match f.i with
  | 1 => grant && (s.dieHere die).isSome && (x.asked.any fun a => a.1 == die)
  | 2 => grant && 0 < f.y.toNat && (x.mirror.bind s.dieHere).isSome && x.dies.contains die
  | 3 => s.leads x && (s.dieHere die).isNone && x.asking.contains f.z.toNat && (x.grants.any fun g => g.1 == f.z.toNat && g.2.1 == die) && f.y.toNat ≤ 1
  | 4 => s.leads x && (s.dieHere die).isNone && x.dies.contains die && x.begun
  | _ => false

/-- What remains of a launch here once its leader, on another package, has answered "exhausted" to every die of this one: nothing, when no
grant is left. -/
def State.leftTo (s : State) (l : Nat) : State :=
  match s.launch? l with
  | some x => if !s.leads x && !x.done && x.grants.isEmpty && (x.dies.filter fun d => (s.dieHere d).isSome).all x.exhausted.contains then s.completeLaunch l 0 else s
  | none => s

/-- GRANT (R277): the leader answers the request of die m, by its global number, on launch n, the mirror having acknowledged (R278), and the
die starts threads; with no request outstanding, the die starts further indices of the grants it holds. With i not 0, another package's
dispatcher is heard. -/
def execGrant (s : State) : Out :=
  let l := s.focus.n
  let die := s.focus.m
  match s.launch? l with
  | none => .fault .notEnabled
  | some x =>
    let here := (s.dieHere die).isSome
    if x.done then .fault .notEnabled
    else if s.focus.i != 0 then
      (if s.tellsOk x die then .next (((s.modLaunch l fun x => x.told here die s.focus).startIndices l die 64).leftTo l) else .fault .notEnabled)
    else match (if s.leads x then x.asked.find? fun a => a.1 == die else none) with
      | some a => .next ((s.modLaunch l fun x => x.answer here die a.2 s.cycle).startIndices l die 64)
      | none => match s.startIndex l die with
        | some s => .next (s.startIndices l die 64)
        | none => .fault .notEnabled

/-- GRANT_COMPLETE (R277, R279): grant m of launch n, whose threads and their descendants have ended with their last
stores accepted, is reported complete; a die of another package, of which it is reported to the leader here or mirrored to the mirror
here, reports with it the threads y that it has started. The last one completes the launch. A completion word that is owed is filled. -/
def execGrantComplete (s : State) : Out :=
  let l := s.focus.n
  match s.launch? l with
  | none => .fault .notEnabled
  | some x =>
    if x.owes then (if s.agentsDone then .next (s.fillCompletion l) else .fault .notEnabled)
    else match x.grants.find? fun g => g.1 == s.focus.m with
    | none => .fault .notEnabled
    | some g =>
      let here := (s.dieHere g.2.1).isSome
      if x.done || g.2.2.2.1 != 0 || g.2.2.2.2 != 0 || (x.mirrored.contains g.1 && here) || x.asking.contains g.1 then .fault .notEnabled
      else
        let gs := x.grants.filter fun h => h.1 != g.1
        let s := s.modLaunch l fun x => { x with grants := gs, mirrored := lremove x.mirrored g.1,
                                                 threads := if here || !s.leads x then x.threads else min (2 ^ 32 - 1) (x.threads + s.focus.y.toNat) }
        .next (if s.leads x && gs.isEmpty && (x.stop || x.count ≤ x.next) then s.completeLaunch l x.status else s.leftTo l)

/-! ## Dead dies (R278) -/

/-- Grants that a dead die held are granted again, here to the leader itself; on a package that does not lead they are another's. -/
def Launch.regrantAll (x : Launch) (leads : Nat → Bool) (die : Nat) : Launch :=
  if !leads x.leader then { x with grants := x.grants.filter fun g => g.2.1 != die }
  else x.regrantOf fun g => g.2.1 == die

/-- A leader that was the mirror: where it is a die of this package, grants that were mirrored here for dies of this package which never
had them are granted again, and dies of other packages are asked about those recorded for them. -/
def Launch.takeOver (x : Launch) (here : Nat → Bool) : Launch :=
  if here x.leader then
    let x := x.regrantOf fun g => x.mirrored.contains g.1 && here g.2.1
    { x with asking := (x.grants.filter fun g => !here g.2.1).map (·.1), mirrored := [] }
  else x

/-- The next live die after a leader, other than the dead one. -/
def Launch.nextMirror (x : Launch) (leader die : Nat) : Option Nat :=
  (x.dies.filter fun d => leader < d && d != die).head? <|> (x.dies.filter fun d => d != leader && d != die).head?

/-- A die of a launch's span has died. None where leader and mirror are both lost. -/
def Launch.dieLost (x : Launch) (leads : Nat → Bool) (die clk : Nat) : Option Launch :=
  let y := { x with dies := lremove x.dies die, asked := x.asked.filter fun a => a.1 != die }
  if x.leader = die then
    match x.mirror, x.deadAt with
    | none, _ => none
    | some m, t =>
      if t.any fun c => clk < c + Config.deadClk then none
      else some (({ y with leader := m, mirror := y.nextMirror m die, elect := x.elect + 1, deadAt := some clk }).regrantAll leads die |>.takeOver leads)
  else if x.mirror = some die then some (({ y with mirror := y.nextMirror x.leader die, deadAt := some clk }).regrantAll leads die)
  else some (y.regrantAll leads die)

/-- Leadership and grants of every launch in progress after the death of a die, by its global number. -/
def State.launchesLose (s : State) (die : Nat) : State :=
  s.launches.foldl (fun s l =>
    if l.2.done || !l.2.dies.contains die then s
    else match l.2.dieLost (fun g => (s.dieHere g).isSome) die s.cycle with
      | some x => s.modLaunch l.1 fun _ => x
      | none => (s.modLaunch l.1 fun x => if s.leads x then x else { x with leader := (lremove x.dies die).headD x.leader }).completeLaunch l.1 0xFFFE) s

end Sys2Proof.Machine
end

