-- ==== Sys2Proof/Machine/Slice.lean ====
section
/-!
DEFINITION. Machine/Slice: the matrix slices and the Hoop (R304, R309 to R314, R317, R325 to R331), the read of mst, and the
end of a first-use trap (R339, R340).
-/
namespace Sys2Proof.Machine

/-! ## Error records (Table 18.5) -/

/-- The eight words of an error record. -/
def errorWords (cause eng vq tag : Nat) (vaddr : Word) (done : Nat) (record : Word) (ctx : BitVec 16) (time : Nat) : List Word :=
  [BitVec.ofNat 64 (cause + 256 * eng + 65536 * vq + 2 ^ 32 * tag), vaddr, BitVec.ofNat 64 done, record, ctx.zeroExtend 64,
   BitVec.ofNat 64 time, 0, 0]

/-- Writes an error record at a virtual address of a tenant, where it can be (R317). -/
def State.errorRecord (s : State) (t : Nat) (rec_ : Word) (ws : List Word) : State :=
  match s.place t rec_ .store with
  | some (pa, dom) => s.writeAllIn t dom (pa / 8) ws
  | none => s

/-- Sends ENGINE_ERROR to a tenant's supervisor. -/
def State.engineEvent (s : State) (t : Nat) (rec_ : Word) : State := s.supEvent (s.partOf t) 0x0102 rec_ 0

/-- An error record, and its event (R317). -/
def State.engineError (s : State) (t : Nat) (rec_ : Word) (ws : List Word) : State := (s.errorRecord t rec_ ws).engineEvent t rec_

/-- The address of a tenant's matrix error record on a core (R317). -/
def State.sliceErrorVa (s : State) (c t : Nat) : Word :=
  match s.ten? t with | some x => x.errBase + BitVec.ofNat 64 (64 * (s.core c).logical) | none => 0

/-- A tile of a core. -/
def State.tile (s : State) (c tt : Nat) : Tile := tget (s.core c).tiles tt {}
/-- Replaces a tile. -/
def State.setTile (s : State) (c tt : Nat) (t : Tile) : State := s.modCore c fun q => { q with tiles := tset q.tiles tt t }

/-- A command leaves the slice. -/
def State.dropCmd (s : State) (c id : Nat) : State :=
  { s.modCore c (fun q => { q with mxq := q.mxq.filter fun m => m.id != id }) with hoop := s.hoop.filter fun e => !(e.core == c && e.cmd.id == id) }

/-- Marks a command as in execution, with what it leaves in its tile and when. -/
def State.startCmd (s : State) (c : Nat) (x : MxCmd) (at_ : Nat) (res : List (BitVec 32)) (st : Word) : State :=
  s.modCore c fun q => { q with mxq := q.mxq.map fun m => if m.id = x.id then { m with started := true, doneAt := at_, result := res, tstat := st } else m }

/-- MarkInvalid (R314, R326): the tile's status word takes INV and CAUSE, at resume where the core is stopped for the tenant
(R400); the error record is written, and the command is gone. -/
def State.markInvalid (s : State) (c : Nat) (x : MxCmd) (cause : Nat) (va : Word) : State :=
  let t := s.tile c x.tt
  let st := tileInvalid t.stat cause
  let s := if (s.core c).dbgStop.contains x.ten then
      { s.startCmd c x s.cycle ((List.range 1024).map t.elt) st with hoop := s.hoop.filter fun e => !(e.core == c && e.cmd.id == x.id) }
    else (s.dropCmd c x.id).setTile c x.tt { t with stat := st }
  s.engineError x.ten (s.sliceErrorVa c x.ten) (errorWords cause 3 x.tt 0 va 0 x.blk x.ctxtag s.cycle)

/-! ## Scale reads (R327, R328) -/

/-- A word read for a tenant by an agent, over the writes of a list; none where it fails translation. -/
def State.agentWord (s : State) (t : Nat) (prior : List Wr) (va : Word) : State × Option Word :=
  match s.place t va .load with
  | some (pa, dom) =>
    let r := s.readIn t dom (pa / 8)
    (r.1, some (overlay prior (pa / 8) r.2))
  | none => (s, none)

/-- Scale bytes at addresses, 127 for none; or the first address that fails. -/
def State.scaleBytes (t : Nat) (prior : List Wr) : List (Option Word) → State → State × List Nat × Option Word
  | [], s => (s, [], none)
  | none :: l, s =>
    let r := State.scaleBytes t prior l s
    (r.1, 127 :: r.2.1, r.2.2)
  | some va :: l, s => match s.agentWord t prior va with
    | (s, none) => (s, [], some va)
    | (s, some w) =>
      let r := State.scaleBytes t prior l s
      (r.1, (w >>> (8 * (va.toNat % 8))).toNat % 256 :: r.2.1, r.2.2)

/-- Scale bytes of one row or column for K elements from K0. -/
def scaleCols (k0 kk : Nat) : Nat := (k0 + kk - 1) / 32 - k0 / 32 + 1

/-- Addresses of the A scale bytes, row by row. -/
def MxCmd.aScales (x : MxCmd) (astr kk : Nat) : List (Option Word) :=
  (List.range 32).flatMap fun m => (List.range (scaleCols x.k0 kk)).map fun j =>
    let idx := x.lidx.getD m 0xFFFF
    if idx = 0xFFFF then none else some (x.scale + BitVec.ofNat 64 (16 + astr * idx + x.k0 / 32 + j))

/-- Addresses of the B scale bytes, column by column. -/
def MxCmd.bScales (x : MxCmd) (bstr : Nat) (boff : Word) (kk : Nat) : List (Option Word) :=
  (List.range 32).flatMap fun n => (List.range (scaleCols x.k0 kk)).map fun j =>
    some (x.scale + boff + BitVec.ofNat 64 (bstr * n + x.k0 / 32 + j))

/-- The A or B scale bytes of a command; none read where SCA or SCB is clear. -/
def State.scales (s : State) (x : MxCmd) (b : Bool) (kk : Nat) : State × List Nat × Option Word :=
  if !x.fmt.getLsbD (if b then 7 else 6) then (s, [], none)
  else match s.agentWord x.ten x.prior x.scale with
    | (s, none) => (s, [], some x.scale)
    | (s, some h) => match s.agentWord x.ten x.prior (x.scale + 8) with
      | (s, none) => (s, [], some (x.scale + 8))
      | (s, some off) => State.scaleBytes x.ten x.prior (if b then x.bScales (h.toNat / 2 ^ 32) off kk else x.aScales (h.toNat % 2 ^ 32) kk) s

/-- The scale of element k of row or column r: 127 where none was read. -/
def scaleAt (l : List Nat) (k0 kk r k : Nat) : Nat := l.getD (r * scaleCols k0 kk + ((k0 + k) / 32 - k0 / 32)) 127

/-! ## Performing an mma (R325, R326) -/

/-- Table 19.3: the latch's element size, B's format and the two K agree with f. -/
def mmaShape (f esz bfmt lkq bkq : Nat) : Bool :=
  esz == (if f ≤ 3 then 0 else 1) && bfmt == (if f = 0 then 0 else if f ≤ 3 then 1 else 2) && lkq == bkq

/-- The new elements and the cases of each; `src` supplies A and its scales. -/
def mmaTile (x src : MxCmd) (t : Tile) (sas sbs : List Nat) : List (Nat × BitVec 7) :=
  let kk := 4 * src.lkq
  (List.range 1024).map fun i =>
    let m := i / 32
    let n := i % 32
    let ar := src.latch.getD m 0
    if x.f = 3 then (mmaInt x.fmt ar x.bop kk n (t.elt i).toNat, 0)
    else mmaElem x.f x.fmt ar x.bop src.lesz x.bfmt kk (scaleAt sas src.k0 kk m) (scaleAt sbs x.k0 kk n) n (t.elt i).toNat

/-- Clks that the slice takes (R303). -/
def mmaSteps (f kq : Nat) : Nat := if f ≤ 3 then kq else 4 * kq

/-- The operand and format checks of MmaCommand, before its scale reads: the CAUSE of the first that fails. -/
def mmaCause (x src : MxCmd) : Option Nat :=
  if src.latchTag ≠ some (src.ten, src.slot) || x.bopTag ≠ some (x.ten, x.slot) then some 5
  else if x.bill then some 1
  else if !mmaShape x.f src.lesz x.bfmt src.lkq x.bkq then some 2
  else none

/-- MmaCommand (R326) for command x of core c, with A from src. -/
def State.performMma (s : State) (c : Nat) (x src : MxCmd) : State :=
  let t := s.tile c x.tt
  if t.stat.getLsbD 63 then s.dropCmd c x.id
  else match mmaCause x src with
    | some cause => s.markInvalid c x cause 0
    | none =>
      let kk := 4 * src.lkq
      let a := if x.f = 3 then (s, [], none) else s.scales src false kk
      let b := if x.f = 3 then (a.1, [], none) else a.1.scales x true kk
      match a.2.2 <|> b.2.2 with
      | some va => b.1.markInvalid c x 6 va
      | none =>
        let es := mmaTile x src t a.2.1 b.2.1
        b.1.startCmd c x (s.cycle + mmaSteps x.f src.lkq + 12) (es.map fun e => BitVec.ofNat 32 e.1) (tileCount t.stat (es.map (·.2)))

/-- The oldest command that waits and whose tile is not busy (R311). -/
def Core.nextCmd (q : Core) : Option MxCmd := q.mxq.find? fun m => !m.started && !(q.mxq.any fun z => z.started && z.tt == m.tt)

/-- The slice takes a command in this clk. -/
def State.took (s : State) (c : Nat) : State := s.modCore c fun q => { q with mxAt := some s.cycle }

/-! ## The Hoop (R304, R313) -/

/-- The commands waiting at a Hoop on a tile number. -/
def State.hoopAt (s : State) (row tt : Nat) : List HoopEnt := s.hoop.filter fun e => e.row == row && e.cmd.tt == tt

/-- An mma of a gang arrives at the Hoop: one that differs from the waiting ones in MASK or SRC is not performed, its tile
invalid with CAUSE 3. -/
def State.arriveHoop (s : State) (c : Nat) (x : MxCmd) : State :=
  let g := coreGang c
  if (s.hoopAt g.1 x.tt).any fun e => e.cmd.mask != x.mask || e.cmd.src != x.src then
    if (s.tile c x.tt).stat.getLsbD 63 then s.dropCmd c x.id else s.markInvalid c x 3 0
  else
    let s := s.modCore c fun q => { q with mxq := q.mxq.map fun m => if m.id = x.id then { m with started := true } else m }
    { s with hoop := s.hoop ++ [⟨g.1, g.2, c, x, s.cycle⟩] }

/-- Whether every position of the mask waits. -/
def gangComplete (es : List HoopEnt) : Bool :=
  match es with
  | [] => false
  | e :: _ => (List.range 8).all fun q => !e.cmd.mask.testBit q || es.any fun z => z.pos == q

/-- MMA_COMMAND (R304, R311, R326): the slice of core n takes its oldest ready command, an mma or the setting of mgang. -/
def execMmaCommand (s : State) : Out :=
  let c := s.focus.n
  match (s.core c).nextCmd with
  | none => .fault .notEnabled
  | some x =>
    if (s.core c).mxAt = some s.cycle || x.kind = 1 then .fault .notEnabled
    else
      let t := s.tile c x.tt
      let s := s.took c
      if x.kind = 2 then
        .next ((s.dropCmd c x.id).setTile c x.tt { t with gang := if x.mask = 2 ^ (c % 8) then none else some (x.mask, x.src), gangTen := x.ten })
      else match t.gang with
        | some (mask, src) => .next (s.arriveHoop c { x with mask := mask, src := src })
        | none => .next (s.performMma c x x)

/-- MZERO_COMMAND (R329): the slice of core n takes an mzero. -/
def execMzeroCommand (s : State) : Out :=
  let c := s.focus.n
  match (s.core c).nextCmd with
  | none => .fault .notEnabled
  | some x =>
    if (s.core c).mxAt = some s.cycle || x.kind != 1 || (s.core c).dbgStop.contains x.ten then .fault .notEnabled
    else .next (((s.took c).dropCmd c x.id).setTile c x.tt { s.tile c x.tt with elts := [], stat := 0 })

/-- HOOP_START (R304): the gang of gang row n on tile m starts 4 clk after its last mma arrived, each member with SRC's
latch. -/
def execHoopStart (s : State) : Out :=
  let es := s.hoopAt s.focus.n s.focus.m
  match gangComplete es, es.find? fun e => e.pos == e.cmd.src with
  | true, some src =>
    if es.all fun e => e.at_ + 4 ≤ s.cycle then
      let s := { s with hoop := s.hoop.filter fun e => !(e.row == s.focus.n && e.cmd.tt == s.focus.m) }
      .next (es.foldl (fun s e => if (s.core e.core).mxq.any fun m => m.id == e.cmd.id then s.performMma e.core e.cmd src.cmd else s) s)
    else .fault .notEnabled
  | _, _ => .fault .notEnabled

/-- HOOP_TIMEOUT (R313): the mma of core n on tile m has waited 65,536 clk at the Hoop. No clk ends before it is taken (State.clkDone). -/
def execHoopTimeout (s : State) : Out :=
  let es := s.hoopAt (coreGang s.focus.n).1 s.focus.m
  match es.find? fun e => e.core == s.focus.n with
  | none => .fault .notEnabled
  | some e =>
    if gangComplete es || s.cycle < e.at_ + Config.hoopClk then .fault .notEnabled
    else if (s.tile e.core e.cmd.tt).stat.getLsbD 63 then .next (s.dropCmd e.core e.cmd.id)
    else .next (s.markInvalid e.core e.cmd 4 0)

/-- MMA_RESULT (R303, R309): the command in execution on tile m of core n reaches its tile. -/
def execMmaResult (s : State) : Out :=
  let c := s.focus.n
  match (s.core c).mxq.find? fun x => x.tt == s.focus.m && x.started && !x.result.isEmpty with
  | none => .fault .notEnabled
  | some x =>
    if s.cycle < x.doneAt || (s.core c).dbgStop.contains x.ten then .fault .notEnabled
    else .next ((s.dropCmd c x.id).setTile c x.tt { s.tile c x.tt with elts := x.result, stat := x.tstat })

/-! ## The read of mst and mst.bf (R305, R330, R331) -/

/-- Physical address, hint and domain of byte o of a range whose first page, and the higher one where there are two, are known. -/
def rangePa (va : Word) (words : List (Nat × Word)) (o : Nat) : Nat × Nat × Nat :=
  let a := words.getD 0 (0, 0)
  let b := words.getD 1 a
  let p := va.toNat % 65536 + o
  let x := if p / 65536 = 0 then (a.1 + o, a.2) else (b.1 + p % 65536, b.2)
  (x.1, x.2.toNat % 8, x.2.toNat / 8)

/-- The elements that mst.bf stores, with their flags: the conversions of the tile's, each with its draw. -/
def Here.bfElems (h : Here) (t : Tile) (clk : Nat) : List (Nat × BitVec 7) :=
  let rec go (l : List Nat) (st : Word) : List (Nat × BitVec 7) :=
    match l with
    | [] => []
    | i :: l =>
      let st' := drawState st
      convert .bfS h.ctx.rm (if h.ctx.stochastic then some (drawBits st') else none) (t.elt i).toNat :: go l (if h.ctx.stochastic then st' else st)
  if t.stat.getLsbD 63 then List.replicate 1024 (0x7FC0, 0) else go (List.range 1024) (h.lfsrAt clk)

/-- What mst or mst.bf stores: element size and elements. -/
def Here.mstElems (h : Here) (t : Tile) (clk : Nat) : Nat × List (Nat × BitVec 7) :=
  if h.e.insn.row = .mstBf then (2, h.bfElems t clk)
  else (4, (List.range 1024).map fun i => (if t.stat.getLsbD 63 then 0x7FC00000 else (t.elt i).toNat, 0))

/-- Settles the store of mst in a slot with its flags. -/
def State.settleMst (s : State) (h : Here) (fl : BitVec 7) (ws : List Wr) : State := (s.flag h fl).settle h none ws

/-- MST_READ (R305, R330): instruction i of slot k of core c; the commands it waited for have reached the tile. The read
takes 32 clk. -/
def execMstRead (s : State) : Out :=
  match s.here with
  | none => .fault .notEnabled
  | some h =>
    let q := s.core h.c
    if !(h.e.insn.row == .mst || h.e.insn.row == .mstBf) || h.e.phase != .sent || s.trails h || h.e.want.any (fun id => q.mxq.any fun m => m.id == id) then
      .fault .notEnabled
    else match h.a with
      | none => .fault .notEnabled
      | some a =>
        let t := s.tile h.c h.tt
        let va := h.ea a
        let r := h.mstElems t s.cycle
        let n := r.1
        let ws := r.2.zipIdx.map fun e =>
          let x := rangePa va h.e.words (n * e.2)
          wrOf x.1 (va + BitVec.ofNat 64 (n * e.2)) x.2.1 x.2.2 (BitVec.ofNat 64 e.1.1) n
        let fl := r.2.foldl (fun f e => f ||| e.2) (0 : BitVec 7)
        let s := (s.settleMst h fl ws).memResult h (.sc t.stat) .null 32
        .next (if q.paired then s.settleMst { h with k := h.k + 8 } fl ws else s)

/-! ## First-use traps (R339, R340) -/

/-- TILEtt and TSTATtt of a tenant on a core (Table 20.1). -/
def State.tileVa (s : State) (c t tt : Nat) : Word :=
  (match s.ten? t with | some x => x.tileBase | none => 0) + BitVec.ofNat 64 (32768 * (s.core c).logical + 4096 * tt)
def State.tstatVa (s : State) (c t tt : Nat) : Word :=
  (match s.ten? t with | some x => x.tileBase | none => 0) + BitVec.ofNat 64 (32768 * (s.core c).logical + 16384 + 8 * tt)

/-- The first of some accesses whose address fails translation for a tenant. -/
def State.firstBad (s : State) (t : Nat) (vas : List (Word × Acc)) : Option Word :=
  (vas.find? fun x => (s.paNow t x.1 x.2).isNone).map (·.1)

/-- The words of a tile: two elements each. -/
def Tile.words (t : Tile) : List Word := (List.range 512).map fun i => t.elt (2 * i + 1) ++ t.elt (2 * i)

/-- A tile from its words. -/
def tileOf (ws : List Word) (st : Word) : Tile := { elts := ws.flatMap fun w => [w.extractLsb' 0 32, w.extractLsb' 32 32], stat := st }

/-- Addresses of the 512 words from an address. -/
def tileVas (va : Word) : List Word := (List.range 512).map fun i => va + BitVec.ofNat 64 (8 * i)

/-- What the trap moves, or the address that fails translation before anything has changed. -/
def State.moveTile (s : State) (c k tt t : Nat) : State ⊕ Word :=
  let acc := (s.core c).accown
  let own (s : State) : State := s.modCore c fun q => { q with accown := accSet q.accown tt t k }
  let u := accTen acc tt
  if accValid acc tt && u == t then .inl (own s)
  else
    let save := if accValid acc tt then (tileVas (s.tileVa c u tt) ++ [s.tstatVa c u tt]).map fun va => (va, Acc.store) else []
    let tst := s.tstatVa c t tt
    let saved := match s.readVa t tst 1 with | some r => (r.2.headD 0).getLsbD 58 | none => false
    let rest := (tst, Acc.load) :: (if saved then (tileVas (s.tileVa c t tt)).map (fun va => (va, Acc.load)) ++ [(tst, Acc.store)] else [])
    match s.firstBad u save <|> s.firstBad t rest with
    | some va => .inr va
    | none =>
      let x := s.tile c tt
      let s := if accValid acc tt then
          ((s.writeVa u (s.tileVa c u tt) x.words).bind fun s => s.writeVa u (s.tstatVa c u tt) [x.stat ||| (1 <<< 58)]).getD s
        else s
      let q := (s.readVa t tst 1).getD (s, [])
      if saved then
        let r := (q.1.readVa t (s.tileVa c t tt) 512).getD (q.1, [])
        let st := q.2.headD 0 &&& ~~~((1 : Word) <<< 58)
        .inl (own (((r.1.writeVa t tst [st]).getD r.1).setTile c tt (tileOf r.2 st)))
      else .inl (own (q.1.setTile c tt {}))

/-- Changes the block of a slot and, on a paired core, that of its trailing slot. -/
def State.modBoth (s : State) (c k : Nat) (f : Block → Block) : State :=
  let s := s.modBlk c k f
  if (s.core c).paired then s.modBlk c (k + 8) f else s

/-- The tile of a first-use trap has been given: the slot is held until the trap ends. A block that the trap kept sees the owner it has now,
and commits in the next clk at the earliest (R341). -/
def State.tileGiven (s : State) (c k raised : Nat) : State :=
  let s := s.setSlot c k { s.slot c k with trap := some raised }
  (s.modCtx c k fun y => { y with hold := .run }).modBoth c k fun b => { b with accown := (s.core c).accown, start := max b.start (s.cycle + 1) }

/-- FIRST_USE_TRAP_END (R340), in its two parts: with no command left for the tile, the trap of slot k of core c moves it; and, at least
2,048 clk after the raise, the slot returns to the rotation and its block replays. A translation failure stops the trap before it has
changed anything: the supervisor receives TILE_SAVE, and the block is fetched anew when it resumes the slot. -/
def execFirstUseTrapEnd (s : State) : Out :=
  let c := s.focus.c
  let k := s.focus.k
  match (s.slot c k).ctx, (s.slot c k).trap with
  | some y, none => match y.hold with
    | .firstUse tt raised =>
      if (s.core c).mxq.any fun m => m.tt == tt then .fault .notEnabled
      else match s.moveTile c k tt y.ten with
        | .inl s => .next (s.tileGiven c k raised)
        | .inr va =>
          let s := if (s.slot c k).blk.any Block.ponr then s else s.discard c k
          .next (s.deliver c k (.tileSave tt) 0x0100 va y.pc)
    | _ => .fault .notEnabled
  | some _, some raised =>
    if s.cycle < raised + Config.firstUseClk then .fault .notEnabled
    else
      let s := s.setSlot c k { s.slot c k with trap := none }
      .next (s.modBoth c k fun b => if b.ponr then b else { b with start := s.cycle, began := s.cycle })
  | none, _ => .fault .notEnabled

end Sys2Proof.Machine
end

