-- ==== Sys2Proof/Machine/Engines.lean ====
section
/-!
DEFINITION. Machine/Engines: the copy (0), collective (1) and compression (2) engines (R306, R315 to R320, R332 to R336):
front ends, binding, arbitration, and the commands themselves.
-/
namespace Sys2Proof.Machine

/-! ## Queues (R315) -/

/-- An engine. -/
def State.engine (s : State) (eng : Nat) : Engine := tget s.engines eng {}
/-- Changes an engine. -/
def State.modEng (s : State) (eng : Nat) (f : Engine → Engine) : State := { s with engines := tset s.engines eng (f (s.engine eng)) }
/-- Number of queue VQ of a tenant in an engine's table. -/
def vqKey (t vq : Nat) : Nat := t * 16 + vq
/-- A queue of an engine. -/
def State.vq (s : State) (eng key : Nat) : VQ := tget (s.engine eng).vqs key {}
/-- Changes a queue. -/
def State.modVq (s : State) (eng key : Nat) (f : VQ → VQ) : State := s.modEng eng fun e => { e with vqs := tset e.vqs key (f (s.vq eng key)) }

/-- The virtual address of a queue's descriptor. -/
def State.vqVa (s : State) (eng key : Nat) : Word :=
  (match s.ten? (key / 16) with | some x => x.engBase | none => 0) + BitVec.ofNat 64 (64 * (16 * eng + key % 16))
/-- The first word of a queue's descriptor in memory, with the domain of its page. -/
def State.vqWord (s : State) (eng key : Nat) : Option (Nat × Nat) := (s.vqPa (key / 16) eng (key % 16)).map fun p => (p.1 / 8, p.2)
/-- Word i of a descriptor at word w, as the engine reads it for the queue's tenant. -/
def State.vqRead (s : State) (key : Nat) (w : Nat × Nat) (i : Nat) : State × Word := s.readIn (key / 16) w.2 (w.1 + i)
/-- The same word; the access counts where the queue is notified. -/
def State.vqSee (s : State) (key : Nat) (w : Nat × Nat) (i : Nat) : Word := (s.vqRead key w i).2
/-- Writes masked bytes of word i of a descriptor. -/
def State.vqPut (s : State) (key : Nat) (w : Nat × Nat) (i : Nat) (v : Word) (mask : Byte) : State := s.writeIn (key / 16) w.2 (w.1 + i) v mask
/-- Fills TAILW by the front end. -/
def State.vqTail (s : State) (key : Nat) (w : Nat × Nat) (v : Word) : State := s.letIn (key / 16) w.2 (w.1 + 2) 8 fun s => s.fillPlain (w.1 + 2) v
/-- Sets bits of the FLAGS byte of a queue's descriptor and clears others. -/
def State.vqFlags (s : State) (eng key : Nat) (set clear : Byte) : State :=
  match s.vqWord eng key with | some w => s.vqPut key w 1 (flagsWord (s.vqSee key w 1) set clear) 4 | none => s
/-- The eight words of a descriptor. -/
def State.vqImage (s : State) (key : Nat) (w : Nat × Nat) : List Word := (List.range 8).map fun i => s.vqSee key w i

/-- The descriptor that the engine goes by: the one it read at binding, else the one in memory (R335). -/
def State.vqDesc (s : State) (eng key : Nat) : List Word :=
  if (s.vq eng key).bound then (s.vq eng key).img
  else match s.vqWord eng key with | some w => s.vqImage key w | none => []

/-- HEAD of a queue whose descriptor starts at word w. -/
def State.vqHead (s : State) (eng key : Nat) (w : Nat × Nat) : Nat := if (s.vq eng key).bound then (s.vq eng key).head else (s.vqSee key w 3).toNat
/-- Entries from HEAD to tail − 1. -/
def State.vqCount (s : State) (eng key : Nat) (w : Nat × Nat) : Nat := ((s.vqSee key w 2).toNat + 2 ^ 64 - s.vqHead eng key w) % 2 ^ 64
/-- Entries of a queue; none where its descriptor cannot be read. -/
def State.vqEntries (s : State) (eng key : Nat) : Nat := match s.vqWord eng key with | some w => s.vqCount eng key w | none => 0

/-- Fields of a descriptor: log2 of the entry count, weight, DIRECT, ERRADDR, and the address of entry n. -/
def vqSize (img : List Word) : Nat := (img.getD 1 0).toNat % 256
def vqWeight (img : List Word) : Nat := (img.getD 1 0).toNat / 256 % 256
def vqIsDirect (img : List Word) : Bool := (img.getD 1 0).getLsbD 19
def vqErr (img : List Word) : Word := img.getD 4 0
def vqSlotVa (img : List Word) (n : Nat) : Word := img.getD 0 0 + BitVec.ofNat 64 (8 * (n % 2 ^ vqSize img))

/-- Commands of a queue in progress. -/
def State.vqRunning (s : State) (eng key : Nat) : Bool := (s.engine eng).shadows.any fun x => vqKey x.2.ten x.2.vq == key

/-- Sets HEAD, in the engine and in memory. -/
def State.setHead (s : State) (eng key n : Nat) : State :=
  let s := s.modVq eng key fun q => { q with head := n }
  match s.vqWord eng key with | some w => s.vqPut key w 3 (BitVec.ofNat 64 n) 0xFF | none => s

/-- Sets or clears HALT, in the engine and in memory. -/
def State.setHalt (s : State) (eng key : Nat) (on : Bool) : State :=
  (s.modVq eng key fun q => { q with halt := on }).vqFlags eng key (if on then vHalt else 0) (if on then 0 else vHalt)

/-! ## Binding (R318) -/

/-- The fields of a descriptor in memory are within their limits. -/
def descOk (img : List Word) : Bool := vqOk img 0xF && img.getD 7 0 == 0

/-- The lowest free hardware queue slot of an engine. -/
def Engine.freeSlot (e : Engine) : Option Nat :=
  let used := (e.vqs.filter fun q => q.2.bound).map (·.2.slot)
  (List.range 64).find? fun n => !used.contains n

/-- Of some queues, the one of lowest age. -/
def oldestVq : List (Nat × VQ) → Option (Nat × VQ)
  | [] => none
  | q :: qs => match oldestVq qs with
    | some r => if r.2.age < q.2.age then some r else some q
    | none => some q

/-- The removable queue with the oldest binding: no unserved entry and no command in progress. -/
def State.removable (s : State) (eng : Nat) : Option (Nat × VQ) :=
  oldestVq ((s.engine eng).vqs.filter fun q => q.2.bound && s.vqEntries eng q.1 == 0 && !s.vqRunning eng q.1)

/-- Unbinds a queue. -/
def State.unbind (s : State) (eng key : Nat) : State :=
  (s.modVq eng key fun q => { q with bound := false, img := [] }).vqFlags eng key 0 vBound

/-- Binds a queue to a hardware slot, reading its descriptor; its credit is 0 (R319). -/
def State.bindAt (s : State) (eng key slot : Nat) (img : List Word) : State :=
  let age := (s.engine eng).ticks
  let s := s.modEng eng fun e => { e with ticks := age + 1 }
  (s.modVq eng key fun q => { q with
    bound := true, age := age, slot := slot, credit := 0, pend := false, img := img, head := (img.getD 3 0).toNat, halt := (img.getD 1 0).getLsbD 17 }).vqFlags
    eng key vBound vPend

/-- Makes a queue pending and tells the supervisor. -/
def State.starve (s : State) (eng key : Nat) : State :=
  let age := (s.engine eng).ticks
  let s := s.modEng eng fun e => { e with ticks := age + 1 }
  let s := s.modVq eng key fun q => if q.pend then q else { q with pend := true, age := age }
  let s := s.vqFlags eng key vPend 0
  s.supEvent (s.partOf (key / 16)) 0x0101 (BitVec.ofNat 64 (eng * 16 + key % 16)) 0

/-- The event that a bad descriptor gets: ENGINE_ERROR with its address (R315). -/
def State.badQueue (s : State) (eng key : Nat) : State :=
  (s.modVq eng key fun q => { q with pend := false }).supEvent (s.partOf (key / 16)) 0x0102 (s.vqVa eng key) 0

/-- A hardware slot for a queue: a free one, or that of a removable queue, which is unbound. -/
def State.takeSlot (s : State) (eng : Nat) : Option (State × Nat) :=
  match (s.engine eng).freeSlot with
  | some n => some (s, n)
  | none => (s.removable eng).map fun r => (s.unbind eng r.1, r.2.slot)

/-- Notifies a queue whose descriptor is within its limits. -/
def State.notify (s : State) (eng key : Nat) (img : List Word) : State :=
  if (s.vq eng key).bound then s
  else match s.takeSlot eng with
    | some (s, n) => s.bindAt eng key n img
    | none => s.starve eng key

/-- The descriptor of a queue in memory, where it can be read and is within its limits. -/
def State.goodDesc (s : State) (eng key : Nat) : Option (List Word) :=
  match s.vqWord eng key with
  | some w => if descOk (s.vqImage key w) then some (s.vqImage key w) else none
  | none => none

/-- The reads of a queue's descriptor, as they count where they meet another domain or tag (R368, R384). -/
def State.vqReads (s : State) (eng key : Nat) : State :=
  match s.vqWord eng key with
  | some w => (List.range 8).foldl (fun s i => (s.vqRead key w i).1) s
  | none => s

/-- Pending queues bind, oldest pending first, while a slot is to be had. -/
def State.bindPending (eng : Nat) : Nat → State → State
  | 0, s => s
  | n + 1, s =>
    match oldestVq ((s.engine eng).vqs.filter fun q => q.2.pend) with
    | none => s
    | some (key, _) => match s.goodDesc eng key with
      | none => State.bindPending eng n (s.badQueue eng key)
      | some img => match s.takeSlot eng with
        | some (s, sl) => State.bindPending eng n (s.bindAt eng key sl img)
        | none => s

/-- Bound queues of a tenant. -/
def Engine.holds (e : Engine) (t : Nat) : Nat := (e.vqs.filter fun q => q.2.bound && q.1 / 16 == t).length

/-- The bound queue that gives up its slot at a slot edge: of the tenant that holds most slots, the oldest binding. -/
def Engine.evictee (e : Engine) : Option (Nat × VQ) :=
  let bound := e.vqs.filter fun q => q.2.bound
  let most := bound.foldl (fun m q => max m (e.holds (q.1 / 16))) 0
  oldestVq (bound.filter fun q => e.holds (q.1 / 16) == most)

/-- At a slot edge every pending queue still waiting binds, up to 64 of them. -/
def State.bindAtEdge (s : State) (eng : Nat) : State :=
  let pend := (s.engine eng).vqs.filter fun q => q.2.pend
  let sorted := pend.foldl (fun l q => (l.takeWhile fun x => x.2.age ≤ q.2.age) ++ q :: l.dropWhile fun x => x.2.age ≤ q.2.age) []
  (sorted.take 64).foldl (fun s q =>
    match s.goodDesc eng q.1 with
    | none => s.badQueue eng q.1
    | some img => match s.takeSlot eng with
      | some (s, n) => s.bindAt eng q.1 n img
      | none => match (s.engine eng).evictee with
        | none => s
        | some v =>
          let more := 0 < s.vqEntries eng v.1
          let s := s.unbind eng v.1
          let s := if more then
              (let age := (s.engine eng).ticks
               let s := (s.modEng eng fun e => { e with ticks := age + 1 }).modVq eng v.1 fun z => { z with pend := true, age := age }
               s.vqFlags eng v.1 vPend 0)
            else s
          s.bindAt eng q.1 v.2.slot img) s

/-! ## Accesses of a command (R317, R384, R396) -/

/-- A translation under a command's shadow set: physical address and domain, or the CAUSE: 9 for a fenced home, else 6. An access whose
destination carries another tag than the command's partition is dropped (R368): 256 and that tag. -/
def State.engXl (s : State) (x : EngCmd) (va : Word) (a : Acc) : (Nat × Nat) ⊕ Nat :=
  let v := s.modTen x.ten fun t => { t with root := x.root }
  match v.xlateNow x.ten va a with
  | .ok pa _ dom => if s.tagOk (s.partOf x.ten) pa then .inl (pa, dom) else .inr (256 + (s.destTag pa).getD 0)
  | _ =>
    match ({ v with lid := { v.lid with deadDies := [], fencedDies := [], contained := [], farGone := [] } }).xlateNow x.ten va a with
    | .ok _ _ _ => .inr 9
    | _ => .inr 6

/-- One aligned word that a command reads; what a window holds stands outside the package (log entry 13). -/
def State.engRead (s : State) (x : EngCmd) (va : Word) : State × (Word ⊕ Nat) :=
  match s.engXl x va .load with
  | .inr c => (s, .inr c)
  | .inl (pa, dom) =>
    let r := s.readIn x.ten dom (pa / 8)
    (r.1, .inl r.2)

/-- A write of masked bytes of a word by a command, at a translated address; `code` is its event at the line's table. -/
def State.engWrite (s : State) (x : EngCmd) (code pa dom : Nat) (v : Word) (mask : Byte) : State :=
  s.letIn x.ten dom (pa / 8) (maskCount mask) fun s => s.agentWrite code (pa / 8) v mask

/-- Whether a command's send to an address waits for the end of the frame (R382). -/
def State.engWaits (s : State) (x : EngCmd) (va : Word) : Bool :=
  match s.engXl x va .store with
  | .inl (pa, _) => s.windowHeld x.ten (pa / 8)
  | .inr _ => false

/-- The words at some addresses, or the CAUSE and the address of the first read that fails. -/
def State.engWords (x : EngCmd) : List Word → State → State × (List Word ⊕ (Nat × Word))
  | [], s => (s, .inl [])
  | va :: vas, s => match s.engRead x va with
    | (s, .inr c) => (s, .inr (c, va))
    | (s, .inl w) => match State.engWords x vas s with
      | (s, .inl ws) => (s, .inl (w :: ws))
      | (s, .inr c) => (s, .inr c)

/-- Addresses of the eight words of a record. -/
def recordVas (va : Word) : List Word := (List.range 8).map fun i => va + BitVec.ofNat 64 (8 * i)

/-! ## Failures (R317) -/

/-- The completion word of a command (Table 19.6). -/
def EngCmd.cword (x : EngCmd) (err : Bool) : Word :=
  (if err then 1 <<< 63 else 0) ||| BitVec.ofNat 64 (min 65535 x.ovc * 2 ^ 40) ||| (x.flg.zeroExtend 64 <<< 32) ||| x.tg.zeroExtend 64

/-- Writes a command's error record to ERRADDR. -/
def State.cmdError (s : State) (eng : Nat) (x : EngCmd) (cause : Nat) (va : Word) (done time : Nat) : State :=
  s.errorRecord x.ten x.err (errorWords cause eng x.vq x.tg.toNat va done x.recVa x.tag time)

/-- A command that cannot be filled fails at its start: steps 1, 3 and 4. Where its access was dropped, nothing follows (R368). -/
def State.failUnfilled (s : State) (eng : Nat) (x : EngCmd) (cause : Nat) (va : Word) : State :=
  if 256 ≤ cause then s.tagFault (cause - 256) x.ten
  else ((s.cmdError eng x cause va 0 s.cycle).setHalt eng (vqKey x.ten x.vq) true).engineEvent x.ten x.err

/-- Fills the completion word of a record that is turned away or cancelled, with ERR and its TAG, where it can be. -/
def State.fillErr (s : State) (x : EngCmd) (ws : List Word) : State :=
  let cwa := ws.getD 4 0
  if cwa &&& 7 != 0 then s
  else match s.engXl x cwa .both with
    | .inl (pa, dom) => s.fillIn x.ten dom (pa / 8) ((1 <<< 63) ||| (ws.getD 5 0 &&& 0xFFFFFFFF))
    | .inr _ => s

/-! ## The front end (R306, R315, R316) -/

/-- What stands for a queue's command before its record is known. -/
def State.blankCmd (s : State) (key : Nat) (img : List Word) : EngCmd :=
  let t := key / 16
  { ten := t, root := (match s.ten? t with | some x => x.root | none => 0), vq := key % 16, recVa := 0, fmt := img.getD 5 0,
    scale := img.getD 6 0, rm := 0, tag := 0, err := vqErr img }

/-- An ego's argument as a blank command with its shadow. -/
def EgoArg.cmd (a : EgoArg) (x : EngCmd) : EngCmd :=
  { x with recVa := a.recVa, fmt := a.fmt, scale := a.scale, rm := a.rm, tag := a.tag, core := a.core, tg := (a.ws.getD 5 0).truncate 32 }

/-- An ego at a queue that can take it: appended, TAILW filled, the queue notified; none where the ring is full. -/
def State.appendEgo (s : State) (eng key : Nat) (w : Nat × Nat) (img : List Word) (a : EgoArg) : Option State :=
  let tail := s.vqSee key w 2
  let x := a.cmd (s.blankCmd key img)
  if 2 ^ vqSize img ≤ s.vqCount eng key w then none
  else match s.engXl x (vqSlotVa img tail.toNat) .store with
    | .inr c => some ((s.fillErr x a.ws).failUnfilled eng x c (vqSlotVa img tail.toNat))
    | .inl (pa, dom) =>
      let s := (s.writeIn (key / 16) dom (pa / 8) a.recVa 0xFF).vqTail key w (tail + 1)
      some ((s.modVq eng key fun q => { q with args := q.args ++ [a] }).notify eng key img)

/-- EGO_FRONT_END (R306, R315, R316): ego n reaches its engine, its thread's earlier stores performed. -/
def execEgoFrontEnd (s : State) : Out :=
  match s.inFlight s.focus.n with
  | some ⟨_, tag, _, _, .ego eng vq pas recVa t fmt scale rm ctag who⟩ =>
    let n := s.focus.n
    let key := vqKey t vq
    let a : EgoArg := ⟨recVa, pas.map fun p => s.word (p / 8), fmt, scale, rm, ctag, who.core⟩
    if !s.whoDrained who then .fault .notEnabled
    else if tag != s.partOf t then .next ((s.dropReq n).tagFault (s.partOf t) t)
    else
      let s := if (s.vq eng key).bound then s else s.vqReads eng key
      let done (s : State) : State := (s.dropReq n).reply who (.result .null .null)
      let bad : Out := .next ((done s).fillErr (a.cmd (s.blankCmd key [])) a.ws |>.badQueue eng key)
      match s.vqWord eng key with
      | none => bad
      | some w =>
        let img := s.vqDesc eng key
        let x := a.cmd (s.blankCmd key img)
        if vqIsDirect img then .next ((((done s).cmdError eng x 10 0 0 s.cycle).fillErr x a.ws).engineEvent t x.err)
        else if !(s.vq eng key).bound && !descOk img then bad
        else match (done s).appendEgo eng key w img a with
          | some s => .next s
          | none => .next (s.nack n Config.resendClk)
  | _ => .fault .notEnabled

/-- EGO_RESEND (R306): NACKed ego n. -/
def execEgoResend (s : State) : Out := s.resend s.focus.n fun p => match p with | .ego _ _ _ _ _ _ _ _ _ _ => true | _ => false

/-- TAILW_FILL (R316): the fill n of a DIRECT queue's TAILW notifies the queue. -/
def execTailwFill (s : State) : Out :=
  match s.inFlight s.focus.n with
  | some ⟨_, _, _, _, .tailw t eng vq⟩ =>
    let key := vqKey t vq
    let s := s.dropReq s.focus.n
    if (s.vq eng key).bound then .next s
    else
      let s := s.vqReads eng key
      match s.goodDesc eng key with
      | some img => .next (s.notify eng key img)
      | none => .next (s.badQueue eng key)
  | _ => .fault .notEnabled

/-! ## Starting a command (R319, R332) -/

/-- Whether a record is well formed for an engine, its CWA apart (R306, R332 to R334). -/
def engRecordOk (eng : Nat) (ws : List Word) : Bool :=
  let w (i : Nat) : Word := ws.getD i 0
  let opc := (w 0).toNat % 256
  let opt := (w 0).toNat / 256 % 256
  let len := (w 3).toNat
  let unit := if opc = 5 then 128 else 8
  (w 0) >>> 16 == 0 && (w 5) >>> 32 == 0 && w 6 == 0 && w 7 == 0 && (w 1) &&& 7 == 0 && (w 2) &&& (if opc = 5 then 63 else 7) == 0 &&
    len % unit == 0 && unit ≤ len && len ≤ 2 ^ 32 &&
    (match eng with
      | 0 => opc == 1 && opt ≤ 1
      | 1 => opc == 2 && opt ≤ 3 || opc == 3 && opt == 0
      | _ => opc == 5 && opt == 0)

/-- Whether every page of a multicast's destination that translates lies in a REPL range (R333). -/
def State.replOk (s : State) (x : EngCmd) : Bool :=
  let first := x.dst.toNat / 65536
  let last := (x.dst.toNat + x.len - 1) / 65536
  (List.range (last - first + 1)).all fun i =>
    match s.engXl x (if i = 0 then x.dst else BitVec.ofNat 64 ((first + i) * 65536)) .store with
    | .inl (pa, _) => s.isRepl (pa / 128)
    | .inr _ => true

/-- A command with its record. -/
def EngCmd.withRecord (x : EngCmd) (ws : List Word) (cwa dom now : Nat) : EngCmd :=
  { x with opc := (ws.getD 0 0).toNat % 256, opt := (ws.getD 0 0).toNat / 256 % 256, src := ws.getD 1 0, dst := ws.getD 2 0, len := (ws.getD 3 0).toNat,
           cwa := cwa, cwaDom := dom, tg := (ws.getD 5 0).truncate 32, started := now }

/-- Starts a command whose record has been read: CWA is translated first; a record that fails its checks takes its shadow
set only to report CAUSE 7. -/
def State.startCommand (s : State) (eng : Nat) (x : EngCmd) (ws : List Word) : State :=
  let cwa := ws.getD 4 0
  let x := { x with tg := (ws.getD 5 0).truncate 32 }
  if cwa &&& 7 != 0 then s.failUnfilled eng x 7 cwa
  else match s.engXl x cwa .both with
    | .inr c => s.failUnfilled eng x c cwa
    | .inl (pa, dom) =>
      let x := x.withRecord ws (pa / 8) dom s.cycle
      let bad := !engRecordOk eng ws || (x.opc == 3 && !s.replOk x)
      let free := ((List.range 4).find? fun n => !((s.engine eng).shadows.any fun h => h.1 == n)).getD 0
      s.modEng eng fun e => { e with shadows := tset e.shadows free (if bad then { x with fail := some (7, 0), failAt := s.cycle } else x) }

/-- Whether a bound queue contends: an unserved entry, not halted, its tenant's engine time not held (R319, R382). -/
def State.contends (s : State) (eng : Nat) (q : Nat × VQ) : Bool :=
  q.2.bound && !q.2.halt && 0 < s.vqEntries eng q.1 && !s.sendHeld (q.1 / 16) 8

/-- The contending queue of highest credit; ties go to the lowest slot. -/
def highestCredit : List (Nat × VQ) → Option (Nat × VQ)
  | [] => none
  | q :: qs => match highestCredit qs with
    | some r => if q.2.credit < r.2.credit || (q.2.credit == r.2.credit && r.2.slot < q.2.slot) then some r else some q
    | none => some q

/-- The arbiter's choice, with the credits after it (R319). -/
def State.choose (s : State) (eng : Nat) : Option (State × Nat × VQ) :=
  let cs := (s.engine eng).vqs.filter fun q => s.contends eng q
  let up := cs.map fun q => (q.1, { q.2 with credit := q.2.credit + vqWeight q.2.img })
  let total : Int := cs.foldl (fun (a : Int) q => a + vqWeight q.2.img) 0
  (highestCredit up).map fun q =>
    let s := up.foldl (fun s (r : Nat × VQ) => s.modVq eng r.1 fun _ => if r.1 = q.1 then { r.2 with credit := r.2.credit - total } else r.2) s
    (s, q.1, q.2)

/-- ARBITER_START (R317, R319): engine n, with a shadow set free, starts the entry at HEAD of the queue of highest credit; a queue
that this leaves removable gives its slot to a pending one (R318). -/
def execArbiterStart (s : State) : Out :=
  let eng := s.focus.n
  if 4 ≤ (s.engine eng).shadows.length then .fault .notEnabled
  else match s.choose eng with
    | none => .fault .notEnabled
    | some (s, key, q) => .next ((startEntry s eng key q).bindPending eng 64)
where
  /-- Starts the entry at HEAD of a queue. -/
  startEntry (s : State) (eng key : Nat) (q : VQ) : State :=
    let x := s.blankCmd key q.img
    let s := s.setHead eng key (q.head + 1)
    match q.args with
    | a :: rest => (s.modVq eng key fun q => { q with args := rest }).startCommand eng (a.cmd x) a.ws
    | [] => match s.engRead x (vqSlotVa q.img q.head) with
      | (s, .inr c) => s.failUnfilled eng x c (vqSlotVa q.img q.head)
      | (s, .inl va) =>
        let x := { x with recVa := va }
        if va &&& 63 != 0 then s.failUnfilled eng x 7 va
        else match State.engWords x (recordVas va) s with
          | (s, .inr (c, bad)) => s.failUnfilled eng x c bad
          | (s, .inl ws) => s.startCommand eng x ws

/-! ## Commands at work -/

/-- A command in a shadow set that has not failed and whose opcode is one of some. -/
def State.working (s : State) (eng m : Nat) (opcs : List Nat) : Option EngCmd :=
  match tget? (s.engine eng).shadows m with
  | some x => if x.fail.isNone && opcs.contains x.opc then some x else none
  | none => none

/-- Replaces the command in a shadow set. -/
def State.setShadow (s : State) (eng m : Nat) (x : EngCmd) : State := s.modEng eng fun e => { e with shadows := tset e.shadows m x }

/-- The command in a shadow set fails at an address, or its access is dropped (R317, R368). -/
def State.engFail (s : State) (eng m : Nat) (x : EngCmd) (c : Nat) (va : Word) : State :=
  (if 256 ≤ c then s.tagFault (c - 256) x.ten else s).setShadow eng m { x with fail := some (c, va), failAt := s.cycle }

/-- Writes a copied word: with FE its full/empty bit goes with it (Table 17.3). -/
def State.copyWord (s : State) (x : EngCmd) (pa dom : Nat) (v : Word) (full : Bool) : State :=
  if x.opt = 0 then s.engWrite x 1 pa dom v 0xFF
  else s.letIn x.ten dom (pa / 8) 8 fun s => if full then s.fillWord (pa / 8) v else (s.agentPut (pa / 8) v 0xFF).emptyWord (pa / 8)

/-- COPY (R306): the command in shadow set m of the copy engine moves its next word. -/
def execCopy (s : State) : Out :=
  let m := s.focus.m
  match s.working 0 m [1] with
  | none => .fault .notEnabled
  | some x =>
    let a := x.src + BitVec.ofNat 64 x.pos
    let d := x.dst + BitVec.ofNat 64 x.pos
    if x.len ≤ x.pos || s.engWaits x d then .fault .notEnabled
    else
      let full := match s.engXl x a .load with | .inl (pa, _) => outside (pa / 8) || s.full (pa / 8) | .inr _ => true
      match s.engRead x a with
      | (s, .inr c) => .next (s.engFail 0 m x c a)
      | (s, .inl v) => match s.engXl x d .store with
        | .inr c => .next (s.engFail 0 m x c d)
        | .inl (pa, dom) => .next ((s.copyWord x pa dom v full).setShadow 0 m { x with pos := x.pos + 8 })

/-- Element size of a reduce (R333). -/
def dtSize (dt : Nat) : Nat := match dt with | 0 => 4 | 1 => 2 | 2 => 4 | _ => 8

/-- v + x of a data type under RM, with flags. -/
def dtAdd (dt rm v x : Nat) : Nat × BitVec 7 :=
  let r := if rm = 4 then 0 else rm
  match dt with
  | 0 => fp32.add r (fp32.value v) (fp32.value x)
  | 1 => bf16.add r (bf16.value v) (bf16.value x)
  | _ => ((v + x) % 2 ^ (8 * dtSize dt), 0)

/-- REDUCE_ADD (R320, R333): element k of the command in shadow set m of the collective engine is added at its home, as one
strong access. -/
def execReduceAdd (s : State) : Out :=
  let m := s.focus.m
  let i := s.focus.k
  match s.working 1 m [2] with
  | none => .fault .notEnabled
  | some x =>
    let n := dtSize x.opt
    let a := x.src + BitVec.ofNat 64 (n * i)
    let d := x.dst + BitVec.ofNat 64 (n * i)
    if x.len ≤ n * i || x.did.contains i || s.engWaits x d then .fault .notEnabled
    else match s.engRead x a with
      | (s, .inr c) => .next (s.engFail 1 m x c a)
      | (s, .inl v) => match s.engXl x d .both with
        | .inr c => .next (s.engFail 1 m x c d)
        | .inl (pa, dom) =>
          let o := s.engRead x d
          let old := match o.2 with | .inl w => partWord w (pa % 8) n | .inr _ => 0
          let r := dtAdd x.opt x.rm old.toNat (partWord v (a.toNat % 8) n).toNat
          let s := o.1.engWrite x 2 pa dom (BitVec.ofNat 64 r.1 <<< (8 * (pa % 8))) (byteMask (pa % 8) n)
          .next (s.setShadow 1 m { x with did := linsert x.did i, flg := x.flg ||| r.2.truncate 5 })

/-- MULTICAST (R333): word k of the command in shadow set m of the collective engine goes to the primary home. -/
def execMulticast (s : State) : Out :=
  let m := s.focus.m
  let i := s.focus.k
  match s.working 1 m [3] with
  | none => .fault .notEnabled
  | some x =>
    let a := x.src + BitVec.ofNat 64 (8 * i)
    let d := x.dst + BitVec.ofNat 64 (8 * i)
    if x.len ≤ 8 * i || x.did.contains i then .fault .notEnabled
    else match s.engRead x a with
      | (s, .inr c) => .next (s.engFail 1 m x c a)
      | (s, .inl v) => match s.engXl x d .store with
        | .inr c => .next (s.engFail 1 m x c d)
        | .inl (pa, dom) => .next ((s.engWrite x 1 pa dom v 0xFF).setShadow 1 m { x with did := linsert x.did i })

/-- Writes the words of a slot. -/
def State.engWriteAll (x : EngCmd) : List (Word × Word) → State → State × Option (Nat × Word)
  | [], s => (s, none)
  | (va, v) :: l, s => match s.engXl x va .store with
    | .inr c => (s, some (c, va))
    | .inl (pa, dom) => State.engWriteAll x l (s.engWrite x 1 pa dom v 0xFF)

/-- COMPRESS (R334): the command in shadow set m of the compression engine encodes its next block. -/
def execCompress (s : State) : Out :=
  let m := s.focus.m
  match s.working 2 m [5] with
  | none => .fault .notEnabled
  | some x =>
    let a := x.src + BitVec.ofNat 64 x.pos
    let d := x.dst + BitVec.ofNat 64 (x.pos / 2)
    if x.len ≤ x.pos || s.engWaits x d then .fault .notEnabled
    else match State.engWords x ((List.range 16).map fun i => a + BitVec.ofNat 64 (8 * i)) s with
      | (s, .inr (c, bad)) => .next (s.engFail 2 m x c bad)
      | (s, .inl ws) =>
        let e := efpEncode ((ws.flatMap fun w => [w.toNat % 2 ^ 32, w.toNat / 2 ^ 32]).map fp32.value)
        let slot : BitVec 512 := BitVec.ofNat 512 e.1
        match State.engWriteAll x ((List.range 8).map fun i => (d + BitVec.ofNat 64 (8 * i), slot.extractLsb' (64 * i) 64)) s with
        | (s, some f) => .next (s.engFail 2 m x f.1 f.2)
        | (s, none) => .next (s.setShadow 2 m { x with pos := x.pos + 128, flg := x.flg ||| e.2.1.truncate 5, ovc := x.ovc + e.2.2 })

/-! ## Completion (R317, R332, R336, R400) -/

/-- Bytes that a command has done. -/
def EngCmd.bytesDone (x : EngCmd) : Nat :=
  if x.opc = 2 then x.did.length * dtSize x.opt else if x.opc = 3 then 8 * x.did.length else x.pos

/-- Fills the words of the ecancels that waited for a queue's commands in progress. -/
def State.cancelFills (s : State) (eng key : Nat) : State :=
  if s.vqRunning eng key then s
  else
    let l := (s.vq eng key).cancel
    l.foldl (fun s c => s.fillIn (key / 16) c.2.1 c.1 (BitVec.ofNat 64 c.2.2)) (s.modVq eng key fun q => { q with cancel := [] })

/-- ENGINE_COMMAND_COMPLETE (R317, R332): the command in shadow set m of engine n ends: its error record, the fill of its
completion word, HALT, the event; its engine time is charged. The fill, a release at system scope, waits until what the engines have written is
performed (R238, R239), and while its core is stopped for its tenant; a command whose access was dropped waits for good (R368). -/
def execEngineCommandComplete (s : State) : Out :=
  let eng := s.focus.n
  match tget? (s.engine eng).shadows s.focus.m with
  | none => .fault .notEnabled
  | some x =>
    let key := vqKey x.ten x.vq
    let stays := match x.fail with | none => x.bytesDone < x.len | some f => 256 ≤ f.1
    if stays || (s.core x.core).dbgStop.contains x.ten then .fault .notEnabled
    else
      let fill (s : State) (err : Bool) : State := s.fillIn x.ten x.cwaDom x.cwa (x.cword err)
      let freed (s : State) : State := (s.modEng eng fun e => { e with shadows := tdel e.shadows s.focus.m }).quotaAdd x.ten 8 (s.cycle - x.started)
      match x.fail with
      | none => if s.agentsDone then .next (((fill (freed s) false).cancelFills eng key).bindPending eng 64) else .fault .notEnabled
      | some (c, va) =>
        let r := if x.told then s else s.cmdError eng x c va x.bytesDone x.failAt
        if r.agentsDone then
          .next (((((fill (freed r) true).setHalt eng key true).engineEvent x.ten x.err).cancelFills eng key).bindPending eng 64)
        else if x.told then .fault .notEnabled
        else .next (r.setShadow eng s.focus.m { x with told := true })

/-! ## ecfg and ecancel at the front end (R335, R336) -/

/-- ECFG_SET (R335): request n. -/
def execEcfgSet (s : State) : Out :=
  match s.inFlight s.focus.n with
  | some ⟨_, tag, _, _, .ecfg c sq t eng vq false img cwa⟩ =>
    let key := vqKey t vq
    let s := (s.dropReq s.focus.n).performed c sq
    if tag != s.partOf t then .next (s.tagFault (s.partOf t) t)
    else
    let s := s.vqReads eng key
    match s.vqWord eng key with
    | none => .next (s.fillIn t cwa.2 (cwa.1 / 8) 0x8000000000000001)
    | some w =>
      if s.vqRunning eng key || s.vqCount eng key w != 0 then .next (s.fillIn t cwa.2 (cwa.1 / 8) 0x8000000000000001)
      else
        let s := s.modVq eng key fun q => { q with bound := false, pend := false, halt := false, img := [], credit := 0, head := 0, args := [] }
        let new : List (Nat × Word) := [(0, img.getD 0 0), (1, img.getD 1 0 &&& 0x8FFFF), (3, 0), (4, img.getD 4 0), (5, img.getD 5 0), (6, img.getD 6 0)]
        let s := new.foldl (fun s x => s.vqPut key w x.1 x.2 0xFF) s
        .next (((s.vqTail key w 0).fillIn t cwa.2 (cwa.1 / 8) 0).bindPending eng 64)
  | _ => .fault .notEnabled

/-- ECFG_RESUME (R335): request n. -/
def execEcfgResume (s : State) : Out :=
  match s.inFlight s.focus.n with
  | some ⟨_, tag, _, _, .ecfg c sq t eng vq true _ cwa⟩ =>
    let key := vqKey t vq
    let s := (s.dropReq s.focus.n).performed c sq
    if tag != s.partOf t then .next (s.tagFault (s.partOf t) t)
    else
      let s := s.setHalt eng key false
      let s := if s.vqEntries eng key = 0 || (s.vq eng key).bound then s
        else match s.goodDesc eng key with
          | some img => (s.vqReads eng key).notify eng key img
          | none => (s.vqReads eng key).badQueue eng key
      .next (s.fillIn t cwa.2 (cwa.1 / 8) 0)
  | _ => .fault .notEnabled

/-- The entries of a queue from HEAD on as commands with their records, none where a record cannot be read. -/
def State.entries (s : State) (eng key : Nat) (w : Nat × Nat) (img : List Word) : List (EngCmd × Option (List Word)) :=
  let x := s.blankCmd key img
  let head := s.vqHead eng key w
  (List.range (s.vqCount eng key w)).map fun i =>
    match (s.vq eng key).args[i]? with
    | some a => (a.cmd x, some a.ws)
    | none => match s.engRead x (vqSlotVa img (head + i)) with
      | (_, .inr _) => (x, none)
      | (_, .inl va) => match State.engWords { x with recVa := va } (recordVas va) s with
        | (_, .inl ws) => ({ x with recVa := va, tg := (ws.getD 5 0).truncate 32 }, some ws)
        | (_, .inr _) => ({ x with recVa := va }, none)

/-- ECANCEL_REQUEST (R336): request n. -/
def execEcancelRequest (s : State) : Out :=
  match s.inFlight s.focus.n with
  | some ⟨_, tag, _, _, .ecancel c sq t eng vq cwa⟩ =>
    let key := vqKey t vq
    let s := (s.dropReq s.focus.n).performed c sq
    if tag != s.partOf t then .next (s.tagFault (s.partOf t) t)
    else match s.vqWord eng key with
    | none => .next (s.fillIn t cwa.2 (cwa.1 / 8) 0)
    | some w =>
      let img := s.vqDesc eng key
      let es := s.entries eng key w img
      let s := es.foldl (fun s e => match e.2 with | some ws => s.fillErr e.1 ws | none => s) s
      let s := ((s.setHead eng key (s.vqSee key w 2).toNat).setHalt eng key true).modVq eng key fun q => { q with args := [] }
      let s := match es with
        | [] => s
        | e :: _ => s.errorRecord t (vqErr img) (errorWords 8 eng vq e.1.tg.toNat 0 0 e.1.recVa e.1.tag s.cycle)
      .next (((s.modVq eng key fun q => { q with cancel := q.cancel ++ [(cwa.1 / 8, cwa.2, es.length)] }).cancelFills eng key).bindPending eng 64)
  | _ => .fault .notEnabled

end Sys2Proof.Machine
end

