-- ==== Sys2Proof/Machine/Weave.lean ====
section
/-!
DEFINITION. Machine/Weave: slot edges, handover, donation, frames, quotas, power windows, and the passing of a clk (R38,
R370 to R378, R381, R382, R385, R386, R398, R404).
-/
namespace Sys2Proof.Machine

/-! ## The slot edge (R376) -/

/-- The Weave in force from this clk on: a set accepted before takes effect at a frame boundary (R375). -/
def State.weaveAt (s : State) : Weave := if s.cycle % Config.frameClk = 0 then s.lid.weaveNext.getD s.lid.weave else s.lid.weave

/-- The state with that Weave. -/
def State.withWeave (s : State) : State := { s with lid := { s.lid with weave := s.weaveAt } }

/-- The side that governed a core up to an edge. -/
def State.sideBefore (s : State) (c : Nat) : Option Nat :=
  match (s.core c).side with
  | some x => x
  | none => s.ownerAt (tget s.lid.weave.core c 0) (s.cycle - 1)

/-- Whether a side contains a tenant on a core (R376). -/
def State.onSide (s : State) (c : Nat) (side : Option Nat) (t : Nat) : Bool :=
  match side with | some o => o == t | none => s.admitted c t

/-- A slot at an owner change: an outgoing one is to be handed over, an incoming one enters the rotation. -/
def Slot.atEdge (x : Slot) (old new : Nat → Bool) (clk : Nat) : Slot :=
  match x.ctx with
  | none => x
  | some y =>
    if new y.ten then (if old y.ten then x else { x with handed := none, drain := false, overrun := false })
    else if old y.ten then { x with handed := some clk } else x

/-- Brings a tenant's contexts in a core's cache down to its share, as a full cache does (R262, R376), while its save area has room. -/
def State.reshareOf (c t : Nat) : Nat → State → State
  | 0, s => s
  | n + 1, s =>
    if ((s.core c).cache.filter fun z => z.ten == t).length ≤ (if s.admitted c t then s.share c else 0) then s
    else match (s.core c).victim t with
      | none => s
      | some v => match (s.modCore c fun k => { k with cache := k.cache.filter fun z => z.id != v.id }).putRecord c true v with
        | some s => State.reshareOf c t n s
        | none => s

/-- The same for every tenant. -/
def State.reshare (c : Nat) (s : State) : State := (((s.core c).cache.map Ctx.ten).eraseDups).foldl (fun s t => State.reshareOf c t 32 s) s

/-- Turns paired mode on or off where its time has come (R398): the trailing slots take copies of the leading ones, or are
emptied. -/
def Core.pairEdge (k : Core) : Core :=
  match k.pairNext with
  | none => k
  | some false => { k with paired := false, pairNext := none, lvq := [], slots := k.slots.map fun (x : Nat × Slot) => if 8 ≤ x.1 then (x.1, { x.2 with ctx := none, blk := none }) else x }
  | some true =>
    if k.slots.any fun x => 8 ≤ x.1 && x.2.ctx.isSome then k
    else
      let copy (b : Block) : Block := { b with body := b.body.map fun e => if e.phase == .done then e else { e with phase := .waiting } }
      (List.range 8).foldl (fun k n => match (k.slot n).ctx with
        | some y => k.setSlot (n + 8) { k.slot (n + 8) with ctx := some y, blk := (k.slot n).blk.map copy }
        | none => k) { k with paired := true, pairNext := none }

/-- What an edge does at a core; `s` holds the new Weave, `old` the side before and whom it contained. -/
def State.coreEdge (s : State) (c : Nat) (old : Option Nat) (was : Nat → Bool) : State :=
  let new := s.ownerAt (tget s.lid.weave.core c 0) s.cycle
  let s := s.modCore c fun k =>
    { k.pairEdge with side := some new, donated := false, idle := 0, winAt := s.cycle, winIssue := [], gated := [] }
  let f (x : Nat × Slot) : Nat × Slot := (x.1, x.2.atEdge was (s.onSide c new) s.cycle)
  State.reshare c (if old = new then s else s.modCore c fun k => { k with epoch := k.epoch + 1, edgeAt := s.cycle, slots := k.slots.map f })

/-- Whether the owner of a way group changes at an edge (R377). -/
def State.groupChanges (s new : State) (slice g : Nat) : Bool :=
  s.ownerAt (tget s.lid.weave.group (slice * 4 + g) 0) (s.cycle - 1) != new.ownerAt (tget new.lid.weave.group (slice * 4 + g) 0) s.cycle

/-- Flushes the way groups whose owner changes: each of their lines is evicted, and replicas there go (R247, R377). -/
def State.flushGroups (s new : State) : State :=
  let t := { new with replicas := new.replicas.filter fun r => !s.groupChanges new (replicaSlice (r.1 / 4) (r.1 % 4)) r.2.group }
  new.dirs.foldl (fun t d =>
    match d.group with
    | some g =>
      if s.groupChanges new (homeOf (128 * d.line)) g then (t.modDir d.line fun x => { x with flush := true }).applyEv d.line 4 (ownEv 4 d.line)
      else t
    | none => t) t

/-- A flush is to have ended by E + 2,048 (R377). -/
def State.flushDue (s : State) : Bool :=
  (s.dirs.any fun d => d.flush) && (match s.lid.edgeAt with | some e => e + Config.drainClk ≤ s.cycle | none => false)

/-! ## Settings taking effect (R371) -/

/-- A setting of a tenant; rows and values as the mailbox numbers them (log entry 17). -/
def Tenant.takeSetting (x : Tenant) (row : Nat) (vs : List Word) : Tenant :=
  let v (i : Nat) : Word := vs.getD i 0
  match row with
  | 2 => { x with debug := (v 0).getLsbD 0 }
  | 3 => { x with root := (v 0).toNat }
  | 4 => { x with msgBase := v 0 }
  | 5 => { x with engBase := v 0, errBase := v 1 }
  | 6 => { x with tileBase := v 0 }
  | 7 => { x with spillN := (v 0).toNat, spillBase := v 1 }
  | 8 => { x with saveN := (v 0).toNat, saveBase := v 1 }
  | 9 => { x with rings := tset x.rings (v 0).toNat ⟨v 1, (v 2).toNat, 0, none, false⟩ }
  | 10 => { x with arena := tset x.arena (v 0).toNat { tget x.arena (v 0).toNat {} with first := (v 2).toNat / 128, lines := (v 1).toNat * 512 } }
  | 11 => { x with don := (v 0).toNat, donee := (v 1).toNat }
  | 12 => { x with limits := tset x.limits (v 0).toNat (v 1).toNat }
  | _ => x

/-- A setting of a partition. -/
def Part.takeSetting (p : Part) (row : Nat) (vs : List Word) : Part :=
  match row with
  | 0 => { p with scont := vs.getD 0 0, tbase := vs.getD 1 0 }
  | 1 => { p with mixed := (vs.getD 0 0).getLsbD 0 }
  | _ => p

/-- A queue whose descriptor now lies elsewhere, with its default image there: unbound, with nothing pending (R315). Fills of ecancel that
wait for commands in progress stay owed. -/
def VQ.renew (q : VQ) : VQ := { cancel := q.cancel }

/-- The engines' queues of a tenant whose engine-queue base changes. -/
def State.renewQueues (s : State) (t : Nat) : State :=
  { s with engines := s.engines.map fun (e : Nat × Engine) => (e.1, { e.2 with
      vqs := e.2.vqs.map fun (q : Nat × VQ) => if q.1 / 16 = t then (q.1, q.2.renew) else q }) }

/-- One accepted setting takes effect: partition, tenant, row, values. -/
def State.applySetting (s : State) (x : Nat × Nat × Nat × List Word) : State :=
  let s := (s.modPart x.1 fun p => p.takeSetting x.2.2.1 x.2.2.2).modTen x.2.1 fun t => t.takeSetting x.2.2.1 x.2.2.2
  if x.2.2.1 = 5 then s.renewQueues x.2.1 else s

/-- Every accepted setting takes effect. -/
def State.applySettings (s : State) : State := s.lid.sets.foldl State.applySetting { s with lid := { s.lid with sets := [] } }

/-- Cores that an edge concerns: those of the partitions and those with state. -/
def State.edgeCores (s : State) : List Nat := ((s.cores.map (·.1)) ++ s.parts.flatMap fun p => p.2.cores).eraseDups

/-- SLOT_EDGE (R318, R370 to R377, R398): once per slot edge, before anything else of its clk. -/
def execSlotEdge (s : State) : Out :=
  if s.cycle % Config.slotClk != 0 || s.lid.edgeAt == some s.cycle || s.lid.stage.isNone then .fault .notEnabled
  else
    let cs := s.edgeCores
    let new := (s.applySettings).withWeave
    let t := cs.foldl (fun t c => t.coreEdge c (s.sideBefore c) (s.onSide c (s.sideBefore c))) new
    let t := s.flushGroups t
    let t := (List.range 3).foldl State.bindAtEdge t
    .next { t with lid := { t.lid with edgeAt := some s.cycle, weave := s.lid.weave } }

/-! ## Handover (R38, R254, R378) -/

/-- Whether the migration message of a context has been NACKed and waits to be resent. -/
def State.migrationNacked (s : State) (id : Nat) : Bool :=
  s.reqs.any fun r => r.nacked && (match r.pkt with | .migr _ n _ _ => n == id | _ => false)

/-- A context whose migration message was NACKed goes to the context cache when its slot is handed over, where its tenant's share or save
area has room (R254, R284, R376). -/
def State.stashMigrant (s : State) (c k : Nat) (y : Ctx) : Option State :=
  if y.hold == .migrating && s.migrationNacked y.id then (s.vacate c k).cachePut c y else none

/-- SLOT_HANDOVER (R38): the search reaches slot k of core c. An abortable block is discarded; one past its point of no
return drains. -/
def execSlotHandover (s : State) : Out :=
  let c := s.focus.c
  let k := s.focus.k
  let x := s.slot c k
  if x.handed.isNone || x.drain || x.overrun || ((s.core c).paired && 8 ≤ k) then .fault .notEnabled
  else match x.ctx, x.blk with
    | some _, some b =>
      if b.ponr then
        let s := s.setSlot c k { x with drain := true }
        .next (if (s.core c).paired then s.setSlot c (k + 8) { s.slot c (k + 8) with drain := true } else s)
      else .next (s.discard c k)
    | some y, none => match s.stashMigrant c k y with | some s => .next s | none => .fault .notEnabled
    | none, _ => .fault .notEnabled

/-- OVERRUN (R378): the block that drains in slot k of core c has not committed by E + 2,048. Its compute is charged from there on, and
from the first such clk where it drains across several edges. -/
def execOverrun (s : State) : Out :=
  let c := s.focus.c
  let k := s.focus.k
  let x := s.slot c k
  match x.ctx, x.handed with
  | some y, some e =>
    if !x.drain || x.overrun || x.blk.isNone || s.cycle < e + Config.drainClk || ((s.core c).paired && 8 ≤ k) then .fault .notEnabled
    else
      let s := s.setSlot c k { x with overrun := true, charge := x.charge <|> some (e + Config.drainClk) }
      let s := s.modTen y.ten fun t => { t with overruns := t.overruns + 1 }
      .next (s.supEvent (s.partOf y.ten) 19 0 (match x.blk with | some b => b.addr | none => y.pc))
  | _, _ => .fault .notEnabled

/-! ## Donation (R381) -/

/-- Whether an instruction of a block has not fired and waits for no reply. -/
def Block.stirs (b : Block) : Bool :=
  let waits := b.body.zipIdx.flatMap fun e => if e.1.phase == .waiting || e.1.phase == .done then [] else b.depends e.2
  b.body.zipIdx.any fun e => e.1.phase == .waiting && !waits.contains e.2

/-- Whether a slot is in the rotation (R37): it holds a block that is not being fetched, and an unfired instruction of it waits for no
reply. -/
def State.rotates (s : State) (c k : Nat) : Bool :=
  s.inRotation c k && (match (s.slot c k).blk with | some b => b.stirs | none => false)

/-- Whether a tenant has a slot of a core in the rotation, or a block drains there. -/
def State.busyOn (s : State) (c t : Nat) : Bool :=
  (List.range 16).any fun k => (s.slot c k).drain || (s.rotates c k && (match (s.slot c k).ctx with | some y => y.ten == t | none => false))

/-- The rest of a core's slot goes to another side: the slots of that side enter the rotation, those of the owner wait for the edge. -/
def State.giveSlot (s : State) (c : Nat) (side : Option Nat) : State :=
  s.modCore c fun k => { k with side := some side, slots := k.slots.map fun (x : Nat × Slot) => (x.1, x.2.atEdge (fun _ => false) (s.onSide c side) s.cycle) }

/-- DONATION (R381): core n. No clk ends before a donation that is due (State.clkDone). -/
def execDonation (s : State) : Out :=
  let c := s.focus.n
  match s.sideNow c with
  | none => .fault .notEnabled
  | some t => match s.ten? t with
    | none => .fault .notEnabled
    | some x =>
      if x.don = 0 || (s.core c).donated || (s.core c).idle < Config.donateClk then .fault .notEnabled
      else .next ((s.giveSlot c (if x.don = 2 then some x.donee else none)).modCore c fun k => { k with donated := true })

/-! ## Frames (R375, R382, R385, R386, R397, R404) -/

/-- The usage record of a tenant (Table 22.8). -/
def State.usage (s : State) (t : Nat) (x : Tenant) : State :=
  let n (q : Nat) : Nat := tget x.counts q 0
  s.record t 0 0 [x.overruns, n 0, tget x.peaks 1 0, tget x.peaks 4 0, x.spawns, n 6, n 7, n 8, x.secev]

/-- A tenant at the start of a frame: rate quotas are reset. -/
def Tenant.newFrame (x : Tenant) : Tenant :=
  { x with counts := x.counts.filter fun q => !rateQuota q.1, peaks := x.counts.filter fun q => !rateQuota q.1,
           crossed := x.crossed.filter fun q => !rateQuota q, held := [], spawns := 0, overruns := 0, secev := 0 }

/-- Bytes 0 to 95 of a seal, which its signature covers (R386). -/
def Seal.covered (x : Seal) : List Byte := natBytes x.seq 8 ++ natBytes x.boot 8 ++ natBytes x.frame 8 ++ natBytes 0 8 ++ digestBytes x.head

/-- The 4,627 bytes of a signature under the device identity key (R386). -/
def signed (bs : List Byte) : List Byte := (List.range 4627).map (Config.signature bs)

/-- The 4,728 bytes of a seal as the log ring holds it (R386). -/
def Seal.bytes (x : Seal) : List Byte := x.covered ++ x.sig ++ natBytes 0 (4728 - 96 - 4627)

/-- A seal of the chain head (R386). -/
def State.seal (s : State) : State :=
  let x : Seal := ⟨s.lid.seq, s.lid.boot, s.cycle / Config.frameClk, s.lid.head, []⟩
  let x := { x with sig := signed x.covered }
  { s with lid := { s.lid with seals := s.lid.seals ++ [x], sinceSeal := 0 } }.logBytes x.bytes

/-- A pending Weave takes effect, with a record of KIND 3 for every tenant (R375). -/
def State.newWeave (s : State) : State :=
  match s.lid.weaveNext with
  | none => s
  | some w => s.tenants.foldl (fun s t => s.record t.1 3 0 []) { s with lid := { s.lid with weave := w, weaveNext := none } }

/-- A pending firmware switch: the Lid restarts from the other image and its mailbox falls silent (R397). -/
def State.switchFirmware (s : State) : State :=
  match s.lid.switching with
  | none => s
  | some _ => { s with lid := { s.lid with active := 1 - s.lid.active, switching := none, silent := true, staged := false } }.record 0 3 0 []

/-- FRAME_BOUNDARY (R385): once per frame, after the slot edge of its clk. -/
def execFrameBoundary (s : State) : Out :=
  if s.cycle % Config.frameClk != 0 || s.lid.frameAt == some s.cycle || s.lid.edgeAt != some s.cycle then .fault .notEnabled
  else
    let s := s.tenants.foldl (fun s t => s.usage t.1 t.2) s
    let s := { s with tenants := s.tenants.map fun (t : Nat × Tenant) => (t.1, t.2.newFrame) }
    let s := s.newWeave.switchFirmware
    let s := { s with lid := { s.lid with limit := s.lid.limitNext.getD s.lid.limit, limitNext := none, frameAt := some s.cycle } }
    .next s.seal

/-- LOG_SEAL (R386): 4,096 records since the last seal. -/
def execLogSeal (s : State) : Out := if 4096 ≤ s.lid.sinceSeal then .next s.seal else .fault .notEnabled

/-- RATE_QUOTA_CROSSED (R382): rate quota m of tenant n first exceeds its limit in the frame. No clk ends before it (State.clkDone). -/
def execRateQuotaCrossed (s : State) : Out :=
  let t := s.focus.n
  let q := s.focus.m
  match s.ten? t with
  | none => .fault .notEnabled
  | some x =>
    if !rateQuota q || x.limit q = 2 ^ 64 - 1 || tget x.counts q 0 ≤ x.limit q || x.crossed.contains q then .fault .notEnabled
    else
      let s := s.modTen t fun x => { x with crossed := linsert x.crossed q, held := linsert x.held q }
      .next ((s.supEvent x.part 0x0103 (BitVec.ofNat 64 q) 0).record t 1 q [])

/-! ## Power (R404) -/

/-- A core's power window restarts. -/
def State.freshWindow (s : State) (c : Nat) : State := s.modCore c fun k => { k with winAt := s.cycle, winIssue := [], gated := [] }

/-- Whether the power window of a core has ended. -/
def State.windowEnded (s : State) (c : Nat) : Bool := (s.core c).winAt + Config.windowClk ≤ s.cycle

/-- The current budget of a tenant on a core, in issue cycles of a window; 32 is the draining block. The owner has 15/16 of the core's share
of the package limit, the tenants that issue in pool or donated time have equal parts of it, and 1/16 is held back. What a share in
amperes comes to in issue cycles is open (log entry 7). -/
def State.powerBudget (s : State) (c t : Nat) : Nat :=
  let share := Config.coreShare s.lid.limit
  if t = 32 then share / 16
  else if (s.sideNow c).isSome && !(s.core c).donated then share * 15 / 16
  else share * 15 / 16 / max 1 ((s.core c).winIssue.filter fun x => x.1 != 32).length

/-- Whether a tenant has exceeded its budget on a core in the current window. -/
def State.overBudget (s : State) (c t : Nat) : Bool :=
  0 < tget (s.core c).winIssue t 0 && !(s.core c).gated.contains t && s.powerBudget c t < tget (s.core c).winIssue t 0

/-- POWER_WINDOW (R404): the window of core n restarts after 256 clk; within it, tenant m (32: the draining block) has exceeded its budget
and is gated, before the clk ends (State.clkDone). -/
def execPowerWindow (s : State) : Out :=
  let c := s.focus.n
  if s.windowEnded c then .next (s.freshWindow c)
  else if s.overBudget c s.focus.m then .next (s.modCore c fun k => { k with gated := linsert k.gated s.focus.m })
  else .fault .notEnabled

/-- PMBUS_LIMIT (R404): a lower package limit of n amperes, from the next frame boundary on. -/
def execPmbusLimit (s : State) : Out :=
  if s.focus.n < s.lid.limit then .next { s with lid := { s.lid with limitNext := some s.focus.n } } else .fault .notEnabled

/-! ## A clk passes -/

/-- What a clk does at a core: gated cycles (0x0104), compute quota in owned time (R382, R398), idle time (R381). A slot of a tenant that
has been fenced becomes a pool slot (R388). -/
def State.tickCore (s : State) (c : Nat) : State :=
  let q := s.core c
  let s := if q.gated.isEmpty || s.windowEnded c then s else s.countCore c 0x104
  match s.sideNow c, q.donated with
  | some t, false =>
    if (match s.ten? t with | some x => x.fenced | none => false) then s.giveSlot c none
    else
    let s := if s.coreRuns c then s.quotaAdd t 0 (if q.paired then 2 else 1) else s
    match s.ten? t with
    | some x => if x.don = 0 then s else if s.busyOn c t then s.modCore c (fun k => { k with idle := 0 }) else s.modCore c fun k => { k with idle := k.idle + 1 }
    | none => s
  | _, _ => s

/-- A clk passes: the faults and mismatches found in it are taken (R34, R398). The time base counts it once the Lid has started it (R366, R395). -/
def State.tick (s : State) : State :=
  let t := s.edgeCores.foldl State.tickCore ((s.cores.map (·.1)).foldl (fun s c => (s.takeFaults c).takeSplits c) s)
  if s.lid.stage.isSome then { t with cycle := s.cycle + 1 } else t

end Sys2Proof.Machine
end

