-- ==== Sys2Proof/Machine/Lid.lean ====
section
/-!
DEFINITION. Machine/Lid: the mailbox and its commands (R248 to R250, R315, R369 to R371, R375, R387 to R393, R397 to R401).
Where the spec gives a command no layout of its arguments, log entries 17 and 18 say the one used.
-/
namespace Sys2Proof.Machine

/-! ## The mailbox (R391) -/

/-- The first word of a partition's mailbox page. -/
def mbox (p : Nat) : Nat := mailboxPa p / 8
/-- ARGi. -/
def State.arg (s : State) (p i : Nat) : Word := s.word (mbox p + 1 + i)

/-- The command that waits in a partition's mailbox, where the Lid takes one: one at a time, and none while it restarts. -/
def State.lidOpc (s : State) (p : Nat) : Option Nat :=
  if (tget? s.parts p).isSome && s.full (mbox p) && !s.lid.silent && s.lid.stage.isSome && !(s.draining.any fun d => d.2.1 == p) then
    some (s.word (mbox p)).toNat
  else none

/-- What a command answers: the state, STATUS, its detail, results. -/
structure Answer where
  s : State
  status : Nat
  detail : Nat := 0
  res : List Word := []

/-- The results are stored and STATUS is filled. -/
def Answer.finish (a : Answer) (p : Nat) : State :=
  let s := a.res.zipIdx.foldl (fun (s : State) (w : Word × Nat) => s.agentPut (mbox p + 9 + w.2) w.1 0xFF) a.s
  s.fillWord (mbox p + 8) (BitVec.ofNat 64 (a.status + a.detail % 2 ^ 32 * 2 ^ 32))

/-- A mailbox command: partition n's waiting command is one that `mine` takes; CMD is emptied and the command performed. -/
def lidRow (mine : State → Nat → Nat → Bool) (f : State → Nat → Answer) (s : State) : Out :=
  let p := s.focus.n
  match s.lidOpc p with
  | none => .fault .notEnabled
  | some o => if mine s p o then .next ((f (s.emptyWord (mbox p)) p).finish p) else .fault .notEnabled

/-- A command by its OPC (Table 23.4). -/
def opc (o : Nat) : State → Nat → Nat → Bool := fun _ _ x => x == o
/-- A command by its OPC and the value of ARGi. -/
def opcArg (o i v : Nat) : State → Nat → Nat → Bool := fun s p x => x == o && (s.arg p i).toNat == v

/-- An answer that changes nothing. -/
def refuse (s : State) (status : Nat) : Answer := ⟨s, status, 0, []⟩
/-- An answer that the command is done. -/
def doneWith (s : State) : Answer := ⟨s, 0, 0, []⟩

/-- Tenants and cores of a partition. -/
def State.holdsTenant (s : State) (p t : Nat) : Bool := match s.ten? t with | some x => x.part == p | none => false

/-! ## SET (R371, Table 22.2) -/

/-- Whether a physical address lies in a page of a tenant: stack memory that its accesses reach, in a frame of its own domain. -/
def State.ownPage (s : State) (t pa dom : Nat) : Bool := isStack pa && dom == t && s.verdict t pa dom = .ok

/-- Whether an area of a tenant's address space lies wholly in its pages (R371). -/
def State.areaOk (s : State) (t : Nat) (va : Word) (bytes : Nat) : Bool :=
  bytes = 0 || (va.toNat + bytes ≤ 2 ^ 64 && (List.range ((va.toNat + bytes - 1) / 65536 - va.toNat / 65536 + 1)).all fun i =>
    match s.place t (BitVec.ofNat 64 ((va.toNat / 65536 + i) * 65536)) .both with
    | some (pa, dom) => s.ownPage t pa dom
    | none => false)

/-- Whether a page-table root may stand at a physical address: aligned to its 64 KiB, in a frame of the partition's channels that the tenant,
the supervisor tenant or the system owns, and that is not erased (R189, R371; whose frames tables may stand in is DESIGN CHOICE, log entry
17). -/
def State.rootOk (s : State) (p t : Nat) (pa : Word) : Bool :=
  let f := tget s.frames (pa.toNat / 65536) (0, false)
  pa.toNat % 65536 == 0 && isStack pa.toNat && s.tagOk p pa.toNat && (f.1 == t || f.1 == s.svten p || f.1 == 0) && !f.2

/-- Cores of a partition. -/
def State.ncores (s : State) (p : Nat) : Nat := match tget? s.parts p with | some x => x.cores.length | none => 0

/-- The channel of a partition's logical slice pair; 512 for none. -/
def State.pairChan (s : State) (p pair : Nat) : Nat :=
  match (tget? s.parts p).bind fun x => x.slices[2 * pair]? with | some sl => sl / 256 * 128 + sl % 256 / 2 | none => 512

/-- Whether a tenant holds a slice pair: frames on its channel, or arena (R382). -/
def State.holdsPair (s : State) (t pair : Nat) : Bool :=
  match s.ten? t with
  | none => false
  | some x =>
    let ch := s.pairChan x.part pair
    0 < (tget x.arena pair {}).lines || s.frames.any fun f => f.2.1 == t && t != 0 && f.1 * 65536 / 0x80000000 == ch

/-- Whether pages from a physical address on can be a tenant's arena on a pair: frames of the tenant's own on the pair's channel that no
other arena holds (R197, R202). -/
def State.arenaOk (s : State) (p t pair : Nat) (pa : Word) (n : Nat) : Bool :=
  let f := pa.toNat / 65536
  pa.toNat % 65536 == 0 && (List.range n).all fun i => isStack (65536 * (f + i)) && 65536 * (f + i) / 0x80000000 == s.pairChan p pair &&
    tget s.frames (f + i) (0, false) == (t, false) &&
    !s.tenants.any fun x => x.2.arena.any fun a => !(x.1 == t && a.1 == pair) && a.2.first ≤ 512 * (f + i) && 512 * (f + i) < a.2.first + a.2.lines

/-- STATUS that a setting gets: 0, or 1 for a bad value. Arena pages are the tenant's frames, so the quotas of pages and pairs count them as
such (R202, R382). -/
def State.settingStatus (s : State) (p t row : Nat) (v : Nat → Word) : Nat :=
  let n := s.ncores p
  let al (x : Word) (k : Nat) : Bool := x.toNat % k == 0
  let sv := s.svten p
  let ok (b : Bool) : Nat := if b then 0 else 1
  let x := (s.ten? t).getD { part := p }
  match row with
  | 0 => ok (al (v 1) 65536 && (v 0 == 0 && v 1 == 0 || s.areaOk sv (v 1) (512 * 16 * n)))
  | 1 => ok ((v 0).toNat ≤ 1)
  | 2 => ok ((v 0).toNat ≤ 1)
  | 3 => ok (s.rootOk p t (v 0))
  | 4 => ok (al (v 0) 0x200000 && s.areaOk t (v 0) 0x200000)
  | 5 => ok (al (v 0) 4096 && al (v 1) 64 && s.areaOk t (v 0) 57344 && s.areaOk t (v 1) (64 * n))
  | 6 => ok (al (v 0) 32768 && s.areaOk t (v 0) (32768 * n))
  | 7 => ok ((v 0).toNat ≤ 64 && al (v 1) 8 && s.areaOk t (v 1) (256 * (v 0).toNat * n))
  | 8 => ok ((v 0).toNat ≤ 256 && al (v 1) 8 && s.areaOk t (v 1) (768 * (v 0).toNat * n))
  | 9 => ok ((v 0).toNat ≤ 7 && al (v 1) 64 && 4 ≤ (v 2).toNat && (v 2).toNat ≤ 16 && s.areaOk t (v 1) (64 * 2 ^ (v 2).toNat))
  | 10 =>
    let old := tget x.arena (v 0).toNat {}
    ok (2 * (v 0).toNat < s.nslices p && s.arenaOk p t (v 0).toNat (v 2) (v 1).toNat &&
      old.used.all fun n => (v 2).toNat / 128 ≤ n && n < (v 2).toNat / 128 + (v 1).toNat * 512)
  | 11 => ok ((v 0).toNat ≤ 2 && ((v 0).toNat < 2 || s.holdsTenant p (v 1).toNat))
  | 12 => ok ((v 0).toNat ≤ 8)
  | _ => 1

/-- The default descriptor of queue q (R315). -/
def defaultDesc (base : Word) (q : Nat) : List Word :=
  [base + BitVec.ofNat 64 (8192 + 1024 * q), 0x107, 0, 0, base + BitVec.ofNat 64 (3072 + 64 * q), 0, 0, 0]

/-- What the Lid does when it accepts a setting: it clears the buffers of a message-buffer base, by strong accesses (R266), and writes the
descriptors of an engine-queue base (R315). -/
def State.acceptSetting (s : State) (t row : Nat) (v : Nat → Word) : State :=
  match row with
  | 4 => (List.range 2048).foldl (fun s i => match s.place t (v 0 + BitVec.ofNat 64 (1024 * i)) .both with
      | some (pa, dom) => s.strongIn t dom (pa / 8) 0
      | none => s) s
  | 5 => (List.range 48).foldl (fun s q =>
      let va := v 0 + BitVec.ofNat 64 (64 * q)
      let s := (s.writeVa t va (defaultDesc (v 0) q)).getD s
      match s.place t (va + 16) .both with
      | some (pa, dom) => s.letIn t dom (pa / 8) 8 fun s => s.fillPlain (pa / 8) 0
      | none => s) s
  | _ => s

/-- SET (R371): OPC 1, and any OPC that Table 23.4 does not list, which gets STATUS 4. -/
def execSet (s : State) : Out :=
  let listed : Bool := s.word (mbox s.focus.n) == 1
  lidRow (fun _ _ o => o == 1 || o == 0 || 17 < o) (fun s p =>
    if !listed then refuse s 4
    else
      let row := (s.arg p 0).toNat
      let t := if row ≤ 1 then s.svten p else (s.arg p 1).toNat
      let v (i : Nat) : Word := s.arg p (2 + i)
      if !s.holdsTenant p t then refuse s 1
      else match s.settingStatus p t row v with
        | 0 =>
          let u := s.acceptSetting t row v
          doneWith { u with lid := { u.lid with sets := u.lid.sets ++ [(p, t, row, [v 0, v 1, v 2])] } }
        | n => refuse s n) s

/-! ## REMAP (R370, Table 22.1) -/

/-- Whether a physical core, slice or vault belongs to no partition. -/
def State.coreIdle (s : State) (c : Nat) : Bool :=
  c < 4096 && !(s.parts.any fun p => p.2.cores.contains c) && (s.core c).slots.all fun k => k.2.ctx.isNone
def State.sliceIdle (s : State) (sl : Nat) : Bool := sl < 1024 && !s.parts.any fun p => p.2.slices.contains sl
def State.vaultIdle (s : State) (v : Nat) : Bool := v < 1024 && !s.parts.any fun p => p.2.vaults.contains v

/-- The channel that a frame lies on. -/
def frameChan (f : Nat) : Nat := f * 65536 / 0x80000000

/-- Whether no frame of a channel is assigned, but for those that `but` picks: none has an owner, and the log ring lies elsewhere. -/
def State.channelFree (s : State) (ch : Nat) (but : Nat → Bool) : Bool :=
  (s.frames.all fun f => frameChan f.1 != ch || f.2.1 == 0 || but f.1) &&
    match s.lid.ring with | some (base, _) => base / 0x80000000 != ch | none => true

/-- The channel of a slice. -/
def sliceChan (sl : Nat) : Nat := sl / 256 * 128 + sl % 256 / 2

/-- A remap request, accepted for the next slot edge: `ok` is its precondition on the partition, logical and physical
numbers. -/
def remapRow (table : Nat) (len : Part → Nat) (ok : State → Nat → Part → Nat → Nat → Bool) (perform : State → Out) (s : State) : Out :=
  if s.focus.m = 1 then perform s
  else lidRow (fun s p o => o == 2 && ((s.arg p 0).toNat == table || (table == 0 && 2 < (s.arg p 0).toNat))) (fun s p =>
    let l := (s.arg p 1).toNat
    let ph := (s.arg p 2).toNat
    match tget? s.parts p with
    | none => refuse s 1
    | some x =>
      if (s.arg p 0).toNat != table || len x ≤ l then refuse s 1
      else if !ok s p x l ph then refuse s 3
      else doneWith { s with lid := { s.lid with remaps := s.lid.remaps ++ [(p, table, l, ph)] } }) s

/-- The accepted remap of index n, of a table, at the slot edge of this clk; the state is without it. -/
def State.dueRemap (s : State) (table : Nat) : Option (State × Nat × Nat × Nat) :=
  match s.lid.remaps[s.focus.n]? with
  | some (p, t, l, ph) =>
    if t = table && s.lid.edgeAt == some s.cycle then some ({ s with lid := { s.lid with remaps := removeAt s.lid.remaps s.focus.n } }, p, l, ph) else none
  | none => none

/-- Sends packets to a remapped resource back to their senders for REMAP_REISSUE: `f` gives the packet its new address,
where it went to the old one. -/
def State.readdress (s : State) (f : Pkt → Option Pkt) : State :=
  { s with reqs := s.reqs.map fun r => match f r.pkt with | some p => { r with pkt := p, nacked := true, at_ := s.cycle + Config.resendClk } | none => r }

/-- A packet to a core's new place. -/
def Pkt.moveCore (old new : Nat) : Pkt → Option Pkt
  | .migr core id a k => if core = old then some (.migr new id a k) else none
  | .spawn row core e gs y l w => if core = old then some (.spawn row new e gs y l w) else none
  | _ => none

/-- The sender of a migration message that waits at a core's new place. -/
def Pkt.moveSender (old new : Nat) : Pkt → Pkt
  | .migr core id a k => .migr core id (if a = old then new else a) k
  | p => p

/-- Whether a core can be moved at an edge: no block past its point of no return, nothing in its store queue or slice, no thread that
settles or ends. Where it cannot, the remap waits for the next edge (DESIGN CHOICE, log entry 18). -/
def Core.movable (k : Core) : Bool :=
  k.sq.isEmpty && k.mxq.isEmpty && k.slots.all fun x =>
    (match x.2.blk with | some b => !b.ponr | none => true) && x.2.lbuf.isNone &&
      (match x.2.ctx with | some y => (match y.hold with | .settle _ _ => false | .ending => false | _ => true) | none => true)

/-- A context as it is displaced from a slot; a first-use trap comes again when its block runs. -/
def Ctx.shelved (y : Ctx) (clk : Nat) : Ctx :=
  let run : Ctx := if y.mwait then { y with rdy := false } else { y with hold := .run, rdy := true, clk := clk }
  match y.hold with
  | .run => run
  | .firstUse _ _ => run
  | .requeued => { y with hold := .run, rdy := true }
  | _ => { y with rdy := false }

/-- The contexts of a core as they are moved, in their order of R254: those that wait by the clk in which they became ready, those of
the slots behind them. -/
def Core.moved (k : Core) (clk : Nat) : List Ctx :=
  (sortByNo ((k.cache ++ k.arrivals ++ k.slots.filterMap fun x => x.2.ctx.map fun y => y.shelved clk).map fun y => (y.clk, y))).map (·.2)

/-- Each tile of a core goes to its owner's save area with SAVED set (R339, R340). -/
def State.spillTiles (s : State) (c : Nat) : State :=
  (List.range 4).foldl (fun s tt =>
    let acc := (s.core c).accown
    let u := accTen acc tt
    let x := s.tile c tt
    if accValid acc tt then
      ((s.writeVa u (s.tileVa c u tt) x.words).bind fun s => s.writeVa u (s.tstatVa c u tt) [x.stat ||| (1 <<< 58)]).getD s
    else s) s

/-- The remap of a core at the edge; none where a context has no place in its tenant's share and save area at the new core: the remap
then waits for the next edge (DESIGN CHOICE, log entry 18). -/
def State.moveCore (s : State) (p l new : Nat) : Option State :=
  match (tget? s.parts p).bind fun x => x.cores[l]? with
  | none => none
  | some old =>
    if !(s.core old).movable || !s.coreIdle new then none
    else
      let s := (List.range 16).foldl (fun s k => s.discard old k) s
      let s := s.spillTiles old
      let q := s.core old
      let s := s.modPart p fun x => { x with cores := x.cores.set l new }
      let s := (s.setCore new { tag := p, logical := l, saved := q.saved }).setCore old {}
      (q.moved s.cycle).foldl (fun (r : Option State) y => r.bind fun s => s.cachePut new y) (some s) |>.map fun s =>
        let s := { s with reqs := s.reqs.map fun (r : Req) => match r.pkt with
          | .inv c line upd => if c = old then { r with pkt := .ack line (if upd.isSome then 8 else 7) } else r
          | p => { r with pkt := p.moveSender old new } }
        s.readdress (Pkt.moveCore old new)

/-- REMAP_CORE (R370): accepts a request of partition n; with m = 1, performs the accepted remap n at the slot edge. -/
def execRemapCore (s : State) : Out :=
  remapRow 0 (fun x => x.cores.length) (fun s _ _ _ ph => s.coreIdle ph) (fun s =>
    match s.dueRemap 0 with
    | some (s, p, l, ph) => match s.moveCore p l ph with
      | some s => .next s
      | none => .fault .notEnabled
    | none => .fault .notEnabled) s

/-- A word number of a vault at the same place in another. -/
def moveWord (old new w : Nat) : Nat :=
  let lo := 0x10000000000 + old * 0x100000
  if lo ≤ 8 * w && 8 * w < lo + 0x100000 then w - lo / 8 + (0x10000000000 + new * 0x100000) / 8 else w

/-- A request to a vault's new place. -/
def Pkt.moveVault (old new : Nat) : Pkt → Option Pkt
  | .store c q w r t => if moveWord old new w.word = w.word then none else some (.store c q { w with word := moveWord old new w.word } r t)
  | .fe q => if moveWord old new q.word = q.word then none else some (.fe { q with word := moveWord old new q.word })
  | .amo r w hi d b who h va dom => if moveWord old new w = w then none else some (.amo r (moveWord old new w) hi d b who h va dom)
  | .cas r w hi b c who h va dom => if moveWord old new w = w then none else some (.cas r (moveWord old new w) hi b c who h va dom)
  | _ => none

/-! What the interfaces hold of a vault's words follows to the new vault (R184, R370): stores that have not left, words that loads
wait for, completion words. -/

/-- A physical address whose word is moved by f. -/
def movedPa (f : Nat → Nat) (pa : Nat) : Nat := 8 * f (pa / 8) + pa % 8

/-- A write. -/
def Wr.mapWord (f : Nat → Nat) (w : Wr) : Wr := { w with word := f w.word }

/-- A launch request. -/
def LaunchReq.mapWord (f : Nat → Nat) (r : LaunchReq) : LaunchReq := { r with recPa := movedPa f r.recPa, cntPa := r.cntPa.map (movedPa f) }

/-- A store queue entry. -/
def SqKind.mapWord (f : Nat → Nat) : SqKind → SqKind
  | .st w => .st (w.mapWord f)
  | .rel w sc => .rel (w.mapWord f) sc
  | .launch r => .launch (r.mapWord f)
  | .ecfg e v r img cwa => .ecfg e v r img (movedPa f cwa.1, cwa.2)
  | .ecancel e v cwa => .ecancel e v (movedPa f cwa.1, cwa.2)
  | k => k

/-- A commit action. -/
def Act.mapWord (f : Nat → Nat) : Act → Act
  | .push x ws k => .push x (ws.map (Wr.mapWord f)) k
  | .launch pa va cnt q d e => .launch (movedPa f pa) va (cnt.map (movedPa f)) q d e
  | .ecfg e v r img cwa => .ecfg e v r img (movedPa f cwa.1, cwa.2)
  | .ecancel e v cwa => .ecancel e v (movedPa f cwa.1, cwa.2)
  | .ptload i ws => .ptload i (ws.map f)
  | .eretFill w dom => .eretFill (f w) dom
  | a => a

/-- An instruction of a run; a waiting mst keeps physical addresses and command numbers. -/
def Entry.mapWord (f : Nat → Nat) (e : Entry) : Entry :=
  if e.insn.row = .mst || e.insn.row = .mstBf then { e with words := e.words.map fun w => (movedPa f w.1, w.2) }
  else { e with words := e.words.map (fun w => (f w.1, w.2)), want := e.want.map f, own := e.own.map (Wr.mapWord f) }

/-- A run. -/
def Block.mapWord (f : Nat → Nat) (b : Block) : Block :=
  { b with body := b.body.map (Entry.mapWord f), stores := b.stores.map (fun x => (x.1, x.2.1, x.2.2.map (Wr.mapWord f))),
           acts := b.acts.map fun a => (a.1, a.2.mapWord f) }

/-- A context: the record it waits on, and what it settles. -/
def Ctx.mapWord (f : Nat → Nat) (y : Ctx) : Ctx :=
  { y with recPa := y.recPa.map (movedPa f), hold := match y.hold with | .settle as b => .settle (as.map (Act.mapWord f)) b | h => h }

/-- A core. -/
def Core.mapWord (f : Nat → Nat) (k : Core) : Core :=
  { k with sq := k.sq.map (fun e => { e with kind := e.kind.mapWord f }),
           slots := k.slots.map (fun x => (x.1, { x.2 with ctx := x.2.ctx.map (Ctx.mapWord f), blk := x.2.blk.map (Block.mapWord f), lbuf := x.2.lbuf.map (LaunchReq.mapWord f) })),
           arrivals := k.arrivals.map (Ctx.mapWord f), cache := k.cache.map (Ctx.mapWord f), saved := k.saved.map (fun r => (r.1, r.2.1, r.2.2.mapWord f)),
           mxq := k.mxq.map (fun m => { m with prior := m.prior.map (Wr.mapWord f) }) }

/-- What is in flight and names words without going to them. -/
def Pkt.mapWord (f : Nat → Nat) : Pkt → Pkt
  | .reply c k rid i (.words ws) l n => .reply c k rid i (.words (ws.map fun w => (f w.1, w.2))) l n
  | .launch c k r => .launch c k (r.mapWord f)
  | .ego e v pas va t fm sc rm tg w => .ego e v (pas.map (movedPa f)) va t fm sc rm tg w
  | .ecfg c q t e v r img cwa => .ecfg c q t e v r img (movedPa f cwa.1, cwa.2)
  | .ecancel c q t e v cwa => .ecancel c q t e v (movedPa f cwa.1, cwa.2)
  | .ptload c k p i ws => .ptload c k p i (ws.map f)
  | p => p

/-- The package's interfaces, dispatchers and engines. -/
def State.mapWord (f : Nat → Nat) (s : State) : State :=
  { s with
    cores := s.cores.map fun c => (c.1, c.2.mapWord f)
    reqs := s.reqs.map fun r => { r with pkt := r.pkt.mapWord f }
    releases := s.releases.map fun r => (f r.1, r.2)
    launches := s.launches.map fun l => (l.1, { l.2 with crecPa := l.2.crecPa.map (movedPa f), deps := l.2.deps.map f, cntWord := l.2.cntWord.map f })
    engines := s.engines.map fun e => (e.1, { e.2 with
      vqs := e.2.vqs.map fun (q : Nat × VQ) => (q.1, { q.2 with cancel := q.2.cancel.map fun x => (f x.1, x.2) })
      shadows := e.2.shadows.map fun (x : Nat × EngCmd) => (x.1, { x.2 with cwa := f x.2.cwa }) }) }

/-- An event at a line's table: the words it names, and what it wrote. -/
def PEv.mapWord (f : Nat → Nat) (e : PEv) : PEv :=
  { e with words := e.words.map f, line := f (16 * e.line) / 16, wrs := e.wrs.map (Wr.mapWord f) }

/-- The remap of a vault at the edge: its bytes, full/empty bits and wait lists move, the old vault is scrubbed, and what the
interfaces hold for it goes to the new one. -/
def State.moveVault (s : State) (p l new : Nat) : Option State :=
  match (tget? s.parts p).bind fun x => x.vaults[l]? with
  | none => none
  | some old =>
    if !s.vaultIdle new then none
    else
      let lo := 0x10000000000 + old * 0x100000
      let s := s.scrubVault new
      let cells := s.mem.filter fun x => lo ≤ x.1 && x.1 < lo + 0x100000
      let bits := s.feFlip.filter fun w => moveWord old new w != w
      let s := cells.foldl (fun (s : State) (x : Nat × Byte) => { s with mem := memPut s.mem (x.1 - lo + (0x10000000000 + new * 0x100000)) x.2 }) s
      let s := bits.foldl (fun (s : State) w => s.setFull (moveWord old new w) false) s
      let s := { s with
        waits := s.waits.map fun (x : Wait) => { x with word := moveWord old new x.word, q := { x.q with word := moveWord old new x.q.word } },
        peq := s.peq.map (PEv.mapWord (moveWord old new))
        widen := s.widen.map fun (x : PEv × Nat × List Nat) => (x.1.mapWord (moveWord old new), x.2) }
      let s := ((s.scrubVault old).mapWord (moveWord old new)).modPart p fun x => { x with vaults := x.vaults.set l new }
      some (s.readdress (Pkt.moveVault old new))

/-- REMAP_VAULT (R370). -/
def execRemapVault (s : State) : Out :=
  remapRow 2 (fun x => x.vaults.length) (fun s _ _ _ ph => s.vaultIdle ph) (fun s =>
    match s.dueRemap 2 with
    | some (s, p, l, ph) => match s.moveVault p l ph with
      | some s => .next s
      | none => .fault .notEnabled
    | none => .fault .notEnabled) s

/-- Whether a frame is in the map arena of a tenant of a partition on a pair. -/
def State.inArena (s : State) (p pair f : Nat) : Bool :=
  s.tenants.any fun t => t.2.part == p && (let a := tget t.2.arena pair {}; a.first ≤ 512 * f && 512 * f < a.first + a.lines)

/-- Whether a slice pair can be replaced: nothing of the partition is left on its channel but its map arenas, whose bucket homes the Lid moves
itself (R370; DESIGN CHOICE, log entry 18), and the new pair is idle, with nothing on its channel. -/
def State.pairMovable (s : State) (p : Nat) (x : Part) (l ph : Nat) : Bool :=
  s.channelFree (sliceChan ((x.slices[l]?).getD 0)) (s.inArena p (l / 2)) && s.sliceIdle (ph / 2 * 2) && s.sliceIdle (ph / 2 * 2 + 1) &&
    s.channelFree (sliceChan (ph / 2 * 2)) fun _ => false

/-- A bucket line at its new place. -/
def BLine.move (f : Nat → Nat) (b : BLine) : BLine := { b with at_ := f b.at_ }
/-- A map's lines at their new place. -/
def MapObj.move (f : Nat → Nat) (m : MapObj) : MapObj :=
  { m with buckets := m.buckets.map fun (b : Nat × Bucket) => (b.1, { b.2 with chain := b.2.chain.map (BLine.move f) }) }
/-- A tenant's arena on a pair, and its maps' lines, at their new place. -/
def Tenant.moveArena (pair : Nat) (f : Nat → Nat) (t : Tenant) : Tenant :=
  { t with arena := t.arena.map (fun (a : Nat × Arena) => if a.1 = pair then (a.1, { a.2 with first := f a.2.first, used := a.2.used.map f }) else a),
           maps := t.maps.map fun (m : Nat × MapObj) => (m.1, m.2.move f) }

/-- The map arenas of a partition on a pair go to the same places of another channel: bytes, full/empty and dirty bits, frames. -/
def State.moveArenas (s : State) (p pair old new : Nat) : State :=
  let there (a : Nat) : Nat := new * 0x80000000 + a % 0x80000000
  let mine (a : Nat) : Bool := a / 0x80000000 == old && s.inArena p pair (a / 65536)
  let keep (a : Nat) : Bool := !mine a && !(a / 0x80000000 == new && s.inArena p pair ((old * 0x80000000 + a % 0x80000000) / 65536))
  let line (l : Nat) : Nat := if mine (128 * l) then there (128 * l) / 128 else l
  let cells := s.mem.filter fun x => mine x.1
  let t := { s with
    mem := s.mem.filter fun x => keep x.1
    feFlip := s.feFlip.filter fun w => keep (8 * w)
    dirty := s.dirty.filter fun f => keep (65536 * f)
    frames := s.frames.filter fun f => keep (65536 * f.1)
    tenants := s.tenants.map fun (x : Nat × Tenant) => if x.2.part = p then (x.1, x.2.moveArena pair line) else x }
  let t := cells.foldl (fun (t : State) x => { t with mem := memPut t.mem (there x.1) x.2 }) t
  let t := (s.feFlip.filter fun w => mine (8 * w)).foldl (fun (t : State) w => t.setFull (there (8 * w) / 8) false) t
  let t := (s.dirty.filter fun f => mine (65536 * f)).foldl (fun (t : State) f => { t with dirty := linsert t.dirty (there (65536 * f) / 65536) }) t
  (s.frames.filter fun f => mine (65536 * f.1)).foldl (fun (t : State) f => { t with frames := tset t.frames (there (65536 * f.1) / 65536) f.2 }) t

/-- REMAP_SLICE (R370): both slices of a pair. The map, set and walker state of the model stands under logical numbers; map arenas move. -/
def execRemapSlice (s : State) : Out :=
  remapRow 1 (fun x => x.slices.length) (fun s p x l ph => s.pairMovable p x l ph) (fun s =>
    match s.dueRemap 1 with
    | some (s, p, l, ph) => match tget? s.parts p with
      | some x =>
        if !s.pairMovable p x l ph then .fault .notEnabled
        else
          let l0 := l / 2 * 2
          let olds := [(x.slices[l0]?).getD 0, (x.slices[l0 + 1]?).getD 0]
          let s := (s.dropLines olds).moveArenas p (l / 2) (sliceChan (olds.headD 0)) (sliceChan (ph / 2 * 2))
          .next (s.modPart p fun x => { x with slices := (x.slices.set l0 (ph / 2 * 2)).set (l0 + 1) (ph / 2 * 2 + 1) })
      | none => .fault .notEnabled
    | none => .fault .notEnabled) s

/-- REMAP_REISSUE (R370): a request that a remap sent back goes to its new entry. -/
def execRemapReissue (s : State) : Out :=
  s.resend s.focus.n fun p => match p with
    | .store _ _ _ _ _ => true
    | .fe _ => true
    | .amo _ _ _ _ _ _ _ _ _ => true
    | .cas _ _ _ _ _ _ _ _ _ => true
    | .migr _ _ _ _ => true
    | .spawn _ _ _ _ _ _ _ => true
    | _ => false

/-! ## RANGE (R248, R249) -/

/-- KIND of a table of a partition; none where it is not loaded. -/
def State.tableKind (s : State) (p idx : Nat) : Option Nat :=
  if idx < 6 then some (if idx = 5 then 1 else 0) else (s.imageOf p idx).map (·.kind)

/-- The slices of a range's memory, where it lies within the stack memory of one channel. One that spans two channels, over the unbacked gap,
and one of vault memory, whose words behave as NC whatever a table says (R184), get no slices, and are refused (DESIGN CHOICE, log entry
17: R248 lists no such case, nor what such an entry would do). -/
def rangeSlices (r : Range) : List Nat :=
  let lo := r.start * 65536
  let hi := lo + r.size * 65536 - 1
  if isStack lo && isStack hi && lo / 0x80000000 == hi / 0x80000000 then [homeOf lo, homeOf (lo + 128)] else []

/-- Dies of a partition that have, for each slice of a range, the slice of its number. -/
def Part.rangeDies (x : Part) (r : Range) : List Nat :=
  (List.range 4).filter fun d => (rangeSlices r).all fun sl => x.slices.contains (d * 256 + sl % 256)

/-- STATUS of a range request of a partition with words v (R72, R248), its entry number and the entry. Its start is a physical address; the
request is one for REPL where it names the REPL table or dies, and one for the REPL table that names no dies, as a .range entry
cannot, takes every die that has the slices; one whose DIES lacks the primary's die, which Table 13.4 has DIES include, gets STATUS 3; a request of size 0 for the start of an entry removes it, and one that finds all 256 entries in
use gets STATUS 3 (DESIGN CHOICE, log entry 17). -/
def State.rangeRequest (s : State) (p : Nat) (v : Nat → Word) : Nat × Nat × Range :=
  let start := (v 0).toNat / 65536
  let size := (v 1).toNat / 65536
  let proto := (v 2).toNat
  let dies := (v 3).toNat % 16
  match tget? s.parts p with
  | none => (1, 0, ⟨0, 0, 0, 0, 0, false, 0⟩)
  | some x =>
    let old := s.ranges.find? fun r => r.2.part == p && r.2.start == start
    let id := match old with | some r => some r.1 | none => (List.range 256).find? fun n => (tget? s.ranges n).isNone && !s.draining.any fun d => d.1 == n
    let base : Range := ⟨start, size, p, 0, proto % 8, (v 3).getLsbD 4, 0⟩
    let has := x.rangeDies base
    let kind := s.tableKind p proto
    let mask := if proto = 5 && dies = 0 then has.foldl (fun m d => m + 2 ^ d) 0 else dies
    let r := { base with dies := mask }
    let bad := (v 0).toNat % 65536 != 0 || (v 1).toNat % 65536 != 0 || 7 < proto || 31 < (v 3).toNat || (size == 0 && old.isNone)
    let overlaps := (s.ranges.any fun q => some q.1 != id && q.2.start < start + size && start < q.2.start + q.2.size) ||
      s.draining.any fun d => d.2.2.1.start < start + size && start < d.2.2.1.start + d.2.2.1.size
    let mine := !(rangeSlices r).isEmpty && (rangeSlices r).all x.slices.contains
    let repl := if kind = some 1 then (proto == 5 || dies != 0) && ((List.range 4).all fun d => !mask.testBit d || has.contains d) && mask.testBit (start * 65536 / 0x80000000 / 128) else dies == 0
    match id with
    | none => (3, 0, r)
    | some n =>
      if bad then (1, n, r)
      else if size = 0 then (0, n, r)
      else if overlaps || !mine || kind.isNone || !repl then (3, n, r)
      else (0, n, r)

/-- A range entry starts to change (R249): its range is marked draining, and each line of it in a directory, and each replica, sees EVICT
before what waits for it. -/
def State.drainRange (s : State) (n p : Nat) (r : Range) (mailbox : Bool) : State :=
  let s := { s with draining := s.draining ++ [(n, p, r, mailbox)] }
  { s with peq := ((s.dirs.filter fun d => s.isDraining d.line).map fun d => ownEv 4 d.line) ++ s.peq,
           replicas := s.replicas.filter fun x => !s.isDraining (x.1 / 4) }

/-- RANGE (R248, R249): accepts partition n's request and marks its range draining; once every line of the range has left
its directory, writes the entry, releases the range and answers. -/
def execRange (s : State) : Out :=
  let p := s.focus.n
  match s.draining.find? fun d => d.2.1 == p with
  | some d =>
    if s.dirs.any fun x => d.2.2.1.covers x.line || (match tget? s.ranges d.1 with | some r => r.covers x.line | none => false) then .fault .notEnabled
    else
      let s := { s with draining := s.draining.filter (fun x => x.1 != d.1),
                        ranges := if d.2.2.1.size = 0 then tdel s.ranges d.1 else tset s.ranges d.1 d.2.2.1 }
      .next (if d.2.2.2 then (doneWith s).finish p else s)
  | none =>
    if s.lidOpc p != some 3 then .fault .notEnabled
    else
      let r := s.rangeRequest p (s.arg p)
      let s := s.emptyWord (mbox p)
      if r.1 = 0 then .next (s.drainRange r.2.1 p r.2.2 true) else .next ((refuse s r.1).finish p)

/-! ## Signed objects: WEAVE, POLICY, UNFENCE; ATTEST (R375, R387, R388) -/

/-- The bytes of a signed object of n words at a virtual address of a partition's supervisor tenant, and of the signature that stands after
it (log entry 17). -/
def State.objectAt (s : State) (p : Nat) (va : Word) (n : Nat) : Option (State × List Byte × List Byte) :=
  (s.readVa (s.svten p) va (n + 579)).map fun r =>
    let bs := r.2.flatMap wordBytes
    (r.1, bs.take (8 * n), (bs.drop (8 * n)).take 4627)

/-- Whether an object is signed with the operator key of the policy in force (R387). -/
def State.operatorSigned (s : State) (bs sig : List Byte) : Bool := Config.sigOk s.lid.opkey (sha3 bs) sig

/-- The entries of a table of bytes that are not 0. -/
def byteTab (bs : List Byte) : Tab Nat := (bs.zipIdx.filter fun b => b.1 != 0).map fun b => (b.2, b.1.toNat)

/-- A pattern byte is legal (Table 22.3). -/
def patOk (b : Byte) : Bool := b.extractLsb' 5 2 == 0 && (b.getLsbD 7 || b == 0)

/-- A pattern set from its bytes: 256 patterns of 64 bytes, then pattern numbers, a byte each, of 4,096 cores, 4,096 way
groups, 512 channels, 12 Rim ports and 2 Handle links (R1; log entry 17). -/
def weaveOf (bs : List Byte) : Weave :=
  let part (at_ n : Nat) : List Byte := (bs.drop at_).take n
  { pats := ((List.range 256).map fun p => (p, part (64 * p) 64)).filter fun x => x.2.any (· != 0)
    core := byteTab (part 16384 4096), group := byteTab (part 20480 4096), chan := byteTab (part 24576 512)
    port := byteTab (part 25088 12), link := byteTab (part 25100 2) }

/-- The bytes of a table of pattern numbers. -/
def tabBytes (t : Tab Nat) (n : Nat) : List Byte := (List.range n).map fun i => BitVec.ofNat 8 (tget t i 0)

/-- A pattern set as its bytes. -/
def Weave.bytes (w : Weave) : List Byte :=
  (List.range 256).flatMap (fun p => let b := tget w.pats p []; b ++ List.replicate (64 - b.length) 0) ++
    tabBytes w.core 4096 ++ tabBytes w.group 4096 ++ tabBytes w.chan 512 ++ tabBytes w.port 12 ++ tabBytes w.link 2

/-- WEAVE (R375). -/
def execWeave (s : State) : Out :=
  lidRow (opc 4) (fun s p =>
    match s.objectAt p (s.arg p 0) 3138 with
    | none => refuse s 1
    | some (s, bs, sig) =>
      if !s.operatorSigned bs sig then refuse s 2
      else if !(bs.take 16384).all patOk then refuse s 1
      else doneWith { s with lid := { s.lid with weaveNext := some (weaveOf bs) } }) s

/-- POLICY (R387): a level of 1 to 4 for each of the seven alarm inputs, then the operator key. -/
def execPolicy (s : State) : Out :=
  lidRow (opc 5) (fun s p =>
    match s.objectAt p (s.arg p 0) 2 with
    | none => refuse s 1
    | some (s, bs, sig) =>
      let lv := (bs.take 7).map BitVec.toNat
      if !s.operatorSigned bs sig then refuse s 2
      else if !(lv.all fun l => 1 ≤ l && l ≤ 4) then refuse s 1
      else
        let key := numOf (bs.drop 8)
        doneWith ({ s with lid := { s.lid with levels := lv.zipIdx.map fun (l : Nat × Nat) => (l.2, l.1), opkey := key } }.record 0 3 0 [])) s

/-- UNFENCE (R388): a request that names the tenant lifts its level-2 fence; an erased tenant needs a new key first. -/
def execUnfence (s : State) : Out :=
  lidRow (opc 6) (fun s p =>
    let t := (s.arg p 1).toNat
    match s.objectAt p (s.arg p 0) 1, s.ten? t with
    | some (s, bs, sig), some x =>
      if !s.operatorSigned bs sig then refuse s 2
      else if numOf bs != t || x.part != p then refuse s 1
      else if !x.fenced || x.erased then refuse s 3
      else doneWith (s.modTen t fun x => { x with fenced := false })
    | _, _ => refuse s 1) s

/-- The words of a digest. -/
def digestWords (d : BitVec 512) : List Word := (List.range 8).map fun i => d.extractLsb' (64 * i) 64

/-- The alarm policy as its object's bytes: levels, then the operator key (R387). -/
def Lid.policyBytes (l : Lid) : List Byte := ((List.range 7).map fun i => BitVec.ofNat 8 (tget l.levels i 1)) ++ [0] ++ natBytes l.opkey 8

/-- A table image as its words (R246). -/
def Image.words (m : Image) : List Word :=
  BitVec.ofNat 64 (m.decl + m.trans * 65536 + m.init * 2 ^ 32 + m.kind * 2 ^ 40) :: List.replicate 7 0 ++
    (List.range 128).map fun i => m.cells.getD (2 * i + 1) 0 ++ m.cells.getD (2 * i) 0

/-- The tables of a partition (R369): its number, SVTEN, their lengths, and the physical numbers. -/
def Part.words (p : Nat) (x : Part) : List Word :=
  ([p, x.svten, x.cores.length, x.slices.length, x.vaults.length] ++ x.cores ++ x.slices ++ x.vaults).map (BitVec.ofNat 64)

/-- The words of the identity public key: 2,592 bytes, as FIPS 204 has it for ML-DSA-87 (PRESUMED, log entry 6). -/
def identityKey : List Word := (List.range 324).map Config.identityKey

/-- The digest of a firmware image (R387). -/
def Fw.digest (f : Fw) : BitVec 512 := sha3 f.code
/-- Whether a firmware image's signature verifies (R395, R397). -/
def Fw.verifies (f : Fw) : Bool := Config.sigOk Config.vendorKey f.digest f.sig

/-- A firmware image from the bytes of an object: its length, its bytes, its signature (log entry 17); and what stands after it. -/
def fwFrom (bs : List Byte) : Fw × List Byte :=
  let n := numOf (bs.take 8)
  (⟨(bs.drop 8).take n, (bs.drop (8 + n)).take 4627⟩, bs.drop (8 + n + 4627))

/-- What an attestation report holds, in the order of R387 but for the nonce, SEQ, HEAD and the highest level, which come first
(log entry 17); its signature stands after it. -/
def State.reportWords (s : State) (nonce : List Word) : List Word :=
  nonce ++ [BitVec.ofNat 64 s.lid.seq] ++ digestWords s.lid.head ++ [BitVec.ofNat 64 s.lid.highest] ++
    digestWords (s.lid.imgs.getD s.lid.active {}).digest ++ (s.lid.imgs.flatMap fun i => digestWords i.digest) ++ identityKey ++
    packWords 2 s.lid.policyBytes ++ digestWords (sha3 s.lid.policyBytes) ++ digestWords (sha3 s.lid.weave.bytes) ++
    (s.parts.flatMap fun p => p.2.words p.1) ++ s.images.flatMap fun m => BitVec.ofNat 64 m.1 :: digestWords (sha3 (m.2.words.flatMap wordBytes))

/-- An attestation report with its signature. -/
def State.report (s : State) (nonce : List Word) : List Word :=
  let ws := s.reportWords nonce
  ws ++ packWords 579 (signed (ws.flatMap wordBytes))

/-- Whether the Lid serves a request of its management interface, which works from stage 0 on (R395). -/
def State.managed (s : State) : Bool := s.lid.stage.isSome && !s.lid.silent

/-- An answer on the management interface. -/
def State.manage (s : State) (ws : List Word) : State :=
  { s with lid := { s.lid with answers := tset s.lid.answers 4 (some (ws.map fun w => (w, true))) } }

/-- ATTEST (R387): the report, signed; with m = 1, for a nonce that comes over the management interface (R395). -/
def execAttest (s : State) : Out :=
  if s.focus.m = 1 then
    if s.managed then .next (s.manage (s.report (packWords 8 s.focus.bytes))) else .fault .notEnabled
  else lidRow (opc 7) (fun s p =>
    match s.readVa (s.svten p) (s.arg p 0) 8 with
    | none => refuse s 1
    | some (s, nonce) =>
      match s.writeVa (s.svten p) (s.arg p 1) (s.report nonce) with
      | some s => doneWith s
      | none => refuse s 1) s

/-! ## WINDOW (R389, R390, R393) -/

/-- 64 KiB frames that a window takes of the pages quota (R389). -/
def windowFrames (kind : Nat) : Nat := if kind = 0 then 1 else if kind = 1 then 16384 else 0

/-- WINDOW (R389): kind 0 a Handle frame, 1 a Rim window, 2 a host window (link × 32 + number), 3 an inbound entry; tenant
0 takes the window back. -/
def execWindow (s : State) : Out :=
  lidRow (opc 8) (fun s p =>
    let v (i : Nat) : Nat := (s.arg p i).toNat
    let kind := v 0
    let n := v 1
    let t := v 2
    let limit := match kind with | 0 => 2 ^ 22 | 1 => 512 | 2 => 64 | 3 => 4096 | _ => 0
    let old := s.lid.windows.find? fun w => w.kind == kind && w.n == n
    let others := s.lid.windows.filter fun w => !(w.kind == kind && w.n == n)
    let free (s : State) : State := match old with | some w => s.quotaSub w.ten 1 (windowFrames kind) | none => s
    let foreign := match old with | some w => s.partOf w.ten != p | none => false
    if limit ≤ n || 16384 ≤ v 3 || (s.arg p 4) &&& 0x3FFFFFFF != 0 || foreign then refuse s 1
    else if t = 0 then doneWith (free { s with lid := { s.lid with windows := others } })
    else if !s.holdsTenant p t then refuse s 1
    else
      let u := free s
      let full : Bool := match u.ten? t with | some x => decide (x.limit 1 < tget x.counts 1 0 + windowFrames kind) | none => true
      if full then refuse s 3
      else doneWith ({ u with lid := { u.lid with windows := others ++ [({ kind := kind, n := n, ten := t, remote := v 3, base := s.arg p 4 } : Window)] } }.quotaAdd t 1 (windowFrames kind))) s

/-! ## Live service (R397) -/

/-- Whether a partition holds a core or slice pair of a die. -/
def State.dieHeld (s : State) (die : Nat) : Bool :=
  s.parts.any fun p => p.2.cores.any (fun c => coreDie c == die) || p.2.slices.any fun sl => sl / 256 == die

/-- DIEFENCE. -/
def execDiefence (s : State) : Out :=
  lidRow (opc 9) (fun s p =>
    let die := (s.arg p 0).toNat
    if 4 ≤ die then refuse s 1
    else if s.dieHeld die then refuse s 3
    else
      let s := s.resetCores fun c => coreDie c == die
      doneWith { s with lid := { s.lid with fencedDies := linsert s.lid.fencedDies die, joining := lremove s.lid.joining die } }) s

/-- DIEJOIN: retraining starts; BACK_IN_SERVICE ends it. -/
def execDiejoin (s : State) : Out :=
  lidRow (opc 10) (fun s p =>
    let die := (s.arg p 0).toNat
    if 4 ≤ die then refuse s 1
    else if s.dieHeld die || !s.lid.fencedDies.contains die then refuse s 3
    else doneWith { s with lid := { s.lid with joining := linsert s.lid.joining die } }) s

/-- CHANRECAL: BACK_IN_SERVICE ends it. -/
def execChanrecal (s : State) : Out :=
  lidRow (opc 11) (fun s p =>
    let ch := (s.arg p 0).toNat
    if 512 ≤ ch then refuse s 1
    else if !s.channelFree ch fun _ => false then refuse s 3
    else doneWith { s with lid := { s.lid with downChans := linsert s.lid.downChans ch } }) s

/-- A firmware image is written to the inactive slot if its signature verifies; a failure is an alarm (R388). -/
def State.stageFw (s : State) (f : Fw) : Answer :=
  if !f.verifies then refuse (s.alarm 3 s.customers) 2
  else doneWith { s with lid := { s.lid with imgs := s.lid.imgs.set (1 - s.lid.active) f, staged := true } }

/-- The firmware object at a virtual address of a partition's supervisor tenant; none where it does not translate, or is longer than 16 MiB
(DESIGN CHOICE, log entry 17). -/
def State.fwAt (s : State) (p : Nat) (va : Word) : Option (State × Fw) :=
  (s.readVa (s.svten p) va 1).bind fun r =>
    let n := (r.2.headD 0).toNat
    if 0x1000000 < n then none
    else (r.1.readVa (s.svten p) (va + 8) ((n + 4627 + 7) / 8)).map fun q => (q.1, (fwFrom (r.2.flatMap wordBytes ++ q.2.flatMap wordBytes)).1)

/-- FWSTAGE (R397); with m = 1, the object comes over the management interface, which is answered with STATUS (R395). -/
def execFwstage (s : State) : Out :=
  if s.focus.m = 1 then
    if s.managed then
      let a := s.stageFw (fwFrom s.focus.bytes).1
      .next (a.s.manage [BitVec.ofNat 64 a.status])
    else .fault .notEnabled
  else lidRow (opc 12) (fun s p =>
    match s.fwAt p (s.arg p 0) with
    | none => refuse s 1
    | some (s, f) => s.stageFw f) s

/-- FWSWITCH: at the next frame boundary. -/
def execFwswitch (s : State) : Out :=
  lidRow (opc 13) (fun s _ =>
    if !s.lid.staged then refuse s 3 else doneWith { s with lid := { s.lid with switching := some (s.cycle / Config.frameClk + 1) } }) s

/-! ## PAIR and RECT (R398, R399) -/

/-- PAIR. -/
def execPair (s : State) : Out :=
  lidRow (opc 14) (fun s p =>
    match s.physCore p (s.arg p 0).toNat with
    | none => refuse s 1
    | some c =>
      if 1 < (s.arg p 1).toNat then refuse s 1
      else if !(s.core c).paired && (s.core c).slots.any fun k => 8 ≤ k.1 && k.2.ctx.isSome then refuse s 3
      else doneWith (s.modCore c fun k => { k with pairNext := some ((s.arg p 1) == 1) })) s

/-- Quads of a rectangle. -/
def rectQuads (r : Nat × Nat × Nat × Nat × Nat) : List Nat :=
  (List.range 256).filterMap fun n =>
    if r.2.1 ≤ n / 16 && n / 16 < r.2.1 + r.2.2.2.1 && r.2.2.1 ≤ n % 16 && n % 16 < r.2.2.1 + r.2.2.2.2 then some (r.1 * 256 + n) else none

/-- RECT: a rectangle disjoint from the partition's others that holds a quad of the partition. -/
def execRect (s : State) : Out :=
  lidRow (opc 15) (fun s p =>
    let v (i : Nat) : Nat := (s.arg p i).toNat
    let r := (v 0, v 1, v 2, v 3, v 4)
    match tget? s.parts p with
    | none => refuse s 1
    | some x =>
      if 4 ≤ v 0 || 16 < v 1 + v 3 || 16 < v 2 + v 4 || !((rectQuads r).any fun q => (x.quadsOn (v 0)).contains q) ||
          x.rects.any (fun z => z.1 == v 0 && (rectQuads z).any fun q => (rectQuads r).contains q) then refuse s 1
      else doneWith (s.modPart p fun x => { x with rects := x.rects ++ [r] })) s

/-! ## DEBUG and TRACE (R400, R401) -/

/-- A debug action: through the mailbox (ARG0 logical core, ARG1 action, ARG2 on its arguments) or, with focus m = 1,
through the test port on core n with arguments x and y. -/
def debugRow (action : Nat) (f : State → Nat → Word → Word → Answer) (s : State) : Out :=
  if s.focus.m = 1 then
    (if s.focus.n < 4096 then .next (f s s.focus.n s.focus.x s.focus.y).s else .fault .notEnabled)
  else lidRow (fun s p o => o == 16 && ((s.arg p 1).toNat == action || (action == 2 && 5 < (s.arg p 1).toNat))) (fun s p =>
    match s.physCore p (s.arg p 0).toNat with
    | none => refuse s 1
    | some c => if (s.arg p 1).toNat != action then refuse s 1 else f s c (s.arg p 2) (s.arg p 3)) s

/-- DEBUG_SET_BREAKPOINT: at block address x. -/
def execDebugSetBreakpoint (s : State) : Out :=
  debugRow 0 (fun s c x _ =>
    if (s.core c).brks.contains x then doneWith s
    else if 4 ≤ (s.core c).brks.length then refuse s 3 else doneWith (s.modCore c fun k => { k with brks := k.brks ++ [x] })) s

/-- DEBUG_CLEAR_BREAKPOINT. -/
def execDebugClearBreakpoint (s : State) : Out :=
  debugRow 1 (fun s c x _ => doneWith (s.modCore c fun k => { k with brks := k.brks.filter (· != x) })) s

/-- DEBUG_STOP: of tenant x. -/
def execDebugStop (s : State) : Out :=
  debugRow 2 (fun s c x _ => doneWith (s.modCore c fun k => { k with dbgStop := linsert k.dbgStop x.toNat })) s

/-- A context when its tenant resumes from a debug stop; one that was displaced is ready from this clk. -/
def Ctx.resumeDbg (y : Ctx) (t : Nat) (displaced : Option Nat) : Ctx :=
  match y.hold with
  | .paused _ =>
    if y.ten != t then y
    else match displaced with
      | some clk => if y.mwait then { y with hold := .run } else { y with hold := .run, rdy := true, clk := clk }
      | none => { y with hold := .run }
  | _ => y

/-- DEBUG_RESUME: of tenant x, wherever its contexts are held; messages and fills that waited go on. -/
def execDebugResume (s : State) : Out :=
  debugRow 3 (fun s c x _ =>
    let out (y : Ctx) : Ctx := y.resumeDbg x.toNat (some s.cycle)
    doneWith (s.modCore c fun k => { k with
      dbgStop := lremove k.dbgStop x.toNat,
      slots := k.slots.map (fun (z : Nat × Slot) => (z.1, { z.2 with ctx := z.2.ctx.map fun y => y.resumeDbg x.toNat none })),
      cache := k.cache.map out, saved := k.saved.map fun r => (r.1, r.2.1, out r.2.2) })) s

/-- A register of a context by its debug number: 0 to 15 g0 to g15, 16 + 8r + j word j of wr, 80 pc, 81 sr.stat, 82 sr.fpm,
83 sr.stklim, 84 sr.fmt, 85 sr.scale, 86 sr.lfsr, 87 sr.s6cfg, 88 sr.s7cfg, 89 sr.ctxtag, 90 sr.trapcause, 91 sr.trapaddr, 92 sr.trapval
(log entry 18). -/
def Ctx.debugGet (y : Ctx) (r : Nat) : Option Word :=
  if r < 16 then some (y.greg (BitVec.ofNat 4 r))
  else if r < 80 then some ((vecWords (y.vreg (BitVec.ofNat 3 ((r - 16) / 8)))).getD ((r - 16) % 8) 0)
  else match r with
    | 80 => some y.pc | 81 => some y.stat | 82 => some y.fpm | 83 => some y.stklim | 84 => some y.fmt | 85 => some y.scale | 86 => some y.lfsr
    | 87 => some y.s6.status | 88 => some y.s7.status | 89 => some (y.tag.zeroExtend 64)
    | 90 => some y.trapcause | 91 => some y.trapaddr | 92 => some y.trapval
    | _ => none

/-- Writes a register by its debug number, with the reserved bits of R130 and what Table 21.7 has a write of a stream's status do. -/
def Ctx.debugSet (y : Ctx) (r : Nat) (v : Word) : Ctx :=
  if r < 16 then y.setG (BitVec.ofNat 4 r) v
  else if r < 80 then
    let w := BitVec.ofNat 3 ((r - 16) / 8)
    y.setW w (vecOf ((vecWords (y.vreg w)).set ((r - 16) % 8) v))
  else match r with
    | 80 => { y with pc := v &&& 0x01FFFFFFFFFFFFC0 }
    | 81 => { y with stat := cleanStat v }
    | 82 => { y with fpm := cleanFpm v }
    | 83 => { y with stklim := v }
    | 84 => { y with fmt := cleanFmt v }
    | 85 => { y with scale := cleanScale v }
    | 86 => { y with lfsr := cleanLfsr v }
    | 87 => { y with s6 := y.s6.setCfg v }
    | 88 => { y with s7 := y.s7.setCfg v }
    | 90 => { y with trapcause := v }
    | 91 => { y with trapaddr := v }
    | 92 => { y with trapval := v }
    | _ => y

/-- The context of a stopped slot. -/
def State.stoppedCtx (s : State) (c k : Nat) : Option Ctx :=
  match (s.slot c k).ctx with
  | some y => if (s.core c).dbgStop.contains y.ten then some y else none
  | none => none

/-- DEBUG_READ_REGISTERS: x holds the slot in bits 3:0 and the register's number above. The value is the first result, or
the test port's answer. -/
def execDebugReadRegisters (s : State) : Out :=
  debugRow 4 (fun s c x _ =>
    match (s.stoppedCtx c (x.toNat % 16)).bind fun y => y.debugGet (x.toNat / 16) with
    | some v => ⟨{ s with lid := { s.lid with answers := tset s.lid.answers 3 (some [(v, true)]) } }, 0, 0, [v]⟩
    | none => refuse s 3) s

/-- DEBUG_WRITE_REGISTERS. sr.ctxtag names the context, and Table 21.7 has it read-only: STATUS 1 (DESIGN CHOICE, log entry 18). -/
def execDebugWriteRegisters (s : State) : Out :=
  debugRow 5 (fun s c x v =>
    match s.stoppedCtx c (x.toNat % 16) with
    | some y => if x.toNat / 16 = 89 || (y.debugGet (x.toNat / 16)).isNone then refuse s 1 else doneWith (s.modCtx c (x.toNat % 16) fun y => y.debugSet (x.toNat / 16) v)
    | none => refuse s 3) s

/-- TRACE (R401): ARG0 logical core, ARG1 tenant, ARG2 ring base of the supervisor tenant, ARG3 its bytes; 0 turns it off. -/
def execTrace (s : State) : Out :=
  lidRow (opc 17) (fun s p =>
    let base := s.arg p 2
    let n := (s.arg p 3).toNat
    match s.physCore p (s.arg p 0).toNat with
    | none => refuse s 1
    | some c =>
      if n = 0 then doneWith (s.modCore c fun k => { k with trace := none })
      else if !s.holdsTenant p (s.arg p 1).toNat || base.toNat % 16 != 0 || n % 16 != 0 || !s.areaOk (s.svten p) base n then refuse s 1
      else doneWith (s.modCore c fun k => { k with trace := some ((s.arg p 1).toNat, base, n / 16, 0), traceAt := s.cycle })) s

/-! ## ptload (R246, R250, R361) -/

/-- A table image from its words. -/
def imageFrom (ws : List Word) : Image :=
  let w := ws.getD 0 0
  { decl := w.toNat % 65536, trans := w.toNat / 65536 % 65536, init := w.toNat / 2 ^ 32 % 256, kind := w.toNat / 2 ^ 40 % 256
    cells := (List.range 256).map fun i => (ws.getD (8 + i / 2) 0).extractLsb' (32 * (i % 2)) 32 }

/-- A cell of an image. -/
def Image.cell (m : Image) (st ev : Nat) : BitVec 32 := m.cells.getD (16 * st + ev) 0
/-- Whether a state is declared, and whether it is transient. -/
def Image.declared (m : Image) (st : Nat) : Bool := m.decl.testBit st
def Image.transient (m : Image) (st : Nat) : Bool := m.trans.testBit st

/-- A cell without an action: zero, or STALL or nothing in the same state; a STALL runs no NEXT (R245). -/
def Cell.idle (c : Cell) (st : Nat) : Bool := (c.next == st || c.next == 0) && c.msg == 0 && !c.adds && !c.clrs && !c.seto && !c.wait && !c.nz && !c.cnt

/-- Check 1 of Table 13.5 for a cell: in a KIND 0 table the replica events have no action (R246). -/
def Image.cellFields (m : Image) (st ev : Nat) : Bool :=
  let w := m.cell st ev
  let c := Cell.of w
  if 10 ≤ ev then w == 0
  else w.extractLsb' 0 15 == 0 && c.dest ≤ 3 && c.msg ≤ 6 && (c.dest == 0) == (c.msg == 0) &&
    (m.kind == 1 || (c.msg != 6 && (c.idle st || !(ev == 3 || ev == 6 || ev == 9))))

/-- Class of an event, and of a message (R243, R244). -/
def evClass (ev : Nat) : Nat := if ev ≤ 5 then 0 else if ev = 6 then 1 else 2
def msgClass (m : Nat) : Nat := if m = 1 || m = 2 || m = 6 then 1 else 2

/-- Check 3. -/
def Image.cellClass (m : Image) (st ev : Nat) : Bool :=
  let c := Cell.of (m.cell st ev)
  c.msg == 0 || (evClass ev ≤ msgClass c.msg && (evClass ev != 2 || c.dest == 1))

/-- Check 4 for a cell of a declared state. -/
def Image.cellBound (m : Image) (st ev : Nat) : Bool :=
  let c := Cell.of (m.cell st ev)
  (!c.wait || m.transient c.next) && (if m.transient st then 5 < ev || c.stall else !c.stall)

/-- From a transient state some ack cells reach a stable state within two steps; a cell with STALL takes none. -/
def Image.settles (m : Image) (st : Nat) : Bool :=
  let next (st ev : Nat) : Nat := (Cell.of (m.cell st ev)).next
  let acks (st : Nat) : List Nat := [7, 8, 9].filter fun a => !(Cell.of (m.cell st a)).stall
  (acks st).any fun a => !m.transient (next st a) || (acks (next st a)).any fun b => !m.transient (next (next st a) b)

/-- The first check of Table 13.5 that an image fails. An INIT byte above 15, which names no state, is a reserved code (1); a TRANS bit
outside DECL is a state that is not declared (2) (DESIGN CHOICE, log entry 63: no check names them). -/
def Image.refused (m : Image) (ws : List Word) (inUse : Bool) : Option Nat :=
  let states := List.range 16
  let all (f : Nat → Nat → Bool) : Bool := states.all fun st => (List.range 16).all fun ev => f st ev
  let ones := (states.filter m.declared).filter m.transient
  if (ws.getD 0 0) >>> 48 != 0 || (List.range 7).any (fun i => ws.getD (i + 1) 0 != 0) || 15 < m.init || 1 < m.kind || !all m.cellFields then some 1
  else if !m.declared m.init || m.transient m.init || states.any (fun st => m.transient st && !m.declared st) ||
      !all (fun st ev => if m.declared st then m.declared (Cell.of (m.cell st ev)).next else m.cell st ev == 0) then some 2
  else if !all m.cellClass then some 3
  else if 6 < ones.length || !all (fun st ev => !m.declared st || m.cellBound st ev) || ones.any (fun st => !m.settles st) then some 4
  else if inUse then some 5
  else none

/-- PTLOAD_LID_ANSWER (R250): request n; the form settles, with PROTO_TABLE to follow where the image is refused. -/
def execPtloadLidAnswer (s : State) : Out :=
  match s.inFlight s.focus.n with
  | some ⟨_, _, _, _, .ptload c k p idx words⟩ =>
    let ws := words.map s.word
    let m := imageFrom ws
    let s := s.dropReq s.focus.n
    let inUse := s.ranges.any fun r => r.2.part == p && r.2.proto == idx
    if (s.imageOf p idx).map Image.words = some ws then .next (s.settled c k)
    else match m.refused ws inUse with
      | none => .next ({ s with images := tset s.images (p * 2 + (idx - 6)) m }.settled c k)
      | some code => .next ((s.settled c k).modActs c k (Act.addStop ⟨17, BitVec.ofNat 64 code⟩))
  | _ => .fault .notEnabled

end Sys2Proof.Machine
end

