-- ==== Sys2Proof/Machine/Service.lean ====
section
/-!
DEFINITION. Machine/Service: start (R395), live service (R396, R397), containment (R399), the Handle and the Rim (R390, R393, R394),
alarms of the package (R388), and what the Lid does for its own part: partitions, tenants, frames, signed images (R80, R367, R383).
-/
namespace Sys2Proof.Machine

/-! ## Start (R395) -/

/-- The Lid has booted from an image. -/
def State.booted (s : State) (n : Nat) : State := { s with lid := { s.lid with active := n, stage := some 0 } }.mailEvent 3 0 0 0

/-- The chain head before the first record: that of the identity key's digest and the boot count (R386). -/
def headAt (boot : Nat) : BitVec 512 := sha3 (digestBytes (sha3 (identityKey.flatMap wordBytes)) ++ natBytes boot 8)

/-- POWER_GOOD: the Lid verifies image A, or image B if A fails; the bytes of the focus hold both. It starts the log's chain (R386)
and reaches stage 0, unless both fail: the failing unit is then 1, the Lid (log entry 17). -/
def execPowerGood (s : State) : Out :=
  if s.lid.power then .fault .notEnabled
  else
    let a := fwFrom s.focus.bytes
    let b := (fwFrom a.2).1
    let boot := s.lid.boot + 1
    let s := { s with lid := { s.lid with power := true, imgs := [a.1, b], boot := boot, head := headAt boot } }
    if a.1.verifies then .next (s.booted 0)
    else
      let s := s.alarm 3 s.customers
      if b.verifies then .next (s.booted 1) else .next ({ s with lid := { s.lid with stageFail := some 1 } }.mailEvent 3 0 0 1)

/-- Dies that run from a stage on. -/
def stageDies (n : Nat) : List Nat := if n = 1 then [0] else [1, 2, 3]

/-- STAGE_REACHED: stage n, after the one before it; with m not 0, unit m fails and the package stays where it is. -/
def execStageReached (s : State) : Out :=
  let n := s.focus.n
  if n = 0 || 2 < n || s.lid.stage != some (n - 1) || s.lid.stageFail.isSome then .fault .notEnabled
  else if s.focus.m != 0 then .next ({ s with lid := { s.lid with stageFail := some s.focus.m } }.mailEvent 3 0 0 s.focus.m)
  else
    let beats := (stageDies n).foldl (fun b d => tset b d s.cycle) s.lid.beats
    .next ({ s with lid := { s.lid with stage := some n, beats := beats } }.mailEvent 3 0 0 0)

/-! ## Heartbeats (R396) -/

/-- HEARTBEAT: of die n. -/
def execHeartbeat (s : State) : Out :=
  let n := s.focus.n
  match tget? s.lid.beats n with
  | some b => if s.lid.deadDies.contains n || s.lid.fencedDies.contains n || s.cycle < b + Config.beatClk then .fault .notEnabled
    else .next { s with lid := { s.lid with beats := tset s.lid.beats n s.cycle } }
  | none => .fault .notEnabled

/-- Whether a sharer is an agent of a die: its core or its replica slice. -/
def sharerOn (die n : Nat) : Bool := if 8192 ≤ n then n == replAgent die else coreDie n == die

/-- The scrub engines (R245, R396): each entry that names the dead agent loses it and sees SCRUB. -/
def State.scrubDie (s : State) (die : Nat) : State :=
  s.dirs.foldl (fun (s : State) (d : Dir) =>
    if d.sharers.any (sharerOn die) then
      (s.modDir d.line fun x => { x with sharers := x.sharers.filter fun n => !sharerOn die n }).applyEv d.line 5 (ownEv 5 d.line)
    else s) s

/-- What becomes of a packet at the death of a die: its acknowledgements count as received; its stores on their way and the
replies to it are lost. -/
def Pkt.afterDeath (die : Nat) (p : Pkt) : Option Pkt :=
  match p with
  | .inv c line upd => if coreDie c = die then some (.ack line (if upd.isSome then 8 else 7)) else some p
  | .replUpd d line upd => if d = die then some (.ack line (if upd.isSome then 9 else 7)) else some p
  | .store c _ _ _ _ => if coreDie c = die then none else some p
  | .reply c _ _ _ _ _ _ => if coreDie c = die then none else some p
  | p => some p

/-- A die of another package is dead, by its global number: the dispatchers go on without it (R278). Its heartbeats come over the
management network, which is outside this package (log entry 24). -/
def State.farDeath (s : State) (g : Nat) : Out :=
  if s.lid.stage != some 2 || 65536 ≤ g || (s.dieHere g).isSome || s.lid.farDead.contains g then .fault .notEnabled
  else .next (({ s with lid := { s.lid with farDead := linsert s.lid.farDead g } }.launchesLose g).mailEvent 1 (g % 4) 0 (g / 4))

/-- Another package is dead as a whole: its Rim windows are fenced, what it sends is dropped, and its dies' launches go on without them
(R278, R396). Its event names no die: 255 (log entry 17). -/
def State.packageDeath (s : State) (n : Nat) : Out :=
  if s.lid.stage != some 2 || 16384 ≤ n || n = s.lid.package || s.lid.farGone.contains n then .fault .notEnabled
  else
    let dies := (List.range 4).map (4 * n + ·)
    let s := { s with lid := { s.lid with farGone := linsert s.lid.farGone n, farDead := dies.foldl linsert s.lid.farDead } }
    .next ((dies.foldl State.launchesLose s).mailEvent 1 255 0 n)

/-- DIE_DEAD: die n, silent for 16,384 clk; with m = 1, die n of another package, by its global number; with m = 2, package n. -/
def execDieDead (s : State) : Out :=
  let n := s.focus.n
  if s.focus.m = 1 then s.farDeath n
  else if s.focus.m = 2 then s.packageDeath n
  else match tget? s.lid.beats n with
  | none => .fault .notEnabled
  | some b =>
    if s.lid.deadDies.contains n || s.lid.fencedDies.contains n || s.cycle < b + Config.deadClk then .fault .notEnabled
    else
      let s := { s with lid := { s.lid with deadDies := linsert s.lid.deadDies n },
                        reqs := s.reqs.filterMap fun (r : Req) => (r.pkt.afterDeath n).map fun p => { r with pkt := p } }
      let s := s.resetCores fun c => coreDie c == n
      let s := (s.dropLines ((List.range 256).map fun i => n * 256 + i)).failWaits
      let s := (s.scrubDie n).launchesLose (s.lid.package * 4 + n)
      .next (s.mailEvent 1 n 0 0)

/-! ## Errors and service (R397, R399) -/

/-- UNCORRECTABLE_ERROR: in quad n of the package, or a slice or vault under it. -/
def execUncorrectableError (s : State) : Out :=
  if 1024 ≤ s.focus.n || s.lid.contained.contains s.focus.n then .fault .notEnabled else .next (s.contain s.focus.n)

/-- BACK_IN_SERVICE: die n after DIEJOIN, or, with m = 1, channel n after CHANRECAL. -/
def execBackInService (s : State) : Out :=
  let n := s.focus.n
  if s.focus.m = 1 then
    (if s.lid.downChans.contains n then .next ({ s with lid := { s.lid with downChans := lremove s.lid.downChans n } }.mailEvent 4 (n / 128) n 0) else .fault .notEnabled)
  else if !s.lid.joining.contains n then .fault .notEnabled
  else
    let s := { s with
      cores := s.cores.filter fun c => coreDie c.1 != n,
      lid := { s.lid with joining := lremove s.lid.joining n, fencedDies := lremove s.lid.fencedDies n, deadDies := lremove s.lid.deadDies n,
                          contained := s.lid.contained.filter (fun q => q / 256 != n), beats := tset s.lid.beats n s.cycle } }
    .next (s.mailEvent 4 n 0 0)

/-- FIRMWARE_SWITCHED: the Lid has restarted and its mailbox answers again. -/
def execFirmwareSwitched (s : State) : Out :=
  if s.lid.silent then .next ({ s with lid := { s.lid with silent := false } }.mailEvent 7 0 0 s.lid.active) else .fault .notEnabled

/-! ## Alarm inputs of the package (R388) -/

/-- An alarm that affects every tenant domain. -/
def State.packageAlarm (s : State) (input : Nat) : Out :=
  if s.lid.stage.isNone then .fault .notEnabled else .next (s.alarm input s.customers)

/-- TAMPER_MESH_BREAK. -/
def execTamperMeshBreak (s : State) : Out := s.packageAlarm 0
/-- VOLTAGE_GLITCH. -/
def execVoltageGlitch (s : State) : Out := s.packageAlarm 1
/-- CLOCK_GLITCH. -/
def execClockGlitch (s : State) : Out := s.packageAlarm 2

/-! ## The Handle (R390) -/

/-- The window that a host request goes through, its link and tenant; none where no window is assigned, or the link does not
run. -/
def State.hostWindow (s : State) (n : Nat) : Option (Window × Tenant) :=
  let up := match s.lid.stage with | some st => n < 32 || (n < 64 && st == 2) | none => false
  match s.lid.windows.find? fun w => w.kind == 2 && w.n == n with
  | some w => if up then (s.ten? w.ten).map fun t => (w, t) else none
  | none => none

/-- An answer to the host on a link. -/
def State.hostAnswer (s : State) (link : Nat) (a : Option (List (Word × Bool))) : State :=
  { s with lid := { s.lid with answers := tset s.lid.answers link a } }

/-- The words of a range, translated one by one for a tenant; none where one fails. -/
def State.rangePas (s : State) (t : Nat) (va : Nat) (a : Acc) : Nat → Option (List (Nat × Nat))
  | 0 => some []
  | n + 1 => match s.xlateNow t (BitVec.ofNat 64 va) a, State.rangePas s t (va + 8) a n with
    | .ok pa _ dom, some r => some ((pa, dom) :: r)
    | _, _ => none

/-- A host request of `bytes` bytes at offset x of window n: fenced tenants' traffic is dropped, and over the quota it waits
for the frame to end (R382, R388). `f` has the words' addresses and domains. -/
def State.hostRow (s : State) (bytes : Nat) (a : Acc) (f : State → Nat → Nat → List (Nat × Nat) → State) : Out :=
  match s.hostWindow s.focus.n with
  | none => .fault .notEnabled
  | some (w, t) =>
    let link := s.focus.n / 32
    let va := w.base.toNat + s.focus.x.toNat
    if bytes = 0 || 0x40000000 < s.focus.x.toNat + bytes then .fault .notEnabled
    else if t.fenced then .next s
    else if s.sendHeld w.ten 7 then .fault .notEnabled
    else match s.rangePas w.ten (va / 8 * 8) a ((va + bytes - 1) / 8 - va / 8 + 1) with
      | none => .next (s.hostAnswer link none)
      | some pas =>
        -- a window of the partition that the port's tag does not match: the request is dropped (R368)
        match pas.find? fun p => !s.tagOk (s.partOf w.ten) p.1 with
        | some p => .next (s.tagFault ((s.destTag p.1).getD 0) w.ten)
        | none => .next (f (s.quotaAdd w.ten 7 bytes) w.ten va pas)

/-- HANDLE_READ: y bytes; the value, and each aligned word's full/empty bit. -/
def execHandleRead (s : State) : Out :=
  s.hostRow s.focus.y.toNat .load fun s t _ pas =>
    let r := pas.foldl (fun (r : State × List (Word × Bool)) (p : Nat × Nat) =>
      let v := r.1.readIn t p.2 (p.1 / 8)
      (v.1, r.2 ++ [(v.2, v.1.full (p.1 / 8))])) (s, [])
    r.1.hostAnswer (s.focus.n / 32) (some r.2)

/-- Writes bytes at a place in a word. -/
def State.hostPut (s : State) (t dom pa at_ : Nat) (bs : List Byte) : State :=
  s.writeIn t dom (pa / 8) (BitVec.ofNat 64 (numOf bs * 2 ^ (8 * at_))) (BitVec.ofNat 8 ((2 ^ bs.length - 1) * 2 ^ at_))

/-- Writes bytes over translated words. -/
def State.hostWords (t at_ : Nat) (s : State) : List (Nat × Nat) → List Byte → State
  | [], _ => s
  | p :: ps, bs => State.hostWords t 0 (s.hostPut t p.2 p.1 at_ (bs.take (8 - at_))) ps (bs.drop (8 - at_))

/-- HANDLE_WRITE: the bytes of the focus. -/
def execHandleWrite (s : State) : Out :=
  s.hostRow s.focus.bytes.length .store fun s t va pas =>
    (State.hostWords t (va % 8) s pas s.focus.bytes).hostAnswer (s.focus.n / 32) (some [])

/-- HANDLE_FILL: FillWord with y, once every earlier write by an agent has reached its replicas (R231, R390). A full/empty change needs both R and W (R192); an address that is not 8-byte aligned is
answered with an error whatever it maps to. -/
def execHandleFill (s : State) : Out :=
  match s.hostWindow s.focus.n with
  | none => .fault .notEnabled
  | some (w, tn) =>
    let err : State := if tn.fenced then s else s.hostAnswer (s.focus.n / 32) none
    if (w.base.toNat + s.focus.x.toNat) % 8 != 0 then .next err
    else if !s.agentsDone then .fault .notEnabled
    else s.hostRow 8 .both fun s t _ pas =>
      let s := pas.foldl (fun (s : State) (p : Nat × Nat) => s.fillIn t p.2 (p.1 / 8) s.focus.y) s
      s.hostAnswer (s.focus.n / 32) (some [])

/-! ## The Rim (R393, R394) -/

/-- The forms that come through a window, by number: load, store, then the full/empty forms, atomics and
compare-and-swaps. -/
def rimForms : List Instr :=
  [.ldfw, .ldfwe, .ldfn, .ldfne, .stfw, .stfn, .fepurge, .fefill,
   .amoSwap, .amoAdd, .amoAnd, .amoOr, .amoXor, .amoMinS, .amoMaxS, .amoMaxU, .casW, .casD, .casQ]

/-- A remote access of `bytes` bytes at a physical address, as the request its home serves. -/
def rimPkt (row : Instr) (bytes pa dom : Nat) (va y z : Word) (t : Nat) (ws : List (Word × Word × Bool)) : Pkt :=
  let w := pa / 8
  let hi := 4 ≤ pa % 8
  let wide (i : Nat) (v : Word) : BitVec 128 := (ws.getD i (0, 0, false)).2.1 ++ v
  match row with
  | .casW => .cas row w hi (y.zeroExtend 128) (z.zeroExtend 128) (.rim t) 1 va dom
  | .casD => .cas row w hi (y.zeroExtend 128) (z.zeroExtend 128) (.rim t) 1 va dom
  | .casQ => .cas row w hi (wide 0 y) (wide 1 z) (.rim t) 1 va dom
  | .ldfw => .fe ⟨row, w, y, .rim t, 1, va, dom⟩
  | .ldfwe => .fe ⟨row, w, y, .rim t, 1, va, dom⟩
  | .ldfn => .fe ⟨row, w, y, .rim t, 1, va, dom⟩
  | .ldfne => .fe ⟨row, w, y, .rim t, 1, va, dom⟩
  | .stfw => .fe ⟨row, w, y, .rim t, 1, va, dom⟩
  | .stfn => .fe ⟨row, w, y, .rim t, 1, va, dom⟩
  | .fepurge => .fe ⟨row, w, y, .rim t, 1, va, dom⟩
  | .fefill => .fe ⟨row, w, y, .rim t, 1, va, dom⟩
  | _ => .amo row w hi (bytes == 8) y (.rim t) 1 va dom

/-- One element of a reduce whose DST lies here, as one strong access (R333, R394): its data type and RM are ns 0 and 1; it is answered with
the flags of its Round. -/
def State.rimReduce (s : State) (bytes t pa dom : Nat) : Out :=
  let dt := s.focus.ns.getD 0 0
  let w := pa / 8
  if 3 < dt || bytes != dtSize dt then .fault .notEnabled
  else
    let o := s.readIn t dom w
    let r := dtAdd dt (s.focus.ns.getD 1 0) (partWord o.2 (pa % 8) bytes).toNat (partWord s.focus.y 0 bytes).toNat
    let s := o.1.letIn t dom w bytes fun s => s.agentWrite 2 w (BitVec.ofNat 64 r.1 <<< (8 * (pa % 8))) (byteMask (pa % 8) bytes)
    .next (s.reply (.rim t) (.words [(w, r.2.zeroExtend 64)]))

/-- The access of one form at its home. -/
def State.rimPerform (s : State) (f bytes t : Nat) (va : Word) (pa dom : Nat) : Out :=
  let w := pa / 8
  match f with
  | 0 =>
    let r := s.readIn t dom w
    .next (r.1.reply (.rim t) (.words [(w, partWord r.2 (pa % 8) bytes)]))
  | 1 => .next ((s.writeIn t dom w (s.focus.y <<< (8 * (pa % 8))) (byteMask (pa % 8) bytes)).reply (.rim t) (.words []))
  | 21 => s.rimReduce bytes t pa dom
  | f =>
    match rimForms[f - 2]? with
    | none => .fault .notEnabled
    | some row =>
      let n := s.reqs.length
      let tag := s.partOf t
      let q : State := { s with
                        reqs := s.reqs ++ [{ id := s.nextId, tag := tag, pkt := rimPkt row bytes pa dom va s.focus.y s.focus.z t s.focus.ws }],
                        nextId := s.nextId + 1, focus := { s.focus with n := n } }
      match q.reqs[n]? with
      | some ⟨_, _, _, _, .fe _⟩ => execHomeFeRequest q
      | some ⟨_, _, _, _, .cas _ _ _ _ _ _ _ _ _⟩ => execHomeCas q
      | _ => execHomeAmo q

/-- RIM_ACCESS: an access for tenant m from package n, of form k and i bytes at address x, with operands y and z. The Lid holds
an inbound entry for the package and the tenant, or the access is dropped and counted; what a dead package sends is dropped (R396). Form 21 is
an element of a reduce. -/
def execRimAccess (s : State) : Out :=
  let t := s.focus.m
  let bytes := s.focus.i
  match s.lid.stage, s.ten? t with
  | some 2, some x =>
    if !(bytes == 1 || bytes == 2 || bytes == 4 || bytes == 8 || bytes == 16) || s.focus.x.toNat % bytes != 0 then .fault .notEnabled
    else if s.lid.farGone.contains s.focus.n then .next s
    else if !(s.lid.windows.any fun w => w.kind == 3 && w.remote == s.focus.n && w.ten == t) then .next (s.tagFault (s.partOf t) t)
    else if x.fenced then .next s
    else match s.xlateNow t s.focus.x (match s.focus.k with | 0 => .load | 1 => .store | 2 => .load | 4 => .load | _ => .both) with
      | .ok pa _ dom =>
        if !s.tagOk (s.partOf t) pa then .next (s.tagFault ((s.destTag pa).getD 0) t) else s.rimPerform s.focus.k bytes t s.focus.x pa dom
      | _ => .next (s.reply (.rim t) (.fault ⟨3, s.focus.x⟩))
  | _, _ => .fault .notEnabled

/-- RIM_PORT_FAIL: port n of twelve (R1); its channels move to another port of the same destination, which keeps their order. -/
def execRimPortFail (s : State) : Out :=
  if 12 ≤ s.focus.n || s.lid.ports.contains s.focus.n || s.lid.stage != some 2 then .fault .notEnabled
  else .next ({ s with lid := { s.lid with ports := linsert s.lid.ports s.focus.n } }.mailEvent 5 0 s.focus.n 0)

/-- RIM_PORT_UP: port n. -/
def execRimPortUp (s : State) : Out :=
  if s.lid.ports.contains s.focus.n then .next ({ s with lid := { s.lid with ports := lremove s.lid.ports s.focus.n } }.mailEvent 5 0 s.focus.n 1)
  else .fault .notEnabled

/-! ## Partitions, tenants, frames, images (R80, R170, R367, R369, R383) -/

/-- Dies on which a partition may stand now (R395 to R397, R399). -/
def State.dieUsable (s : State) (die : Nat) : Bool :=
  (match s.lid.stage with | some 1 => die == 0 | some 2 => decide (die < 4) | _ => false) && !s.lid.deadDies.contains die && !s.lid.fencedDies.contains die

/-- Every second slice of a list is in a pair with the one before it. -/
def wholePairs : List Nat → Bool
  | [] => true
  | a :: b :: r => a / 2 == b / 2 && a != b && wholePairs r
  | _ => false

/-- PARTITION_CREATE: partition n with supervisor tenant m, cores ns and slices ms, none of them another's; logical vault v is the
vault under logical slice v. The partition's mailbox ring takes the package's events since boot, those of the stages among them (R392, R395;
DESIGN CHOICE, log entry 41). -/
def execPartitionCreate (s : State) : Out :=
  let p := s.focus.n
  let cs := s.focus.ns
  let sl := s.focus.ms
  if p = 0 || 255 < p || (tget? s.parts p).isSome || s.focus.m = 0 || 31 < s.focus.m || (s.ten? s.focus.m).isSome ||
      s.parts.any (fun x => x.2.svten == s.focus.m) ||
      !(cs.all fun c => s.coreIdle c && s.dieUsable (coreDie c) && !s.lid.contained.contains (coreQuad c)) || !cs.Nodup ||
      !(sl.all fun x => s.sliceIdle x && s.vaultIdle x && s.dieUsable (x / 256) && !s.lid.contained.contains x) || !sl.Nodup || !wholePairs sl then .fault .notEnabled
  else
    let s := { s with parts := tset s.parts p { cores := cs, slices := sl, vaults := sl, svten := s.focus.m } }
    let s := cs.zipIdx.foldl (fun (s : State) (c : Nat × Nat) => s.setCore c.1 { tag := p, logical := c.2 }) s
    .next (s.lid.events.foldl (fun s v => s.partEvent p v) s)

/-- A tenant's profiling session arrives with it: the counters ns with their values ms; where k is 1 it asked for an event (R403, log
entry 64). -/
def State.sessionIn (s : State) (t p : Nat) : State :=
  let s := s.modTen t fun x => { x with session := s.focus.ns.zip s.focus.ms }
  if s.focus.k = 1 then s.partEvent p ⟨s.cycle, 6, 0, 0, t⟩ else s

/-- A new tenant shares the context caches of its partition's cores from now on (R376). -/
def State.reshareAll (s : State) (p : Nat) : State :=
  match tget? s.parts p with | some x => x.cores.foldl (fun s c => State.reshare c s) s | none => s

/-- TENANT_CREATE: tenant n of partition m, or, where it was erased, with a new key. A supervisor tenant is that of its own
partition. -/
def execTenantCreate (s : State) : Out :=
  let t := s.focus.n
  let p := s.focus.m
  if t = 0 || 31 < t || (tget? s.parts p).isNone || s.parts.any (fun x => x.2.svten == t && x.1 != p) then .fault .notEnabled
  else match s.ten? t with
    | none => .next ((({ s with tenants := tset s.tenants t { part := p } }.record t 4 0 []).sessionIn t p).reshareAll p)
    | some x => if x.erased && x.part == p then .next ((s.modTen t fun x => { x with erased := false }).record t 4 0 [] |>.sessionIn t p) else .fault .notEnabled

/-- A frame of the partition's own channels. -/
def State.frameOf (s : State) (p f : Nat) : Bool :=
  match tget? s.parts p with
  | some x => isStack (65536 * f) && x.slices.contains (homeOf (65536 * f))
  | none => false

/-- The logical pair of a partition that a frame lies on. -/
def State.framePair (s : State) (p f : Nat) : Nat :=
  match tget? s.parts p with | some x => (indexOf? x.slices (homeOf (65536 * f))).getD 0 / 2 | none => 0

/-- FillWord with 0 until the word stays full: each fill may serve an ldfwe, which empties it again (R215). -/
def State.fillUp (w : Nat) : Nat → State → State
  | 0, s => s
  | n + 1, s => if s.full w then s else State.fillUp w n (s.fillWord w 0)

/-- Zeros a frame, full, and no copy of it is left anywhere. -/
def State.zeroFrame (s : State) (f : Nat) : State :=
  let inside (line : Nat) : Bool := line / 512 == f
  -- the Lid's scrub fills every empty word, whose waiters are served (R185), and then zeros all
  let s := (s.feFlip.filter fun w => 8 * w / 65536 == f).foldl (fun s w => State.fillUp w (s.waits.length + 1) s) s
  { s with mem := s.mem.filter (fun x => x.1 / 65536 != f), feFlip := s.feFlip.filter (fun w => 8 * w / 65536 != f), dirty := linsert s.dirty f,
           peq := s.peq.filter (fun e => !(inside e.line && e.who == .none && e.sq.isNone)),
           dirs := s.dirs.filter (fun d => !inside d.line), replicas := s.replicas.filter (fun r => !inside (r.1 / 4)),
           cores := s.cores.map fun (c : Nat × Core) => (c.1, { c.2 with
             l1 := c.2.l1.filter (fun l => !inside l.line),
             fills := c.2.fills.map (Fill.seen inside) }) }

/-- The owner of a frame loses it. -/
def State.freeFrame (s : State) (f : Nat) : State :=
  let t := (tget s.frames f (0, false)).1
  let s := { s with frames := tdel s.frames f }
  if t = 0 then s
  else
    let s := s.quotaSub t 1 1
    if s.holdsPair t (s.framePair (s.partOf t) f) then s else s.quotaSub t 2 1

/-- Whether a frame can change hands: stack memory of a channel that is up, no access to it in progress, in no map arena. -/
def State.frameFree (s : State) (f : Nat) : Bool :=
  isStack (65536 * f) && !s.lid.downChans.contains (frameChan f) && (s.dirs.all fun d => d.line / 512 != f || d.cur.isNone) &&
    !s.tenants.any fun t => t.2.arena.any fun a => a.2.first ≤ 512 * f && 512 * f < a.2.first + a.2.lines

/-- A frame goes to domain 0, zeroed; the log ring loses its place where the frame was of it. -/
def State.systemFrame (s : State) (f : Nat) : State :=
  let s := (s.freeFrame f).zeroFrame f
  match s.lid.ring with
  | some (base, size) => if base ≤ 65536 * f && 65536 * f < base + size then { s with lid := { s.lid with ring := none } } else s
  | none => s

/-- The log as it stands goes to a new ring: the records, each with the seals that follow it (R386). -/
def State.relog (s : State) : State :=
  let sealsAt (s : State) (n : Nat) : State := (s.lid.seals.filter fun x => x.seq == n).foldl (fun s x => s.logBytes x.bytes) s
  s.lid.log.foldl (fun s u => sealsAt (s.logBytes u.bytes) (u.seq + 1)) (sealsAt s 0)

/-- The frames n to n + k − 1 become the log ring. -/
def State.assignRing (s : State) (n k : Nat) : Out :=
  let fs := (List.range k).map (n + ·)
  if !(fs.all fun f => s.frameFree f && (s.lid.stage == some 2 || (s.lid.stage == some 1 && frameChan f < 128))) || frameChan n != frameChan (n + k - 1) then .fault .notEnabled
  else
    let s := fs.foldl State.systemFrame s
    .next { s with lid := { s.lid with ring := some (65536 * n, 65536 * k), ringAt := 0 } }.relog

/-- A frame goes to a tenant, zeroed. -/
def State.ownFrame (s : State) (f t : Nat) : State := let s := s.systemFrame f; { s with frames := tset s.frames f (t, false) }

/-- FRAME_ASSIGN: frame n to the domain of tenant m, written with zeros, full; to domain 0 where m = 0, and there, where k is not 0, the k frames
from n on as the ring of the log (R386). At a quota's limit the Lid refuses (R382). -/
def execFrameAssign (s : State) : Out :=
  let f := s.focus.n
  let t := s.focus.m
  if t = 0 && s.focus.k != 0 then s.assignRing f s.focus.k
  else if !s.frameFree f then .fault .notEnabled
  else if t = 0 then .next (s.systemFrame f)
  else match s.ten? t with
    | none => .fault .notEnabled
    | some x =>
      if x.erased || !s.frameOf x.part f then .fault .notEnabled
      else if (tget s.frames f (0, false)).1 = t then
        -- the frame is the tenant's already: its counts stay as they are
        let u := (s.zeroFrame f)
        .next { u with frames := tset u.frames f (t, false) }
      else
        let fresh := !s.holdsPair t (s.framePair x.part f)
        if x.atLimit 1 || (fresh && x.atLimit 2) then .next s
        else
          let s := (s.ownFrame f t).quotaAdd t 1 1
          .next (if fresh then s.quotaAdd t 2 1 else s)

/-! ## Signed images (R71, R72, R75 to R80, R170) -/

/-- A number of n bytes at an offset. -/
def numAt (f : List Byte) (off n : Nat) : Nat := numOf ((f.drop off).take n)

/-- A section header (Table 4.4). -/
structure Section where
  type : Nat
  flags : Nat
  offset : Nat
  size : Nat
  addr : Nat
  info : Nat
deriving DecidableEq, Repr

/-- The section table of a file (Table 4.3). -/
def sectionsOf (f : List Byte) : List Section :=
  (List.range (numAt f 12 2)).map fun i =>
    let o := numAt f 8 4 + 32 * i
    ⟨numAt f (o + 4) 2, numAt f (o + 6) 2, numAt f (o + 8) 4, numAt f (o + 12) 4, numAt f (o + 16) 8, numAt f (o + 30) 2⟩

/-- A linked image: MAGIC, VERSION 1 and KIND 2 (R75, R79). -/
def isImage (f : List Byte) : Bool := f.take 8 == [0x52, 0x4F, 0x46, 0x00, 1, 0, 2, 0]

/-- The contents of a section. -/
def Section.bytes (x : Section) (f : List Byte) : List Byte := (f.drop x.offset).take x.size

/-- The part of a file that its note signs: up to the note, the header's reserved bytes as zero (R80). -/
def signedPart (f : List Byte) (note : Section) : List Byte := (f.take 16 ++ List.replicate 16 0 ++ f.drop 32).take note.offset

/-- Whether a note is the one NOTE section of a file, after the section table and the contents of every other section (R80). -/
def noteLast (f : List Byte) (n : Section) : Bool :=
  numAt f 8 4 + 32 * numAt f 12 2 ≤ n.offset && (sectionsOf f).dropLast.all fun x => x.type != 6 && (x.type == 2 || x.offset + x.size ≤ n.offset)

/-- Whether the signature of an image verifies for a tenant: of the note that is its one NOTE section, last in the file and in the section
table (R80). An image without one has no signature that verifies (DEDUCED, log entry 6). -/
def imageSigned (t : Nat) (f : List Byte) : Bool :=
  match (sectionsOf f).getLast? with
  | some n => n.type == 6 && noteLast f n && numAt f n.offset 4 == 1 && Config.imageOk t (BitVec.ofNat 64 (numAt f (n.offset + 8) 8)) (sha3 (signedPart f n)) ((f.drop (n.offset + 16)).take 4627)
  | none => false

/-- Creates the maps of a .maps section (R71): the state, and each map's symbol with its handle; none where the map quota turns one away, or where
no arena line is left for it: no QUOTA event comes with that, and the load does not wait. An entry's THRESH and LEVEL are taken as they stand,
outside their ranges too (DESIGN CHOICE, log entry 48). -/
def State.loadMaps (t : Nat) : List (List Byte) → State → Option (State × List (Nat × Nat))
  | [], s => some (s, [])
  | e :: es, s => match s.newMap t (BitVec.ofNat 64 (numAt e 0 8)) (numAt e 12 1) (numAt e 13 1) with
    | .done s h _ => (State.loadMaps t es s).map fun r => (r.1, (numAt e 8 4, h) :: r.2)
    | _ => none

/-- Entries of n bytes of a table. -/
def entriesOf (n : Nat) : Nat → List Byte → List (List Byte)
  | 0, _ => []
  | k + 1, bs => if bs.length < n then [] else bs.take n :: entriesOf n k (bs.drop n)

/-- The contents of section i with its MAPH16 relocations resolved (Table 4.6, R71). -/
def resolved (f : List Byte) (secs : List Section) (handles : List (Nat × Nat)) (i : Nat) (bs : List Byte) : List Byte :=
  (secs.filter fun r => r.type == 5 && r.info == i).foldl (fun bs r =>
    (entriesOf 24 r.size (r.bytes f)).foldl (fun (bs : List Byte) e =>
      match numAt e 12 2 == 5, tget? handles (numAt e 8 4) with
      | true, some h => (bs.set (numAt e 0 8) (BitVec.ofNat 8 h)).set (numAt e 0 8 + 1) (BitVec.ofNat 8 (h / 256))
      | _, _ => bs) bs) bs

/-- Passes the entries of a .ranges section on to the Lid as requests (R72); none where one is refused. -/
def State.loadRanges (p : Nat) : List (List Byte) → State → Option State
  | [], s => some s
  | e :: es, s =>
    let r := s.rangeRequest p fun i => BitVec.ofNat 64 (match i with | 0 => numAt e 0 8 | 1 => numAt e 8 8 | 2 => numAt e 16 1 | _ => 0)
    if r.1 = 0 then State.loadRanges p es (s.drainRange r.2.1 p r.2.2 false) else none

/-- Places bytes of an image at a virtual address of a tenant, each word they touch full; none where a page is missing (R170). -/
def State.placeBytes (s : State) (t : Nat) (va : Nat) : Nat → List Byte → Option State
  | 0, _ => some s
  | n + 1, bs =>
    if bs.isEmpty then some s
    else match s.xlateNow t (BitVec.ofNat 64 va) .rdOrX with
      | .ok pa _ dom =>
        let part := bs.take (8 - va % 8)
        let v := BitVec.ofNat 64 (numOf part) <<< (8 * (va % 8))
        let mask := BitVec.ofNat 8 ((2 ^ part.length - 1) * 2 ^ (va % 8))
        let w := pa / 8
        if s.verdict t pa dom = .ok then
          State.placeBytes ((s.fillBy (fun s => s.agentPut w v mask) w (merge (s.word w) v mask)).notifyTails (s.tailwOf w)) t (va + part.length) n (bs.drop part.length)
        else none
      | _ => none

/-- Zeros the bytes of .bss from an address up to `stop`, a word at a time, and leaves every word it touches empty (R170). -/
def State.placeBss (s : State) (t : Nat) (va stop : Nat) : Nat → Option State
  | 0 => some s
  | n + 1 =>
    if stop ≤ va then some s
    else match s.xlateNow t (BitVec.ofNat 64 va) .rdOrX with
      | .ok pa _ dom =>
        let k := min (8 - va % 8) (stop - va)
        if s.verdict t pa dom = .ok then State.placeBss ((s.agentPut (pa / 8) 0 (byteMask (va % 8) k)).emptyWord (pa / 8)) t (va + k) stop n else none
      | _ => none

/-- Places the contents of every section with ALLOC that has some (R76). -/
def State.placeSections (t : Nat) (f : List Byte) (secs : List Section) (handles : List (Nat × Nat)) (s : State) : List (Section × Nat) → Option State
  | [] => some s
  | (x, i) :: xs =>
    let r := if x.flags % 2 = 1 && (x.type = 1 || x.type = 9) then s.placeBytes t x.addr (x.size + 1) (resolved f secs handles i (x.bytes f)) else some s
    r.bind fun s => State.placeSections t f secs handles s xs

/-- Places every NOBITS section, after the contents: a word that both touch is a word of .bss (R76, R170). -/
def State.placeZeros (t : Nat) (s : State) : List Section → Option State
  | [] => some s
  | x :: xs => (if x.type = 2 then s.placeBss t x.addr (x.addr + x.size) (x.size / 8 + 2) else some s).bind fun s => State.placeZeros t s xs

/-- Loads a linked image for a tenant: its maps are created, its contents placed with their handles, its ranges asked for; none where one of
these fails (R71, R72, R79). -/
def State.loadImage (s : State) (t : Nat) (f : List Byte) : Option State :=
  let secs := sectionsOf f
  let table (ty n : Nat) : List (List Byte) := (secs.filter fun x => x.type == ty).flatMap fun x => entriesOf n x.size (x.bytes f)
  if !isImage f then none
  else (State.loadMaps t (table 7 16) s).bind fun r =>
    ((State.placeSections t f secs r.2 r.1 secs.zipIdx).bind fun s => State.placeZeros t s secs).bind fun s => State.loadRanges (s.partOf t) (table 8 24) s

/-- SIGNED_IMAGE_LOAD (R71, R72, R79, R80, R170): the file for tenant n. One whose signature fails is not loaded, and is an alarm (R388); a
load that fails changes nothing. -/
def execSignedImageLoad (s : State) : Out :=
  let t := s.focus.n
  let f := s.focus.bytes
  if s.lid.stage.isNone || (s.ten? t).isNone then .fault .notEnabled
  else if !imageSigned t f then .next (s.alarm 4 [t])
  else .next ((s.loadImage t f).getD s)

end Sys2Proof.Machine
end

