-- ==== Sys2Proof/Machine/Dispatch.lean ====
section
/-!
DEFINITION. Machine/Dispatch: what each instruction and device step does: one arm per row of the opcode table.
-/
namespace Sys2Proof.Machine

def exec (i : Instr) (s : State) : Host.Outcome State Fault Refusal :=
  match i with
  | .powerGood => Sys2Proof.Machine.execPowerGood s
  | .stageReached => Sys2Proof.Machine.execStageReached s
  | .coreReset => Sys2Proof.Machine.execCoreReset s
  | .blockDecode => Sys2Proof.Machine.execBlockDecode s
  | .blockCommit => Sys2Proof.Machine.execBlockCommit s
  | .resumeFill => Sys2Proof.Machine.execResumeFill s
  | .invalidationReceived => Sys2Proof.Machine.execInvalidationReceived s
  | .memoryReply => Sys2Proof.Machine.execMemoryReply s
  | .storeQueueDepart => Sys2Proof.Machine.execStoreQueueDepart s
  | .homeStoreAccept => Sys2Proof.Machine.execHomeStoreAccept s
  | .wideningDrain => Sys2Proof.Machine.execWideningDrain s
  | .homeFeRequest => Sys2Proof.Machine.execHomeFeRequest s
  | .waitRetryTimer => Sys2Proof.Machine.execWaitRetryTimer s
  | .homeAmo => Sys2Proof.Machine.execHomeAmo s
  | .homeCas => Sys2Proof.Machine.execHomeCas s
  | .rd => Sys2Proof.Machine.execRd s
  | .wr => Sys2Proof.Machine.execWr s
  | .sa => Sys2Proof.Machine.execSa s
  | .rrd => Sys2Proof.Machine.execRrd s
  | .evict => Sys2Proof.Machine.execEvict s
  | .replw => Sys2Proof.Machine.execReplw s
  | .acki => Sys2Proof.Machine.execAcki s
  | .acku => Sys2Proof.Machine.execAcku s
  | .rack => Sys2Proof.Machine.execRack s
  | .walkRequest => Sys2Proof.Machine.execWalkRequest s
  | .walkResend => Sys2Proof.Machine.execWalkResend s
  | .walkDone => Sys2Proof.Machine.execWalkDone s
  | .mapEngineRequest => Sys2Proof.Machine.execMapEngineRequest s
  | .descriptorCount => Sys2Proof.Machine.execDescriptorCount s
  | .splitStep => Sys2Proof.Machine.execSplitStep s
  | .migrationArrival => Sys2Proof.Machine.execMigrationArrival s
  | .migrationResend => Sys2Proof.Machine.execMigrationResend s
  | .arrivalQueueAdvance => Sys2Proof.Machine.execArrivalQueueAdvance s
  | .slotFill => Sys2Proof.Machine.execSlotFill s
  | .contextDisplace => Sys2Proof.Machine.execContextDisplace s
  | .messageWaitSwap => Sys2Proof.Machine.execMessageWaitSwap s
  | .deliver => Sys2Proof.Machine.execDeliver s
  | .sendResend => Sys2Proof.Machine.execSendResend s
  | .handlerStart => Sys2Proof.Machine.execHandlerStart s
  | .spawnRequest => Sys2Proof.Machine.execSpawnRequest s
  | .spawnwResend => Sys2Proof.Machine.execSpawnwResend s
  | .setJoinHome => Sys2Proof.Machine.execSetJoinHome s
  | .setLeaveHome => Sys2Proof.Machine.execSetLeaveHome s
  | .barrierArrive => Sys2Proof.Machine.execBarrierArrive s
  | .gjoinRefused => Sys2Proof.Machine.execGjoinRefused s
  | .launchRecordAccept => Sys2Proof.Machine.execLaunchRecordAccept s
  | .launchRequestAccept => Sys2Proof.Machine.execLaunchRequestAccept s
  | .launchResend => Sys2Proof.Machine.execLaunchResend s
  | .dispatchBegin => Sys2Proof.Machine.execDispatchBegin s
  | .grantRequest => Sys2Proof.Machine.execGrantRequest s
  | .grant => Sys2Proof.Machine.execGrant s
  | .grantComplete => Sys2Proof.Machine.execGrantComplete s
  | .heartbeat => Sys2Proof.Machine.execHeartbeat s
  | .dieDead => Sys2Proof.Machine.execDieDead s
  | .egoFrontEnd => Sys2Proof.Machine.execEgoFrontEnd s
  | .egoResend => Sys2Proof.Machine.execEgoResend s
  | .tailwFill => Sys2Proof.Machine.execTailwFill s
  | .arbiterStart => Sys2Proof.Machine.execArbiterStart s
  | .copy => Sys2Proof.Machine.execCopy s
  | .reduceAdd => Sys2Proof.Machine.execReduceAdd s
  | .multicast => Sys2Proof.Machine.execMulticast s
  | .compress => Sys2Proof.Machine.execCompress s
  | .engineCommandComplete => Sys2Proof.Machine.execEngineCommandComplete s
  | .ecfgSet => Sys2Proof.Machine.execEcfgSet s
  | .ecfgResume => Sys2Proof.Machine.execEcfgResume s
  | .ecancelRequest => Sys2Proof.Machine.execEcancelRequest s
  | .mmaCommand => Sys2Proof.Machine.execMmaCommand s
  | .mmaResult => Sys2Proof.Machine.execMmaResult s
  | .mzeroCommand => Sys2Proof.Machine.execMzeroCommand s
  | .mstRead => Sys2Proof.Machine.execMstRead s
  | .hoopStart => Sys2Proof.Machine.execHoopStart s
  | .hoopTimeout => Sys2Proof.Machine.execHoopTimeout s
  | .firstUseTrapEnd => Sys2Proof.Machine.execFirstUseTrapEnd s
  | .slotEdge => Sys2Proof.Machine.execSlotEdge s
  | .slotHandover => Sys2Proof.Machine.execSlotHandover s
  | .overrun => Sys2Proof.Machine.execOverrun s
  | .donation => Sys2Proof.Machine.execDonation s
  | .frameBoundary => Sys2Proof.Machine.execFrameBoundary s
  | .logSeal => Sys2Proof.Machine.execLogSeal s
  | .powerWindow => Sys2Proof.Machine.execPowerWindow s
  | .pmbusLimit => Sys2Proof.Machine.execPmbusLimit s
  | .set => Sys2Proof.Machine.execSet s
  | .remapCore => Sys2Proof.Machine.execRemapCore s
  | .remapVault => Sys2Proof.Machine.execRemapVault s
  | .remapSlice => Sys2Proof.Machine.execRemapSlice s
  | .range => Sys2Proof.Machine.execRange s
  | .weave => Sys2Proof.Machine.execWeave s
  | .policy => Sys2Proof.Machine.execPolicy s
  | .unfence => Sys2Proof.Machine.execUnfence s
  | .attest => Sys2Proof.Machine.execAttest s
  | .window => Sys2Proof.Machine.execWindow s
  | .diefence => Sys2Proof.Machine.execDiefence s
  | .diejoin => Sys2Proof.Machine.execDiejoin s
  | .chanrecal => Sys2Proof.Machine.execChanrecal s
  | .fwstage => Sys2Proof.Machine.execFwstage s
  | .fwswitch => Sys2Proof.Machine.execFwswitch s
  | .pair => Sys2Proof.Machine.execPair s
  | .rect => Sys2Proof.Machine.execRect s
  | .debugSetBreakpoint => Sys2Proof.Machine.execDebugSetBreakpoint s
  | .debugClearBreakpoint => Sys2Proof.Machine.execDebugClearBreakpoint s
  | .debugStop => Sys2Proof.Machine.execDebugStop s
  | .debugResume => Sys2Proof.Machine.execDebugResume s
  | .debugReadRegisters => Sys2Proof.Machine.execDebugReadRegisters s
  | .debugWriteRegisters => Sys2Proof.Machine.execDebugWriteRegisters s
  | .trace => Sys2Proof.Machine.execTrace s
  | .ptloadLidAnswer => Sys2Proof.Machine.execPtloadLidAnswer s
  | .handleRead => Sys2Proof.Machine.execHandleRead s
  | .handleWrite => Sys2Proof.Machine.execHandleWrite s
  | .handleFill => Sys2Proof.Machine.execHandleFill s
  | .rimAccess => Sys2Proof.Machine.execRimAccess s
  | .rimPortFail => Sys2Proof.Machine.execRimPortFail s
  | .tamperMeshBreak => Sys2Proof.Machine.execTamperMeshBreak s
  | .voltageGlitch => Sys2Proof.Machine.execVoltageGlitch s
  | .clockGlitch => Sys2Proof.Machine.execClockGlitch s
  | .uncorrectableError => Sys2Proof.Machine.execUncorrectableError s
  | .read => Sys2Proof.Machine.execRead s
  | .write => Sys2Proof.Machine.execWrite s
  | .movi => Sys2Proof.Machine.execMovi s
  | .moviL => Sys2Proof.Machine.execMoviL s
  | .movl => Sys2Proof.Machine.execMovl s
  | .mov => Sys2Proof.Machine.execMov s
  | .null => Sys2Proof.Machine.execNull s
  | .enter => Sys2Proof.Machine.execEnter s
  | .leave => Sys2Proof.Machine.execLeave s
  | .br => Sys2Proof.Machine.execBr s
  | .call => Sys2Proof.Machine.execCall s
  | .jmp => Sys2Proof.Machine.execJmp s
  | .callr => Sys2Proof.Machine.execCallr s
  | .ret => Sys2Proof.Machine.execRet s
  | .halt => Sys2Proof.Machine.execHalt s
  | .opx => Sys2Proof.Machine.execOpx s
  | .add => Sys2Proof.Machine.execAdd s
  | .sub => Sys2Proof.Machine.execSub s
  | .neg => Sys2Proof.Machine.execNeg s
  | .addW => Sys2Proof.Machine.execAddW s
  | .subW => Sys2Proof.Machine.execSubW s
  | .addsS => Sys2Proof.Machine.execAddsS s
  | .subsS => Sys2Proof.Machine.execSubsS s
  | .addsU => Sys2Proof.Machine.execAddsU s
  | .subsU => Sys2Proof.Machine.execSubsU s
  | .addi => Sys2Proof.Machine.execAddi s
  | .mul => Sys2Proof.Machine.execMul s
  | .mulhS => Sys2Proof.Machine.execMulhS s
  | .mulhU => Sys2Proof.Machine.execMulhU s
  | .mulW => Sys2Proof.Machine.execMulW s
  | .divS => Sys2Proof.Machine.execDivS s
  | .divU => Sys2Proof.Machine.execDivU s
  | .remS => Sys2Proof.Machine.execRemS s
  | .remU => Sys2Proof.Machine.execRemU s
  | .and => Sys2Proof.Machine.execAnd s
  | .or => Sys2Proof.Machine.execOr s
  | .xor => Sys2Proof.Machine.execXor s
  | .andn => Sys2Proof.Machine.execAndn s
  | .orn => Sys2Proof.Machine.execOrn s
  | .xnor => Sys2Proof.Machine.execXnor s
  | .not => Sys2Proof.Machine.execNot s
  | .andi => Sys2Proof.Machine.execAndi s
  | .ori => Sys2Proof.Machine.execOri s
  | .xori => Sys2Proof.Machine.execXori s
  | .shl => Sys2Proof.Machine.execShl s
  | .shr => Sys2Proof.Machine.execShr s
  | .sar => Sys2Proof.Machine.execSar s
  | .rol => Sys2Proof.Machine.execRol s
  | .ror => Sys2Proof.Machine.execRor s
  | .shli => Sys2Proof.Machine.execShli s
  | .shri => Sys2Proof.Machine.execShri s
  | .sari => Sys2Proof.Machine.execSari s
  | .roli => Sys2Proof.Machine.execRoli s
  | .rori => Sys2Proof.Machine.execRori s
  | .clz => Sys2Proof.Machine.execClz s
  | .ctz => Sys2Proof.Machine.execCtz s
  | .popc => Sys2Proof.Machine.execPopc s
  | .brev => Sys2Proof.Machine.execBrev s
  | .bswap => Sys2Proof.Machine.execBswap s
  | .sextB => Sys2Proof.Machine.execSextB s
  | .sextH => Sys2Proof.Machine.execSextH s
  | .sextW => Sys2Proof.Machine.execSextW s
  | .zextB => Sys2Proof.Machine.execZextB s
  | .zextH => Sys2Proof.Machine.execZextH s
  | .zextW => Sys2Proof.Machine.execZextW s
  | .bfxU => Sys2Proof.Machine.execBfxU s
  | .bfxS => Sys2Proof.Machine.execBfxS s
  | .bfi => Sys2Proof.Machine.execBfi s
  | .minS => Sys2Proof.Machine.execMinS s
  | .maxS => Sys2Proof.Machine.execMaxS s
  | .minU => Sys2Proof.Machine.execMinU s
  | .maxU => Sys2Proof.Machine.execMaxU s
  | .cmp => Sys2Proof.Machine.execCmp s
  | .cmpi => Sys2Proof.Machine.execCmpi s
  | .sel => Sys2Proof.Machine.execSel s
  | .pand => Sys2Proof.Machine.execPand s
  | .por => Sys2Proof.Machine.execPor s
  | .pxor => Sys2Proof.Machine.execPxor s
  | .pnot => Sys2Proof.Machine.execPnot s
  | .packp => Sys2Proof.Machine.execPackp s
  | .unpkp => Sys2Proof.Machine.execUnpkp s
  | .addsc => Sys2Proof.Machine.execAddsc s
  | .fadd => Sys2Proof.Machine.execFadd s
  | .fsub => Sys2Proof.Machine.execFsub s
  | .fmul => Sys2Proof.Machine.execFmul s
  | .fdiv => Sys2Proof.Machine.execFdiv s
  | .fmin => Sys2Proof.Machine.execFmin s
  | .fmax => Sys2Proof.Machine.execFmax s
  | .fsqrt => Sys2Proof.Machine.execFsqrt s
  | .fabs => Sys2Proof.Machine.execFabs s
  | .fneg => Sys2Proof.Machine.execFneg s
  | .fcpys => Sys2Proof.Machine.execFcpys s
  | .fma => Sys2Proof.Machine.execFma s
  | .fms => Sys2Proof.Machine.execFms s
  | .fnma => Sys2Proof.Machine.execFnma s
  | .fnms => Sys2Proof.Machine.execFnms s
  | .fcmp => Sys2Proof.Machine.execFcmp s
  | .fcvt => Sys2Proof.Machine.execFcvt s
  | .fclass => Sys2Proof.Machine.execFclass s
  | .fseed => Sys2Proof.Machine.execFseed s
  | .vfadd => Sys2Proof.Machine.execVfadd s
  | .vfsub => Sys2Proof.Machine.execVfsub s
  | .vfmul => Sys2Proof.Machine.execVfmul s
  | .vfdiv => Sys2Proof.Machine.execVfdiv s
  | .vfmin => Sys2Proof.Machine.execVfmin s
  | .vfmax => Sys2Proof.Machine.execVfmax s
  | .vfabs => Sys2Proof.Machine.execVfabs s
  | .vfneg => Sys2Proof.Machine.execVfneg s
  | .vfma => Sys2Proof.Machine.execVfma s
  | .vfms => Sys2Proof.Machine.execVfms s
  | .vfnma => Sys2Proof.Machine.execVfnma s
  | .vfnms => Sys2Proof.Machine.execVfnms s
  | .vfcmp => Sys2Proof.Machine.execVfcmp s
  | .vadd => Sys2Proof.Machine.execVadd s
  | .vsub => Sys2Proof.Machine.execVsub s
  | .vmul => Sys2Proof.Machine.execVmul s
  | .vminS => Sys2Proof.Machine.execVminS s
  | .vmaxS => Sys2Proof.Machine.execVmaxS s
  | .vminU => Sys2Proof.Machine.execVminU s
  | .vmaxU => Sys2Proof.Machine.execVmaxU s
  | .vabsd => Sys2Proof.Machine.execVabsd s
  | .vaddsS => Sys2Proof.Machine.execVaddsS s
  | .vaddsU => Sys2Proof.Machine.execVaddsU s
  | .vsubsS => Sys2Proof.Machine.execVsubsS s
  | .vsubsU => Sys2Proof.Machine.execVsubsU s
  | .vand => Sys2Proof.Machine.execVand s
  | .vor => Sys2Proof.Machine.execVor s
  | .vxor => Sys2Proof.Machine.execVxor s
  | .vandn => Sys2Proof.Machine.execVandn s
  | .vnot => Sys2Proof.Machine.execVnot s
  | .vshl => Sys2Proof.Machine.execVshl s
  | .vshr => Sys2Proof.Machine.execVshr s
  | .vsar => Sys2Proof.Machine.execVsar s
  | .vicmp => Sys2Proof.Machine.execVicmp s
  | .vsel => Sys2Proof.Machine.execVsel s
  | .vredRsumF => Sys2Proof.Machine.execVredRsumF s
  | .vredRmaxF => Sys2Proof.Machine.execVredRmaxF s
  | .vredRminF => Sys2Proof.Machine.execVredRminF s
  | .vredRsumW => Sys2Proof.Machine.execVredRsumW s
  | .vredRsumD => Sys2Proof.Machine.execVredRsumD s
  | .vredRmaxW => Sys2Proof.Machine.execVredRmaxW s
  | .vredRminW => Sys2Proof.Machine.execVredRminW s
  | .vperm => Sys2Proof.Machine.execVperm s
  | .vshuf => Sys2Proof.Machine.execVshuf s
  | .vrot => Sys2Proof.Machine.execVrot s
  | .vzipLo => Sys2Proof.Machine.execVzipLo s
  | .vzipHi => Sys2Proof.Machine.execVzipHi s
  | .vuzpEv => Sys2Proof.Machine.execVuzpEv s
  | .vuzpOd => Sys2Proof.Machine.execVuzpOd s
  | .vbcast => Sys2Proof.Machine.execVbcast s
  | .vext => Sys2Proof.Machine.execVext s
  | .vins => Sys2Proof.Machine.execVins s
  | .vcvt => Sys2Proof.Machine.execVcvt s
  | .vdotSs => Sys2Proof.Machine.execVdotSs s
  | .vdotSu => Sys2Proof.Machine.execVdotSu s
  | .vdotUu => Sys2Proof.Machine.execVdotUu s
  | .vexp2 => Sys2Proof.Machine.execVexp2 s
  | .vlog2 => Sys2Proof.Machine.execVlog2 s
  | .vrcp => Sys2Proof.Machine.execVrcp s
  | .vrsqrt => Sys2Proof.Machine.execVrsqrt s
  | .vsin => Sys2Proof.Machine.execVsin s
  | .vcos => Sys2Proof.Machine.execVcos s
  | .vtanh => Sys2Proof.Machine.execVtanh s
  | .vsigm => Sys2Proof.Machine.execVsigm s
  | .verf => Sys2Proof.Machine.execVerf s
  | .tunpk => Sys2Proof.Machine.execTunpk s
  | .vpackHW => Sys2Proof.Machine.execVpackHW s
  | .vpackBW => Sys2Proof.Machine.execVpackBW s
  | .vpackBH => Sys2Proof.Machine.execVpackBH s
  | .vunpkHB => Sys2Proof.Machine.execVunpkHB s
  | .vunpkWB => Sys2Proof.Machine.execVunpkWB s
  | .vunpkWH => Sys2Proof.Machine.execVunpkWH s
  | .vunpkHBu => Sys2Proof.Machine.execVunpkHBu s
  | .vunpkWBu => Sys2Proof.Machine.execVunpkWBu s
  | .vunpkWHu => Sys2Proof.Machine.execVunpkWHu s
  | .vpand => Sys2Proof.Machine.execVpand s
  | .vpor => Sys2Proof.Machine.execVpor s
  | .vpxor => Sys2Proof.Machine.execVpxor s
  | .vpnot => Sys2Proof.Machine.execVpnot s
  | .vpcnt => Sys2Proof.Machine.execVpcnt s
  | .vpfirst => Sys2Proof.Machine.execVpfirst s
  | .sbind => Sys2Proof.Machine.execSbind s
  | .sfree => Sys2Proof.Machine.execSfree s
  | .sstat => Sys2Proof.Machine.execSstat s
  | .vmovi => Sys2Proof.Machine.execVmovi s
  | .ldB => Sys2Proof.Machine.execLdB s
  | .ldBu => Sys2Proof.Machine.execLdBu s
  | .ldH => Sys2Proof.Machine.execLdH s
  | .ldHu => Sys2Proof.Machine.execLdHu s
  | .ldW => Sys2Proof.Machine.execLdW s
  | .ldWu => Sys2Proof.Machine.execLdWu s
  | .ldD => Sys2Proof.Machine.execLdD s
  | .stB => Sys2Proof.Machine.execStB s
  | .stH => Sys2Proof.Machine.execStH s
  | .stW => Sys2Proof.Machine.execStW s
  | .stD => Sys2Proof.Machine.execStD s
  | .ldacqW => Sys2Proof.Machine.execLdacqW s
  | .ldacqWu => Sys2Proof.Machine.execLdacqWu s
  | .ldacqD => Sys2Proof.Machine.execLdacqD s
  | .strelW => Sys2Proof.Machine.execStrelW s
  | .strelD => Sys2Proof.Machine.execStrelD s
  | .vld => Sys2Proof.Machine.execVld s
  | .vldb => Sys2Proof.Machine.execVldb s
  | .vgathW => Sys2Proof.Machine.execVgathW s
  | .vgathD => Sys2Proof.Machine.execVgathD s
  | .vst => Sys2Proof.Machine.execVst s
  | .vscatW => Sys2Proof.Machine.execVscatW s
  | .vscatD => Sys2Proof.Machine.execVscatD s
  | .ldfw => Sys2Proof.Machine.execLdfw s
  | .ldfwe => Sys2Proof.Machine.execLdfwe s
  | .ldfn => Sys2Proof.Machine.execLdfn s
  | .ldfne => Sys2Proof.Machine.execLdfne s
  | .stfw => Sys2Proof.Machine.execStfw s
  | .stfn => Sys2Proof.Machine.execStfn s
  | .fepurge => Sys2Proof.Machine.execFepurge s
  | .fefill => Sys2Proof.Machine.execFefill s
  | .amoSwap => Sys2Proof.Machine.execAmoSwap s
  | .amoAdd => Sys2Proof.Machine.execAmoAdd s
  | .amoAnd => Sys2Proof.Machine.execAmoAnd s
  | .amoOr => Sys2Proof.Machine.execAmoOr s
  | .amoXor => Sys2Proof.Machine.execAmoXor s
  | .amoMinS => Sys2Proof.Machine.execAmoMinS s
  | .amoMaxS => Sys2Proof.Machine.execAmoMaxS s
  | .amoMaxU => Sys2Proof.Machine.execAmoMaxU s
  | .casW => Sys2Proof.Machine.execCasW s
  | .casD => Sys2Proof.Machine.execCasD s
  | .casQ => Sys2Proof.Machine.execCasQ s
  | .fenceAcq => Sys2Proof.Machine.execFenceAcq s
  | .fenceRel => Sys2Proof.Machine.execFenceRel s
  | .fenceFull => Sys2Proof.Machine.execFenceFull s
  | .harvest => Sys2Proof.Machine.execHarvest s
  | .mprobe => Sys2Proof.Machine.execMprobe s
  | .minsert => Sys2Proof.Machine.execMinsert s
  | .mupsert => Sys2Proof.Machine.execMupsert s
  | .mremove => Sys2Proof.Machine.execMremove s
  | .mcreate => Sys2Proof.Machine.execMcreate s
  | .mdestroy => Sys2Proof.Machine.execMdestroy s
  | .mstat => Sys2Proof.Machine.execMstat s
  | .migr => Sys2Proof.Machine.execMigr s
  | .spawn => Sys2Proof.Machine.execSpawn s
  | .spawnw => Sys2Proof.Machine.execSpawnw s
  | .send => Sys2Proof.Machine.execSend s
  | .sendNw => Sys2Proof.Machine.execSendNw s
  | .recv => Sys2Proof.Machine.execRecv s
  | .recvNw => Sys2Proof.Machine.execRecvNw s
  | .mkcont => Sys2Proof.Machine.execMkcont s
  | .yield => Sys2Proof.Machine.execYield s
  | .gnew => Sys2Proof.Machine.execGnew s
  | .gjoin => Sys2Proof.Machine.execGjoin s
  | .gleave => Sys2Proof.Machine.execGleave s
  | .bar => Sys2Proof.Machine.execBar s
  | .barNw => Sys2Proof.Machine.execBarNw s
  | .launch => Sys2Proof.Machine.execLaunch s
  | .launchi => Sys2Proof.Machine.execLaunchi s
  | .mgath => Sys2Proof.Machine.execMgath s
  | .mldb => Sys2Proof.Machine.execMldb s
  | .mmaEfp8 => Sys2Proof.Machine.execMmaEfp8 s
  | .mmaE4 => Sys2Proof.Machine.execMmaE4 s
  | .mmaE5 => Sys2Proof.Machine.execMmaE5 s
  | .mmaI8 => Sys2Proof.Machine.execMmaI8 s
  | .mmaBf => Sys2Proof.Machine.execMmaBf s
  | .mmaH => Sys2Proof.Machine.execMmaH s
  | .mzero => Sys2Proof.Machine.execMzero s
  | .mst => Sys2Proof.Machine.execMst s
  | .mstBf => Sys2Proof.Machine.execMstBf s
  | .mgang => Sys2Proof.Machine.execMgang s
  | .ecfg => Sys2Proof.Machine.execEcfg s
  | .ego => Sys2Proof.Machine.execEgo s
  | .ecancel => Sys2Proof.Machine.execEcancel s
  | .brk => Sys2Proof.Machine.execBrk s
  | .tlbinv => Sys2Proof.Machine.execTlbinv s
  | .tlbinva => Sys2Proof.Machine.execTlbinva s
  | .dcflush => Sys2Proof.Machine.execDcflush s
  | .dcinv => Sys2Proof.Machine.execDcinv s
  | .icinv => Sys2Proof.Machine.execIcinv s
  | .ptload => Sys2Proof.Machine.execPtload s
  | .ctrrd => Sys2Proof.Machine.execCtrrd s
  | .svc => Sys2Proof.Machine.execSvc s
  | .trap => Sys2Proof.Machine.execTrap s
  | .eret => Sys2Proof.Machine.execEret s
  | .srrd => Sys2Proof.Machine.execSrrd s
  | .srwr => Sys2Proof.Machine.execSrwr s
  | .srPartPre => Sys2Proof.Machine.execSrPartPre s
  | .remapReissue => Sys2Proof.Machine.execRemapReissue s
  | .rimPortUp => Sys2Proof.Machine.execRimPortUp s
  | .backInService => Sys2Proof.Machine.execBackInService s
  | .firmwareSwitched => Sys2Proof.Machine.execFirmwareSwitched s
  | .rateQuotaCrossed => Sys2Proof.Machine.execRateQuotaCrossed s
  | .signedImageLoad => Sys2Proof.Machine.execSignedImageLoad s
  | .frameAssign => Sys2Proof.Machine.execFrameAssign s
  | .tenantCreate => Sys2Proof.Machine.execTenantCreate s
  | .partitionCreate => Sys2Proof.Machine.execPartitionCreate s

end Sys2Proof.Machine
end

