-- ==== Sys2Proof/Machine/Policy.lean ====
section
/-!
DEFINITION. Machine/Policy: what comes next. A core's search (R36 to R38, R376), and, where the agenda names nothing, the order in
which the model takes the steps that are due (log entries 1 and 10).
-/
namespace Sys2Proof.Machine

/-- A step's next state. -/
def nextOf : Out → Option State
  | .next s => some s
  | _ => none

/-- A step that is taken with arguments. -/
def State.take (s : State) (row : Instr) (f : Focus) : Option State := nextOf (exec row { s with focus := f })

/-! ## The search of a core (R18, R36 to R38, R376) -/

/-- The slots in the order in which a search examines them. -/
def searchOrder (last : Nat) : List Nat := (List.range 16).map fun i => (last + 1 + i) % 16

/-- An entry that goes on without an issue cycle: what a reply, a walk or its condition lets go on, and the forms that take none (R37,
R48, R90, R99). -/
def Entry.carries (e : Entry) : Bool := e.phase == .retry || e.phase == .held || e.insn.unissued

/-- What goes on in a slot without an issue cycle. -/
def State.carryFrom (s : State) (c k : Nat) : Option State :=
  match (s.slot c k).blk with
  | none => none
  | some b => b.body.zipIdx.findSome? fun e => if e.1.carries then s.take e.1.insn.row { c := c, k := k, i := e.2 } else none

/-- What goes on in a core without an issue cycle. -/
def State.carry (s : State) (c : Nat) : Option State := (List.range 16).findSome? fun k => s.carryFrom c k

/-- The instruction of a slot that issues: the ready, unfired one of lowest index. -/
def State.issueFrom (s : State) (c k : Nat) : Option State :=
  match (s.slot c k).blk with
  | none => none
  | some b => b.body.zipIdx.findSome? fun e => if e.1.carries then none else s.take e.1.insn.row { c := c, k := k, i := e.2 }

/-- What a slot does when the search reaches it: an outgoing slot is handed over, another one issues. -/
def State.reached (s : State) (c k : Nat) : Option State :=
  let x := s.slot c k
  if x.drain then none else if x.handed.isSome then s.take .slotHandover { c := c, k := k } else s.issueFrom c k

/-- What a core's search comes to: the first slot in order that is handed over or issues; else a draining block issues. -/
def State.search (s : State) (c : Nat) : Option State :=
  let ks := searchOrder (s.core c).s
  match ks.findSome? fun k => s.reached c k with
  | some s => some s
  | none => ks.findSome? fun k => if (s.slot c k).drain then s.issueFrom c k else none

/-- The core's search of this clk has come to its end. -/
def State.searchEnds (s : State) (c : Nat) : State := s.modCore c fun k => { k with searched := some s.cycle }

/-- A core's turn in a clk: what needs no issue cycle goes on; then its one search of the clk, which goes on past the slots it
hands over until it issues or no slot is ready (R36, R38). A power window that has ended restarts first (R404). -/
def State.searchStep (s : State) (c : Nat) (rest : List Move) : State :=
  let s := if s.windowEnded c then s.freshWindow c else s
  match s.carry c with
  | some t => { t with agenda := .issue c :: rest }
  | none =>
    if (s.core c).searched = some s.cycle then { s with agenda := rest }
    else match s.search c with
      | none => { s.searchEnds c with agenda := rest }
      | some t => if (t.core c).issuedAt = some t.cycle then { t.searchEnds c with agenda := rest } else { t with agenda := .issue c :: rest }

/-! ## What a clk does not end without (R27, R36, R57, R313, R376, R378, R381, R382, R404) -/

/-- A line of a block that a core holds in its instruction cache and can translate. -/
def State.lineHeld (s : State) (c t : Nat) (va : Word) : Option (BitVec 512) :=
  match s.fetchXl c t none va with
  | .ok pa _ _ => ((s.core c).icache.find? fun x => x.1 == pa / 64).map (·.2)
  | _ => none

/-- Whether a core holds every line of the block at an address. -/
def State.blockHeld (s : State) (c t : Nat) (pc : Word) : Bool :=
  match s.lineHeld c t pc with
  | none => false
  | some l => (List.range (if lineB l then lineCount l - 1 else 0)).all fun i => (s.lineHeld c t (pc + BitVec.ofNat 64 (64 * (i + 1)))).isSome

/-- Whether a slot has something that falls in this clk: the commit of a complete block, the decode of a block that the core holds,
in the clk after the commit before it, an OVERRUN. -/
def State.slotDue (s : State) (c k : Nat) : Bool :=
  let x := s.slot c k
  match x.ctx, x.blk with
  | some _, some _ => (s.take .blockCommit { c := c, k := k }).isSome || (s.take .overrun { c := c, k := k }).isSome
  | some y, none => y.clk < s.cycle && s.blockHeld c y.ten y.pc && (s.take .blockDecode { c := c, k := k }).isSome
  | none, _ => false

/-- Whether a core has done what falls in this clk: its search, what its slots have due, a donation, the gating of a tenant over its power
budget. -/
def State.coreDone (s : State) (c : Nat) : Bool :=
  (s.take .donation { n := c }).isNone && (s.windowEnded c || (s.core c).winIssue.all fun x => !s.overBudget c x.1) && (s.carry c).isNone && ((s.core c).searched == some s.cycle || (s.search c).isNone) && (List.range 16).all fun k => !s.slotDue c k

/-- Whether every core has, every flush of the L2 that was to end (R377), every mma whose wait at a Hoop has run out (R313), and every rate
quota that was crossed (R382). -/
def State.clkDone (s : State) : Bool :=
  !s.flushDue && (s.cores.all fun c => s.coreDone c.1) && (s.hoop.all fun e => (s.take .hoopTimeout { n := e.core, m := e.cmd.tt }).isNone) &&
    s.tenants.all fun t => [0, 6, 7, 8].all fun q => (s.take .rateQuotaCrossed { n := t.1, m := q }).isNone

/-! ## Steps that are due -/

/-- Whether the slot edge or the frame boundary of this clk is still to be taken (R372, R376, R385). -/
def State.edgeDue (s : State) : Bool :=
  s.lid.stage.isSome && s.cycle % Config.slotClk == 0 &&
    (s.lid.edgeAt != some s.cycle || (s.cycle % Config.frameClk == 0 && s.lid.frameAt != some s.cycle))

/-- Rows that serve a packet. -/
def Pkt.rows : Pkt → List Instr
  | .reply _ _ _ _ _ _ _ => [.memoryReply]
  | .inv _ _ _ => [.invalidationReceived]
  | .ack _ _ => [.acki, .acku, .rack]
  | .replUpd _ _ _ => [.replw]
  | .store _ _ _ _ _ => [.homeStoreAccept, .remapReissue]
  | .fe _ => [.homeFeRequest, .waitRetryTimer, .remapReissue]
  | .amo _ _ _ _ _ _ _ _ _ => [.homeAmo, .remapReissue]
  | .cas _ _ _ _ _ _ _ _ _ => [.homeCas, .remapReissue]
  | .walk _ _ _ => [.walkRequest, .walkResend]
  | .map _ => [.mapEngineRequest]
  | .count _ _ _ _ => [.descriptorCount]
  | .migr _ _ _ _ => [.migrationArrival, .migrationResend]
  | .msg _ => [.deliver, .handlerStart, .sendResend]
  | .spawn _ _ _ _ _ _ _ => [.spawnRequest, .spawnwResend]
  | .join _ _ _ _ _ _ => [.setJoinHome]
  | .leave _ _ _ _ _ _ => [.setLeaveHome]
  | .arrive _ _ _ _ _ _ _ _ => [.barrierArrive]
  | .stands _ _ _ _ => [.barrierArrive]
  | .refused _ _ _ => [.gjoinRefused]
  | .launch _ _ _ => [.launchRequestAccept, .launchResend]
  | .ego _ _ _ _ _ _ _ _ _ _ => [.egoFrontEnd, .egoResend]
  | .ecfg _ _ _ _ _ _ _ _ => [.ecfgSet, .ecfgResume]
  | .ecancel _ _ _ _ _ _ => [.ecancelRequest]
  | .tailw _ _ _ => [.tailwFill]
  | .ptload _ _ _ _ _ => [.ptloadLidAnswer]
  | .resume _ _ => [.resumeFill]

/-- A step and its arguments. -/
abbrev Cand := Instr × Focus

/-- The edge of this clk. -/
def State.edgeCands (s : State) : List Cand :=
  if s.edgeDue then [(Instr.slotEdge, ({} : Focus)), (Instr.frameBoundary, ({} : Focus))]
  else (List.range s.lid.remaps.length).flatMap fun n => [(.remapCore, { n := n, m := 1 }), (.remapVault, { n := n, m := 1 }), (.remapSlice, { n := n, m := 1 })]

/-- What is in flight and what waits at homes and walkers. -/
def State.flightCands (s : State) : List Cand :=
  (s.reqs.zipIdx.flatMap fun (r : Req × Nat) => r.1.pkt.rows.map fun row => (row, ({ n := r.2 } : Focus))) ++
  ((List.range s.peq.length).flatMap fun n => [Instr.rd, Instr.wr, Instr.sa, Instr.rrd, Instr.evict].map fun row => (row, ({ n := n } : Focus))) ++
  ((List.range s.widen.length).map fun n => (Instr.wideningDrain, ({ n := n } : Focus))) ++
  ((List.range s.walks.length).map fun n => (Instr.walkDone, ({ n := n } : Focus)))

/-- What a core does beside issuing. -/
def Core.cands (c : Nat) (q : Core) : List Cand :=
  (q.slots.flatMap fun (k : Nat × Slot) =>
    [Instr.overrun, Instr.blockCommit, Instr.blockDecode, Instr.srPartPre, Instr.firstUseTrapEnd].map (fun row => (row, ({ c := c, k := k.1 } : Focus))) ++
      match k.2.blk with
      | some b => (List.range b.body.length).map fun i => (Instr.mstRead, { c := c, k := k.1, i := i })
      | none => []) ++
  ([Instr.storeQueueDepart, Instr.mmaCommand, Instr.mzeroCommand, Instr.arrivalQueueAdvance, Instr.slotFill, Instr.contextDisplace, Instr.messageWaitSwap,
    Instr.donation].map fun row => (row, ({ n := c } : Focus))) ++
  ((List.range 4).flatMap fun t => [Instr.mmaResult, Instr.hoopTimeout].map fun row => (row, ({ n := c, m := t } : Focus))) ++
  ((if q.gated.isEmpty then [] else [33]) ++ q.winIssue.map (fun (x : Nat × Nat) => x.1)).map fun t => (Instr.powerWindow, ({ n := c, m := t } : Focus))

/-- What the dispatchers, engines, map engines and the Hoop do. -/
def State.agentCands (s : State) : List Cand :=
  (s.hoop.map fun (e : HoopEnt) => (Instr.hoopStart, ({ n := e.row, m := e.cmd.tt } : Focus))) ++
  (s.tenants.flatMap fun (t : Nat × Tenant) =>
    (t.2.rings.map fun (r : Nat × Ring) => (Instr.launchRecordAccept, ({ n := t.1, m := r.1 } : Focus))) ++
    (t.2.maps.map fun (m : Nat × MapObj) => (Instr.splitStep, ({ n := t.1, m := m.1 } : Focus))) ++
    [0, 6, 7, 8].map fun q => (Instr.rateQuotaCrossed, { n := t.1, m := q })) ++
  (s.launches.flatMap fun (l : Nat × Launch) =>
    (Instr.dispatchBegin, ({ n := l.1 } : Focus)) ::
      (if l.2.owes then [(Instr.grantComplete, ({ n := l.1 } : Focus))] else []) ++
      ((l.2.grants.filter fun g => (s.dieHere g.2.1).isSome).map fun g => (Instr.grantComplete, ({ n := l.1, m := g.1 } : Focus))) ++
      ((List.range 4).map (s.lid.package * 4 + ·)).flatMap fun d => [(Instr.grant, { n := l.1, m := d }), (Instr.grantRequest, { n := l.1, m := d })]) ++
  (s.engines.flatMap fun (e : Nat × Engine) => (Instr.arbiterStart, ({ n := e.1 } : Focus)) ::
    e.2.shadows.flatMap fun (x : Nat × EngCmd) =>
      [Instr.copy, Instr.reduceAdd, Instr.multicast, Instr.compress].map (fun row => (row, ({ m := x.1, k := x.2.did.length } : Focus))) ++
        [(Instr.engineCommandComplete, { n := e.1, m := x.1 })])

/-- The Lid's mailboxes and its log. -/
def State.lidCands (s : State) : List Cand :=
  (s.parts.flatMap fun (p : Nat × Part) =>
    [Instr.set, Instr.remapCore, Instr.remapSlice, Instr.remapVault, Instr.range, Instr.weave, Instr.policy, Instr.unfence, Instr.attest, Instr.window, Instr.diefence,
     Instr.diejoin, Instr.chanrecal, Instr.fwstage, Instr.fwswitch, Instr.pair, Instr.rect, Instr.debugSetBreakpoint, Instr.debugClearBreakpoint, Instr.debugStop,
     Instr.debugResume, Instr.debugReadRegisters, Instr.debugWriteRegisters, Instr.trace].map fun row => (row, ({ n := p.1 } : Focus))) ++ [(Instr.logSeal, ({} : Focus))]

/-- Every step that may be due, in the model's order. What the outside world does is never due by itself. -/
def State.cands (s : State) : List Cand :=
  s.edgeCands ++ s.flightCands ++ (s.cores.flatMap fun (c : Nat × Core) => c.2.cands c.1) ++ s.agentCands ++ s.lidCands

/-- The default where the agenda is empty: the first step that is due; else what goes on in a core without an issue cycle; else the
search of the first core that has not searched in this clk; else a clk passes. -/
def State.byDefault (s : State) : State :=
  match s.cands.findSome? fun x => s.take x.1 x.2 with
  | some t => t
  | none =>
    match s.cores.findSome? fun c => if (s.carry c.1).isSome || (s.core c.1).searched != some s.cycle then some c.1 else none with
    | some c => s.searchStep c []
    | none => s.tick

/-! ## The first instruction (log entry 3) -/

/-- An instruction with its operands' tokens: 0 in a and b, 1 in p. -/
def loaded (i : Insn) : Entry :=
  { insn := i, a := if i.uses .a then some ⟨.sc 0, 0⟩ else none, b := if i.uses .b then some ⟨.sc 0, 0⟩ else none, p := if i.uses .p then some ⟨.sc 1, 0⟩ else none }

/-- An opx that carries c. -/
def opxInsn : Insn := ⟨.opx, ⟨0, .always, 0, 0, 0, 0, [], 0⟩⟩
/-- A three-input form that an opx stands behind. -/
def threeInsn : Insn := ⟨.fma, ⟨0, .always, 0, 0, 0, 0, [], 0⟩⟩

/-- The block that runs one instruction: a three-input form has its opx after it, which has carried c to it, and an opx the form it extends
before it. -/
def blockBody (i : Insn) : List Entry :=
  if i.row = .opx then [{ insn := threeInsn }, { insn := i, a := some ⟨.sc 0, 0⟩ }]
  else if i.three then [loaded i, { insn := opxInsn, a := some ⟨.sc 0, 0⟩, phase := .done }]
  else [loaded i]

/-- The thread that runs it: a supervisor thread, context number 1 of tenant 1, with a trap link and a message delivered. -/
def firstCtx (s : State) : Ctx :=
  { id := s.nextId, pc := 0, tag := 2049, link := some 0, mdl := true, rdy := true, clk := s.cycle }

/-- A state whose core 0 holds that thread, the instruction in its only block, and whose next move is core 0's issue. -/
def State.withInsn (s : State) (i : Insn) : State :=
  let b : Block := { addr := 0, rid := s.nextId + 1, lnc := 0, hdr := 0, body := blockBody i, start := s.cycle, began := s.cycle }
  let k : Core := { tag := 1, logical := 0, slots := [(0, { ctx := some (firstCtx s), blk := some b })], side := some none, winAt := s.cycle }
  { s.setCore 0 k with
    nextId := s.nextId + 2, agenda := [.issue 0], tenants := tset s.tenants 1 { part := 1, numbers := [1], debug := true },
    parts := tset s.parts 1 { cores := [0], slices := [0, 1], vaults := [0, 1], svten := 1 },
    lid := { s.lid with stage := some 2, held := false, deadDies := [], fencedDies := [], contained := [], edgeAt := some s.cycle, frameAt := some s.cycle } }

end Sys2Proof.Machine
end

