-- ==== Sys2Proof/Machine/Step.lean ====
section
/-!
DEFINITION. Machine/Step: one step of the package: what comes next, and its effect.
-/
namespace Sys2Proof.Machine

/-- What comes before everything else in an edge's clk (R376, R385). -/
def Move.opensClk : Move → Bool
  | .step .slotEdge _ => true
  | .step .frameBoundary _ => true
  | _ => false

/-- One move. An instruction of a block fires, and a slot is handed over, only by its core's search (R36, R38); no clk ends before
its cores have done what falls in it (R27, R36). -/
def State.move (s : State) (rest : List Move) : Move → Out
  | .issue c => .next (s.searchStep c rest)
  | .step row f => if row.form.isSome || row == .slotHandover then .fault .notEnabled else exec row { s with focus := f, agenda := rest }
  | .tick => if s.clkDone then .next ({ s with agenda := rest }).tick else .fault .notEnabled

/-- One step: the first move of the agenda, or the default where it is empty (log entries 1 and 10). Nothing else comes before the
edge of an edge clk (R376). -/
def step (s : State) : Out :=
  match s.agenda with
  | m :: rest => if s.edgeDue && !m.opensClk then .fault .notEnabled else s.move rest m
  | [] => .next s.byDefault

/-- The state in which the next step fires the instruction whose bits are w: it stands, decoded, in the block that core 0 is
about to issue from, which is where this machine fetches its next instruction (log entry 3). -/
def State.withFetchWord (s : State) (nbits w : Nat) : State :=
  match decodeTableInsn nbits w with
  | some i => s.withInsn i
  | none => s

end Sys2Proof.Machine
end

