-- ==== Sys2Proof/Safety.lean ====
section
/-!
DEFINITION. Safety: the terms the statements are made in: when an instruction fires, what it completes with, what a step
leaves unchanged, and the canonical form of memory.
-/
namespace Sys2Proof.Machine

/-- The memory is in its canonical form. -/
def State.sound (s : State) : Bool := memWf s.mem

/-- The instruction at the focus is of a row and may fire: its slot is in the rotation, its block has begun, its tokens have
come, and its core has not issued in this clk (R17, R36, R37). -/
abbrev Fires (s : State) (h : Here) (row : Instr) : Prop :=
  s.here = some h ∧ h.e.insn.row = row ∧ s.mayFire h = true

/-- Its predicate is on and no scalar operand that it uses is a null; a slot it does not use reads as 0 (R19, R20). -/
abbrev Live (h : Here) (a b c : Word) : Prop := h.pOn = true ∧ h.a = some a ∧ h.bb = some b ∧ h.cc = some c

/-- Its predicate is off, or a scalar operand that it uses is a null (R19, R20). -/
abbrev Nulled (h : Here) : Prop := h.pOn = false ∨ h.a = none ∨ h.bb = none ∨ h.cc = none

/-- A form completes, on every live operand, with one scalar value after lat clk, and raises no flag. -/
abbrev Gives (row : Instr) (lat : Nat) (v : Here → Word → Word → Word → Word) : Prop :=
  ∀ s h a b c, Fires s h row → Live h a b c →
    exec row s = .next ((s.issue h).result h (.sc (v h a b c)) .null lat)

/-- The same, with a value that has a property. -/
abbrev GivesSuch (row : Instr) (lat : Nat) (P : Here → Word → Word → Word → Word → Prop) : Prop :=
  ∀ s h a b c, Fires s h row → Live h a b c →
    ∃ v, exec row s = .next ((s.issue h).result h (.sc v) .null lat) ∧ P h a b c v

/-- The same, with a value and sticky flags that have a property. -/
abbrev GivesFlags (row : Instr) (lat : Nat) (P : Here → Word → Word → Word → Word → BitVec 7 → Prop) : Prop :=
  ∀ s h a b c, Fires s h row → Live h a b c →
    ∃ v f, exec row s = .next (((s.issue h).flag h f).result h (.sc v) .null lat) ∧ P h a b c v f

/-- Bit i of a word, as a statement about numbers. -/
abbrev bitAt (v : Word) (i : Nat) : Bool := v.toNat.testBit i

/-- The integer condition of an FN (Table 3.7, R95). -/
def condHolds : Nat → Word → Word → Bool
  | 0, a, b => a.toNat == b.toNat
  | 1, a, b => a.toNat != b.toNat
  | 2, a, b => a.toInt < b.toInt
  | 3, a, b => a.toInt ≤ b.toInt
  | 4, a, b => b.toInt < a.toInt
  | 5, a, b => b.toInt ≤ a.toInt
  | 6, a, b => a.toNat < b.toNat
  | 7, a, b => a.toNat ≤ b.toNat
  | 8, a, b => b.toNat < a.toNat
  | 9, a, b => b.toNat ≤ a.toNat
  | 10, a, b => (List.range 64).any fun i => bitAt a i && bitAt b i
  | 11, a, b => (List.range 64).all fun i => !(bitAt a i && bitAt b i)
  | _, _, _ => false

/-- The immediate of an I16 form as a signed number (R46). -/
def Here.immS (h : Here) : Int := (h.e.insn.x.imm.truncate 16).toInt

/-- The forms that compute a scalar value from scalar operands and reach nothing but their block. -/
def scalarRows : List Instr :=
  [.movi, .moviL, .movl, .leave, .add, .sub, .neg, .addW, .subW, .addsS, .subsS, .addsU, .subsU, .addi, .mul, .mulhS, .mulhU,
   .mulW, .divS, .divU, .remS, .remU, .and, .or, .xor, .andn, .orn, .xnor, .not, .andi, .ori, .xori, .shl, .shr, .sar, .rol,
   .ror, .shli, .shri, .sari, .roli, .rori, .clz, .ctz, .popc, .brev, .bswap, .sextB, .sextH, .sextW, .zextB, .zextH, .zextW,
   .bfxU, .bfxS, .bfi, .minS, .maxS, .minU, .maxU, .cmp, .cmpi, .sel, .pand, .por, .pxor, .pnot, .packp, .unpkp, .addsc,
   .fadd, .fsub, .fmul, .fdiv, .fmin, .fmax, .fsqrt, .fabs, .fneg, .fcpys, .fma, .fms, .fnma, .fnms, .fcmp, .fclass]

/-- What no firing that stays within its block changes: everything but its core (memory, full/empty and dirty bits, what is in flight,
every table); of a core everything but s, the clk of its issue, the issue counter 0x0100 and the power window; of a slot everything
but its block (registers, status, modes, streams, exception registers); every other slot. -/
structure Untouched (s t : State) : Prop where
  rest : { t with cores := s.cores } = s
  core : ∀ c, { t.core c with s := (s.core c).s, issuedAt := (s.core c).issuedAt, ctr := (s.core c).ctr, winIssue := (s.core c).winIssue,
                              slots := (s.core c).slots } = s.core c
  counters : ∀ c n, n ≠ 0x100 → tget (t.core c).ctr n 0 = tget (s.core c).ctr n 0
  slot : ∀ c k, { t.slot c k with blk := (s.slot c k).blk } = s.slot c k
  others : ∀ c k, ¬(c = s.focus.c ∧ k = s.focus.k) → t.slot c k = s.slot c k

/-- What a memory form at h leaves as it was: everything but its core; of its core everything but s, the clk of its issue, its counters and
power window, its L1 and the fills on their way to it, and the load-value queue; of its slot everything but its block; every other slot. -/
structure Kept (s t : State) (h : Here) : Prop where
  rest : { t with cores := s.cores } = s
  cores : ∀ c, c ≠ h.c → t.core c = s.core c
  core : { t.core h.c with s := (s.core h.c).s, issuedAt := (s.core h.c).issuedAt, ctr := (s.core h.c).ctr, winIssue := (s.core h.c).winIssue,
                           slots := (s.core h.c).slots, l1 := (s.core h.c).l1, fills := (s.core h.c).fills, lvq := (s.core h.c).lvq } = s.core h.c
  slot : { t.slot h.c h.k with blk := (s.slot h.c h.k).blk } = s.slot h.c h.k
  others : ∀ k, k ≠ h.k → t.slot h.c k = s.slot h.c k

/-! ## Floating-point codes as numbers -/

/-- The rational number that a finite code of a format stands for (R117). -/
def Fmt.num (f : Fmt) (x : Nat) : ℚ :=
  let e := x / 2 ^ f.mw % 2 ^ f.ew
  let m := x % 2 ^ f.mw
  (if x / f.signBit % 2 = 1 then -1 else 1) *
    (if e = 0 then (m : ℚ) * 2 ^ (1 - (f.bias : ℤ) - f.mw) else ((2 ^ f.mw + m : Nat) : ℚ) * 2 ^ ((e : ℤ) - f.bias - f.mw))

/-- A finite code of a format. -/
abbrev Fmt.Finite (f : Fmt) (x : Nat) : Prop := x < 2 * f.signBit ∧ x % f.signBit ≤ f.maxFin

/-- A finite code r is the rounding, under a mode (0 nearest-even, 1 toward zero, 2 up, 3 down), of the exact number y of
which `le x` says x ≤ y and `ge x` says y ≤ x (R103, R131). -/
def Fmt.RoundsTo (f : Fmt) (rm : Nat) (le ge : ℚ → Prop) (r : Nat) : Prop :=
  f.Finite r ∧
  (rm = 0 → ∀ w, f.Finite w → f.num w ≠ f.num r →
    let mid := (f.num w + f.num r) / 2
    (f.num w < f.num r → le mid) ∧ (f.num r < f.num w → ge mid) ∧ (le mid ∧ ge mid → r % 2 = 0)) ∧
  (rm = 1 → (le 0 → f.num r ≤ 0 ∧ ge 0 ∨ le (f.num r) ∧ ∀ w, f.Finite w → le (f.num w) → f.num w ≤ f.num r) ∧
    (ge 0 → 0 ≤ f.num r ∧ le 0 ∨ ge (f.num r) ∧ ∀ w, f.Finite w → ge (f.num w) → f.num r ≤ f.num w)) ∧
  (rm = 2 → ge (f.num r) ∧ ∀ w, f.Finite w → ge (f.num w) → f.num r ≤ f.num w) ∧
  (rm = 3 → le (f.num r) ∧ ∀ w, f.Finite w → le (f.num w) → f.num w ≤ f.num r)

/-- The rounding of y, upwards or downwards of zero, with an exponent without bound is larger than the largest finite number: that with
exponent one more and no fraction, the next code, is its least value (R104). -/
def Fmt.Overflows (f : Fmt) (rm : Nat) (le ge : ℚ → Prop) (neg : Bool) : Prop :=
  let large := f.num f.maxFin
  let next := f.num (f.maxFin + 1)
  if neg then (if rm = 0 then ge (-((large + next) / 2)) else if rm = 3 then ¬le (-large) else ge (-next))
  else (if rm = 0 then le ((large + next) / 2) else if rm = 2 then ¬ge large else le next)

/-- Table 5.7: the code of an overflow, an infinity or the largest finite number, of a sign. -/
def Fmt.overflowCode (f : Fmt) (rm : Nat) (neg : Bool) : Nat :=
  (if rm = 0 ∨ rm = (if neg then 3 else 2) then f.maxFin + 1 else f.maxFin) + if neg then f.signBit else 0

/-- An operation's result and flags are those of the one rounding of y: where that overflows Table 5.7's code with overflow and inexact
(R104); elsewhere the finite rounding, inexact raised exactly where it is not y, and neither invalid, divide nor overflow. -/
def Fmt.Rounded (f : Fmt) (rm : Nat) (le ge : ℚ → Prop) (r : Nat × BitVec 7) : Prop :=
  (∀ neg, f.Overflows rm le ge neg → r = (f.overflowCode rm neg, 20)) ∧
  ((∀ neg, ¬f.Overflows rm le ge neg) → f.RoundsTo rm le ge r.1 ∧ (r.2.getLsbD 4 = true ↔ ¬(le (f.num r.1) ∧ ge (f.num r.1))) ∧ r.2 &&& 7 = 0)

/-- An FP32 code is a NaN; a signalling one; an infinity; a zero (R103). -/
def nan32 (x : Nat) : Bool := 0x7F800000 < x % 2 ^ 31
def snan32 (x : Nat) : Bool := nan32 x && x % 2 ^ 31 < 0x7FC00000
def inf32 (x : Nat) : Bool := x % 2 ^ 31 == 0x7F800000
def zero32 (x : Nat) : Bool := x % 2 ^ 31 == 0
def neg32 (x : Nat) : Bool := 2 ^ 31 ≤ x % 2 ^ 32

/-- The place of a code in the order of FP32 values, −0 and +0 at one place; and with −0 below +0. -/
def key32 (x : Nat) : Int := if neg32 x then -(x % 2 ^ 31 : Nat) else (x % 2 ^ 31 : Nat)
def key32z (x : Nat) : Int := if neg32 x then -(x % 2 ^ 31 : Nat) - 1 else (x % 2 ^ 31 : Nat)

/-- The FP condition of an FN (Table 3.7, R108). -/
def fcondHolds : Nat → Nat → Nat → Bool
  | 0, a, b => !(nan32 a || nan32 b) && key32 a == key32 b
  | 1, a, b => nan32 a || nan32 b || key32 a != key32 b
  | 2, a, b => !(nan32 a || nan32 b) && key32 a < key32 b
  | 3, a, b => !(nan32 a || nan32 b) && key32 a ≤ key32 b
  | 4, a, b => !(nan32 a || nan32 b) && key32 b < key32 a
  | 5, a, b => !(nan32 a || nan32 b) && key32 b ≤ key32 a
  | 6, a, b => nan32 a || nan32 b
  | 7, a, b => !(nan32 a || nan32 b)
  | _, _, _ => false

/-- Bits 31:0 of a word as a code. -/
abbrev code32 (v : Word) : Nat := v.toNat % 2 ^ 32

/-! ## Lanes -/

/-- Lane i of E bytes of a vector view, none where any of its bytes is null (R140, R141). -/
def laneAt (x : Vec × NullMask) (e i : Nat) : Option Nat :=
  if (List.range e).all fun j => !x.2.toNat.testBit (e * i + j) then some (x.1.toNat / 2 ^ (8 * e * i) % 2 ^ (8 * e)) else none

/-- What R22 makes of lane i: f of the operands' lanes where the lane is enabled and null in none of them. -/
def Here.laneOut (h : Here) (e : Nat) (f : Nat → Nat → Nat → Nat × BitVec 7) (i : Nat) : Option (Nat × BitVec 7) :=
  if h.laneOn (e * i) then
    match laneAt h.va e i, laneAt h.vb e i, laneAt h.vc e i with
    | some x, some y, some z => some (f x y z)
    | _, _, _ => none
  else none

/-- A lane form completes after lat clk, whenever R20 does not make it null as a whole, with a vector whose every lane is as
R22 says, and with the flags of the lanes computed. -/
abbrev GivesLanes (row : Instr) (lat : Nat) (e : Here → Nat) (f : Here → Nat → Nat → Nat → Nat × BitVec 7) : Prop :=
  ∀ s h, Fires s h row → h.dead true = false →
    ∃ t fl, exec row s = .next (((s.issue h).flag h fl).result h t .null lat) ∧
      (∀ i < 64 / e h, laneAt t.vector (e h) i = (h.laneOut (e h) (f h) i).map Prod.fst) ∧
      ∀ k < 7, fl.getLsbD k = (List.range (64 / e h)).any fun i => (h.laneOut (e h) (f h) i).any fun r => r.2.getLsbD k

/-- A lane form without flags, of the width that FN 1:0 gives. -/
abbrev GivesW (row : Instr) (lat : Nat) (f : Nat → Nat → Nat → Nat → Nat) : Prop :=
  GivesLanes row lat (fun h => 2 ^ (h.fn % 4)) fun h x y z => (f (8 * 2 ^ (h.fn % 4)) x y z, 0)

/-- A form without flags whose lanes are bytes. -/
abbrev GivesBytes (row : Instr) (f : Nat → Nat → Nat → Nat) : Prop := GivesLanes row 1 (fun _ => 1) fun _ x y z => (f x y z, 0)

/-- A number of n bits read as signed, and a number cut to n bits. -/
def asSigned (n x : Nat) : Int := if x < 2 ^ (n - 1) then x else (x : Int) - 2 ^ n
def cutTo (n : Nat) (x : Int) : Nat := (x % 2 ^ n).toNat

/-- The fixed tree of R139 over numbered lanes: the value of 2^d lanes from 2^d × i on; an absent half passes the other on. -/
def treeOf (f : Nat → Nat → Nat) (l : Nat → Option Nat) : Nat → Nat → Option Nat
  | 0, i => l i
  | d + 1, i =>
    match treeOf f l d (2 * i), treeOf f l d (2 * i + 1) with
    | some x, some y => some (f x y)
    | some x, none => some x
    | none, y => y

/-- Lane i of a, where it is enabled and not null. -/
def Here.presentAt (h : Here) (e i : Nat) : Option Nat := if h.laneOn (e * i) then laneAt h.va e i else none

/-- A form that moves bytes: result byte j is null where its lane of E bytes is disabled or `src` says so; else it is the byte
`src` names of a (false) or b (true), null as that byte is, or 0. -/
abbrev GivesMoved (row : Instr) (e : Nat) (src : Here → Nat → Option (Option (Bool × Nat))) : Prop :=
  ∀ s h, Fires s h row → h.dead true = false →
    ∃ t, exec row s = .next ((s.issue h).result h t .null 1) ∧
      ∀ j < 64, laneAt t.vector 1 j = if h.laneOn (e * (j / e)) then
        (match src h j with
          | none => none
          | some none => some 0
          | some (some (second, n)) => laneAt (if second then h.vb else h.va) 1 n) else none

/-- The vector forms that compute from tokens alone and reach nothing but their block. -/
def vectorRows : List Instr :=
  [.vfadd, .vfsub, .vfmul, .vfdiv, .vfmin, .vfmax, .vfabs, .vfneg, .vfma, .vfms, .vfnma, .vfnms, .vfcmp, .vadd, .vsub, .vmul,
   .vminS, .vmaxS, .vminU, .vmaxU, .vabsd, .vaddsS, .vaddsU, .vsubsS, .vsubsU, .vand, .vor, .vxor, .vandn, .vnot, .vshl, .vshr,
   .vsar, .vicmp, .vmovi, .vsel, .vpand, .vpor, .vpxor, .vpnot, .vpcnt, .vpfirst, .vredRsumF, .vredRmaxF, .vredRminF,
   .vredRsumW, .vredRsumD, .vredRmaxW, .vredRminW, .vperm, .vshuf, .vrot, .vzipLo, .vzipHi, .vuzpEv, .vuzpOd, .vbcast, .vext,
   .vpackHW, .vpackBW, .vpackBH, .vunpkHB, .vunpkWB, .vunpkWH, .vunpkHBu, .vunpkWBu, .vunpkWHu, .vdotSs, .vdotSu, .vdotUu,
   .vexp2, .vlog2, .vrcp, .vrsqrt, .vsin, .vcos, .vtanh, .vsigm, .verf]

/-- An exit that emits a value where no exit has: the block's next address (R26, R87). -/
def State.exits (s : State) (h : Here) (next : Word) : State :=
  ((s.issue h).modBlk h.c h.k fun b => { b with exits := [(h.i, next)], exitAt := s.cycle }).result h .null .null 2

/-- A fault of an instruction that its block notes (R30, R34): its earliest in time, and in one clk that of the lowest index, is kept; the
instruction emits nulls. -/
def State.notes (s : State) (h : Here) (code : Nat) (val : Word) : State :=
  ((s.issue h).modBlk h.c h.k fun b =>
    if b.post ≠ none ∧ (b.postAt.1 < s.cycle ∨ b.postAt.2 ≤ h.i) then b else { b with post := some ⟨code, val⟩, postAt := (s.cycle, h.i) }).result h .null .null 1

/-! ## Memory forms -/

/-- n bytes of a word from byte i on, extended to 64 bits (R207). -/
def bytesOf (n : Nat) (signed : Bool) (v : Word) (i : Nat) : Word :=
  let x := v.toNat / 2 ^ (8 * i) % 2 ^ (8 * n)
  if signed then BitVec.ofInt 64 (asSigned (8 * n) x) else BitVec.ofNat 64 x

/-- A memory form whose instruction may go to memory in its own right, and whose thread has no store on its way that it would
see: no own writes queued, none in the block. -/
abbrev Clean (s : State) (h : Here) : Prop :=
  s.trails h = false ∧ s.ownWrites h.c h.ctx.id = [] ∧ h.b.stores = [] ∧ h.e.own = []

/-- A form in its own right whose thread's stores to the words it wants have been accepted at their homes (R233). -/
abbrev Strong (s : State) (h : Here) (ws : List Nat) : Prop := s.trails h = false ∧ ∀ w ∈ ws ++ h.e.want, s.clearOf h w = true

/-- EA = (a + OFF) modulo 2^64 (R204). -/
def Here.addr (h : Here) (a : Word) : Word := BitVec.ofInt 64 (a.toInt + h.e.insn.x.off.toInt)

/-- The scalar loads: bytes, whether sign-extended, whether an acquire (Tables 11.1, 11.2). -/
def loadRows : List (Instr × Nat × Bool × Bool) :=
  [(.ldB, 1, true, false), (.ldBu, 1, false, false), (.ldH, 2, true, false), (.ldHu, 2, false, false), (.ldW, 4, true, false),
   (.ldWu, 4, false, false), (.ldD, 8, false, false), (.ldacqW, 4, true, true), (.ldacqWu, 4, false, true), (.ldacqD, 8, false, true)]

/-- The scalar stores: bytes, whether a release. -/
def storeRows : List (Instr × Nat × Bool) :=
  [(.stB, 1, false), (.stH, 2, false), (.stW, 4, false), (.stD, 8, false), (.strelW, 4, true), (.strelD, 8, true)]

/-- The full/empty forms: whether they can wait, and the permission they need. -/
def feRows : List (Instr × Bool × Acc) :=
  [(.ldfw, true, .load), (.ldfwe, true, .both), (.ldfn, false, .load), (.ldfne, false, .both), (.stfw, true, .both), (.stfn, false, .both),
   (.fepurge, false, .both), (.fefill, false, .both)]

/-- The atomics of Table 11.7. -/
def amoRows : List Instr := [.amoSwap, .amoAdd, .amoAnd, .amoOr, .amoXor, .amoMinS, .amoMaxS, .amoMaxU]

/-- In t, the instruction at h has sent p and waits for its reply: p is in flight under its core's partition tag, a committing operation has
taken its block past the point of no return (R30), and nothing else of its block, its slot or anything outside its core has
changed. -/
structure Asked (s t : State) (h : Here) (p : Pkt) : Prop where
  sent : t.reqs = s.reqs ++ [{ id := s.nextId, tag := (s.core h.c).tag, pkt := p }]
  block : ∃ b e, (t.slot h.c h.k).blk = some b ∧ b.ponr = (h.b.ponr || h.e.insn.committing) ∧ e.phase = .sent ∧ e.insn = h.e.insn ∧
    b.body = h.b.body.modify h.i (fun _ => e) ∧ b.regs = h.b.regs ∧ b.stores = h.b.stores ∧ b.acts = h.b.acts ∧ b.exits = h.b.exits ∧
    b.flags = h.b.flags ∧ b.post = h.b.post
  kept : Kept s { t with reqs := s.reqs, nextId := s.nextId } h

/-- In t, the instruction at h has fired with its checks passed, and is held back until its condition holds, wanting some words. -/
abbrev HeldBack (s t : State) (h : Here) (ws : List Nat) : Prop := t = (s.issue h).phase h fun e => { e with phase := .held, want := ws }

/-- A form that performs its request at a home: once `ready` holds and its thread's stores to the words ws are accepted it sends p and
waits; until then it is held back. -/
abbrev Sends (row : Instr) (s : State) (h : Here) (ready : Bool) (ws : List Nat) (p : Pkt) : Prop :=
  (ready = true → Strong s h ws → ∃ t, exec row s = .next t ∧ Asked s t h p) ∧
  (h.e.phase ≠ .held → s.trails h = false → ready = false ∨ (∃ w ∈ ws, s.clearOf h w = false) → ∃ t, exec row s = .next t ∧ HeldBack s t h ws)

/-- A form at the focus raises a fault when it fires: it is not one that a trailing slot takes its results for, nor one that waits. -/
abbrev Raises (row : Instr) (s : State) (h : Here) (code : Nat) (v : Word) : Prop :=
  s.trails h = false → h.e.phase ≠ .held → exec row s = .next ((s.issue h).raise h code v)

/-- An access that its tag or its domain stops resets no core: the alarms that it fires are of no level 4 (R368, R384, R388). -/
abbrev Calm (s : State) : Prop := tget s.lid.levels 5 1 < 4 ∧ tget s.lid.levels 6 1 < 4

/-- A discard of the block resets no core: it returns no context number, or the writes that returning one makes fire no alarm of level 4
(R31, R260, R388). -/
abbrev Quiet (s : State) (b : Block) : Prop := b.taken = none ∨ Calm s

/-- The block once the loads of the instruction at an index have all their words. -/
def Block.got (b : Block) (i : Nat) : Block := { b with body := b.body.modify i fun e => { e with got := true } }

/-- In t, the instruction at h has its results p and st, usable lat clk later, in its block as it issued, changed by f. -/
abbrev Answered (s t : State) (h : Here) (f : Block → Block) (p st : Tok) (lat : Nat) : Prop :=
  (t.slot h.c h.k).blk = ((s.issue h).slot h.c h.k).blk.map fun b => (f b).results h.i (s.cycle + lat) p st

/-- A form with a reply that stands in the trailing slot of a paired core completes with the results that its leading slot had, which leave
the load-value queue (R398). -/
abbrev Trails (row : Instr) : Prop :=
  ∀ (s : State) (h : Here) (p st : Tok), Fires s h row → s.trails h = true → s.lvqFor h = some (p, st) →
    ∃ t, exec row s = .next t ∧ Kept s t h ∧ Answered s t h id p st 1

/-- The step of a home that meets the request sent last. -/
def State.atLast (t : State) : State := { t with focus := { n := t.reqs.length - 1 } }

/-- It has its results and leaves an action for its block's commit (R27). -/
def State.leaves (s : State) (h : Here) (a : Act) : State :=
  ((s.issue h).modBlk h.c h.k fun b => { b with acts := b.acts ++ [(h.i, a)] }).result h .null .null 1

/-! ## Device steps -/

/-- A step is taken, to a state with a property. -/
abbrev Steps (row : Instr) (s : State) (P : State → Prop) : Prop := ∃ t, exec row s = .next t ∧ P t

/-- The packet that the focus names, n, is in flight and is p. -/
abbrev Arrives (s : State) (tag : Nat) (p : Pkt) : Prop := ∃ id at_, s.reqs[s.focus.n]? = some ⟨id, tag, false, at_, p⟩

/-- The packets in flight, and those but the one that the focus names. -/
def State.pkts (s : State) : List Pkt := s.reqs.map Req.pkt
def State.rest (s : State) : List Pkt := (removeAt s.reqs s.focus.n).map Req.pkt

/-- The reply that was sent last, to an instruction. -/
abbrev Replied (t : State) (c k rid i : Nat) (r : Reply) : Prop := ∃ l b, t.pkts.getLast? = some (.reply c k rid i r l b)

/-- A packet of a tag for a stack address reaches a home that serves it: its partition's tag, no fence, a channel that is up, a frame of
the access's domain. -/
abbrev Reaches (s : State) (tag pa dom : Nat) : Prop :=
  isStack pa = true ∧ s.tagOk tag pa = true ∧ s.homeFenced pa = false ∧ s.chanDown pa = false ∧ s.domainOk pa dom = true

/-- Memory but for the bytes of some words is as it was. -/
abbrev SameBut (s t : State) (ws : List Nat) : Prop := ∀ a, a / 8 ∉ ws → memGet t.mem a = memGet s.mem a

/-- A byte of the log ring, where the log has one (R386). -/
def State.logs (s : State) (a : Nat) : Prop := ∃ r, s.lid.ring = some r ∧ (r.2 = 0 ∨ r.1 / 8 ≤ a / 8 ∧ a / 8 ≤ (r.1 + r.2) / 8)

/-- The same, where a step may write a record of the log (R385, R386): its ring may change too. -/
abbrev SameButLog (s t : State) (ws : List Nat) : Prop := ∀ a, a / 8 ∉ ws → ¬s.logs a → memGet t.mem a = memGet s.mem a

/-- R215, for a form that does not park: the word's new value and full/empty bit, the primary and the status result. -/
def feServed : Instr → Bool → Word → Word → Option (Word × Bool × Tok × Tok)
  | .ldfw, true, v, _ => some (v, true, .sc v, .null)
  | .ldfwe, true, v, _ => some (v, false, .sc v, .null)
  | .ldfn, true, v, _ => some (v, true, .sc v, .sc 1)
  | .ldfn, false, v, _ => some (v, false, .sc 0, .sc 0)
  | .ldfne, true, v, _ => some (v, false, .sc v, .sc 1)
  | .ldfne, false, v, _ => some (v, false, .sc 0, .sc 0)
  | .stfw, false, _, b => some (b, true, .null, .null)
  | .stfn, true, v, _ => some (v, true, .sc 0, .null)
  | .stfn, false, _, b => some (b, true, .sc 1, .null)
  | .fepurge, _, v, _ => some (v, false, .null, .null)
  | .fefill, _, _, b => some (b, true, .null, .null)
  | _, _, _, _ => none

/-- R218: the new value of an atomic of n bits from the old one and b. -/
def amoValue (row : Instr) (n o b : Nat) : Nat :=
  match row with
  | .amoSwap => b
  | .amoAdd => (o + b) % 2 ^ n
  | .amoAnd => o &&& b
  | .amoOr => o ||| b
  | .amoXor => o ^^^ b
  | .amoMinS => if asSigned n b < asSigned n o then b else o
  | .amoMaxS => if asSigned n o < asSigned n b then b else o
  | .amoMaxU => max o b
  | _ => o

/-- A strong access of a requester to a line is in its home's queue, performed, with its results. -/
abbrev Performed (t : State) (line : Nat) (who : Who) (p st : Tok) : Prop :=
  ∃ e, t.peq.getLast? = some e ∧ e.code = 2 ∧ e.line = line ∧ e.who = who ∧ e.reply = some (.result p st)

/-- Event n of the protocol engines' queue is e, of an event code, and its turn has come. -/
abbrev Turn (s : State) (code : Nat) (e : PEv) : Prop := s.peq[s.focus.n]? = some e ∧ e.code = code ∧ s.turn s.focus.n e = true

/-- A line is in its home's L2 under a standard table, in a state, and holds no event; the access's hint is the table's number. -/
abbrev InL2 (s : State) (e : PEv) (proto : Nat) (d : Dir) : Prop :=
  s.dir e.line = some d ∧ d.held = [] ∧ s.protoOf e.line = proto ∧ e.hint = proto ∧ proto < 6

/-- A read that its home serves: of a core's instruction, let through, with no release of a word of its line outstanding that it would overtake. -/
abbrev ReadServed (s : State) (e : PEv) (c k rid i : Nat) : Prop :=
  e.who = .entry c k rid i ∧ Reaches s (s.core e.req).tag (128 * e.line) e.dom ∧ e.req = c ∧ e.req < 4096 ∧ ∀ w ∈ lineNos e.line, s.outstanding w e.req = none

/-- The context in slot k of core c is y. -/
abbrev Seated (s : State) (c k : Nat) (y : Ctx) : Prop := (s.slot c k).ctx = some y

/-- Partition n's mailbox holds a command with an OPC, which the Lid takes now; nobody waits to fill CMD (R391). -/
abbrev Commanded (s : State) (o : Nat) : Prop := s.lidOpc s.focus.n = some o ∧ ∀ w ∈ s.waits, w.word ≠ mbox s.focus.n

/-- A mailbox command is done: CMD is empty, STATUS is filled with 0, and the state in which it is filled has a property. -/
abbrev Answers (row : Instr) (s : State) (P : State → Prop) : Prop :=
  ∃ u, exec row s = .next (u.fillWord (mbox s.focus.n + 8) 0) ∧ u.full (mbox s.focus.n) = false ∧ P u

/-- A mailbox command is turned away: CMD is emptied, STATUS is filled with a code, and nothing else happens. -/
abbrev Refuses (row : Instr) (s : State) (status : Nat) : Prop :=
  exec row s = .next ((s.emptyWord (mbox s.focus.n)).fillWord (mbox s.focus.n + 8) (BitVec.ofNat 64 status))

end Sys2Proof.Machine
end

