-- ==== Sys2Proof/Certificates/Slice0/Obligations.lean ====
section
/-!
DEFINITION. Certificates/Slice0/Obligations: the statements about the model.
-/
open Sys2Proof Sys2Proof.Machine

/-! ## Scalar forms -/

/-- Integer arithmetic gives Table 5.4's sums and differences, modulo 2^64, of their low 32 bits, or clamped; mul, mulh and mul.w the
low half, the high half and the low 32 bits, sign-extended, of the product. -/
def Obligations.IntegerArithmetic : Prop :=
  (Gives .add 1 (fun _ a b _ => BitVec.ofNat 64 (a.toNat + b.toNat)) ∧
  Gives .sub 1 (fun _ a b _ => BitVec.ofInt 64 ((a.toNat : Int) - b.toNat)) ∧
  Gives .neg 1 (fun _ a _ _ => BitVec.ofInt 64 (-(a.toNat : Int))) ∧
  Gives .addW 1 (fun _ a b _ => BitVec.ofInt 64 (BitVec.ofNat 32 (a.toNat + b.toNat)).toInt) ∧
  Gives .subW 1 (fun _ a b _ => BitVec.ofInt 64 (BitVec.ofInt 32 ((a.toNat : Int) - b.toNat)).toInt) ∧
  GivesSuch .addsS 1 (fun _ a b _ v => v.toInt = max (-2 ^ 63) (min (2 ^ 63 - 1) (a.toInt + b.toInt))) ∧
  GivesSuch .subsS 1 (fun _ a b _ v => v.toInt = max (-2 ^ 63) (min (2 ^ 63 - 1) (a.toInt - b.toInt))) ∧
  GivesSuch .addsU 1 (fun _ a b _ v => v.toNat = min (2 ^ 64 - 1) (a.toNat + b.toNat)) ∧
  GivesSuch .subsU 1 (fun _ a b _ v => v.toNat = a.toNat - b.toNat) ∧
  Gives .addi 1 (fun h a _ _ => BitVec.ofInt 64 (a.toInt + h.immS)) ∧
  Gives .addsc 1 (fun h a b _ => BitVec.ofNat 64 (a.toNat + b.toNat * 2 ^ h.fn))) ∧
  (Gives .mul 3 (fun _ a b _ => BitVec.ofNat 64 (a.toNat * b.toNat)) ∧
  GivesSuch .mulhS 3 (fun _ a b _ v => ∃ lo : Nat, lo < 2 ^ 64 ∧ a.toInt * b.toInt = v.toInt * 2 ^ 64 + lo) ∧
  GivesSuch .mulhU 3 (fun _ a b _ v => ∃ lo : Nat, lo < 2 ^ 64 ∧ a.toNat * b.toNat = v.toNat * 2 ^ 64 + lo) ∧
  Gives .mulW 3 (fun _ a b _ => BitVec.ofInt 64 (BitVec.ofNat 32 (a.toNat * b.toNat)).toInt))

/-- Division never faults and raises no flag: the quotient truncates toward zero, the remainder has the sign of a, and
division by 0 and −2^63 ÷ −1 give the values of R93. -/
def Obligations.Divide : Prop :=
  GivesSuch .divS 24 (fun _ a b _ v =>
    (b = 0 → v.toInt = -1) ∧ (a.toInt = -2 ^ 63 ∧ b.toInt = -1 → v.toInt = -2 ^ 63) ∧
    (b ≠ 0 → ¬(a.toInt = -2 ^ 63 ∧ b.toInt = -1) → v.toInt = a.toInt.tdiv b.toInt)) ∧
  GivesSuch .remS 24 (fun _ a b _ v =>
    (b = 0 → v = a) ∧ (a.toInt = -2 ^ 63 ∧ b.toInt = -1 → v = 0) ∧
    (b ≠ 0 → ¬(a.toInt = -2 ^ 63 ∧ b.toInt = -1) → a.toInt = a.toInt.tdiv b.toInt * b.toInt + v.toInt ∧
      (v.toInt ≠ 0 → (v.toInt < 0 ↔ a.toInt < 0)))) ∧
  GivesSuch .divU 24 (fun _ a b _ v => (b = 0 → v.toNat = 2 ^ 64 - 1) ∧ (b ≠ 0 → v.toNat = a.toNat / b.toNat)) ∧
  GivesSuch .remU 24 (fun _ a b _ v =>
    (b = 0 → v = a) ∧ (b ≠ 0 → v.toNat < b.toNat ∧ a.toNat = a.toNat / b.toNat * b.toNat + v.toNat))

/-- The logic forms act on each bit, the immediate forms with v sign-extended. Shifts and rotations are by b AND 63, or by imm 5:0: shr
fills with 0 and sar with bit 63. -/
def Obligations.LogicAndShifts : Prop :=
  (GivesSuch .and 1 (fun _ a b _ v => ∀ i < 64, bitAt v i = (bitAt a i && bitAt b i)) ∧
  GivesSuch .or 1 (fun _ a b _ v => ∀ i < 64, bitAt v i = (bitAt a i || bitAt b i)) ∧
  GivesSuch .xor 1 (fun _ a b _ v => ∀ i < 64, bitAt v i = (bitAt a i != bitAt b i)) ∧
  GivesSuch .andn 1 (fun _ a b _ v => ∀ i < 64, bitAt v i = (bitAt a i && !bitAt b i)) ∧
  GivesSuch .orn 1 (fun _ a b _ v => ∀ i < 64, bitAt v i = (bitAt a i || !bitAt b i)) ∧
  GivesSuch .xnor 1 (fun _ a b _ v => ∀ i < 64, bitAt v i = (bitAt a i == bitAt b i)) ∧
  GivesSuch .not 1 (fun _ a _ _ v => ∀ i < 64, bitAt v i = !bitAt a i) ∧
  GivesSuch .andi 1 (fun h a _ _ v => ∀ i < 64, bitAt v i = (bitAt a i && bitAt (BitVec.ofInt 64 h.immS) i)) ∧
  GivesSuch .ori 1 (fun h a _ _ v => ∀ i < 64, bitAt v i = (bitAt a i || bitAt (BitVec.ofInt 64 h.immS) i)) ∧
  GivesSuch .xori 1 (fun h a _ _ v => ∀ i < 64, bitAt v i = (bitAt a i != bitAt (BitVec.ofInt 64 h.immS) i))) ∧
  (Gives .shl 1 (fun _ a b _ => BitVec.ofNat 64 (a.toNat * 2 ^ (b.toNat % 64))) ∧
  GivesSuch .shr 1 (fun _ a b _ v => v.toNat = a.toNat / 2 ^ (b.toNat % 64)) ∧
  GivesSuch .sar 1 (fun _ a b _ v => v.toInt = a.toInt / 2 ^ (b.toNat % 64)) ∧
  GivesSuch .rol 1 (fun _ a b _ v => ∀ i < 64, bitAt v ((i + b.toNat) % 64) = bitAt a i) ∧
  GivesSuch .ror 1 (fun _ a b _ v => ∀ i < 64, bitAt v i = bitAt a ((i + b.toNat) % 64)) ∧
  Gives .shli 1 (fun h a _ _ => BitVec.ofNat 64 (a.toNat * 2 ^ (h.e.insn.x.imm.toNat % 64))) ∧
  GivesSuch .shri 1 (fun h a _ _ v => v.toNat = a.toNat / 2 ^ (h.e.insn.x.imm.toNat % 64)) ∧
  GivesSuch .sari 1 (fun h a _ _ v => v.toInt = a.toInt / 2 ^ (h.e.insn.x.imm.toNat % 64)) ∧
  GivesSuch .roli 1 (fun h a _ _ v => ∀ i < 64, bitAt v ((i + h.e.insn.x.imm.toNat) % 64) = bitAt a i) ∧
  GivesSuch .rori 1 (fun h a _ _ v => ∀ i < 64, bitAt v i = bitAt a ((i + h.e.insn.x.imm.toNat) % 64)))

/-- Bit counts, reversals and extensions; minimum and maximum. -/
def Obligations.BitsAndBounds : Prop :=
  GivesSuch .clz 1 (fun _ a _ _ v => v.toNat ≤ 64 ∧ (∀ i < 64, 64 ≤ i + v.toNat → bitAt a i = false) ∧
    (v.toNat < 64 → bitAt a (63 - v.toNat) = true)) ∧
  GivesSuch .ctz 1 (fun _ a _ _ v => v.toNat ≤ 64 ∧ (∀ i < v.toNat, bitAt a i = false) ∧
    (v.toNat < 64 → bitAt a v.toNat = true)) ∧
  GivesSuch .popc 1 (fun _ a _ _ v => v.toNat = ((List.range 64).filter fun i => bitAt a i).length) ∧
  GivesSuch .brev 1 (fun _ a _ _ v => ∀ i < 64, bitAt v i = bitAt a (63 - i)) ∧
  GivesSuch .bswap 1 (fun _ a _ _ v => ∀ i < 8, v.toNat / 256 ^ i % 256 = a.toNat / 256 ^ (7 - i) % 256) ∧
  GivesSuch .sextB 1 (fun _ a _ _ v => v.toInt = (a.truncate 8).toInt) ∧
  GivesSuch .sextH 1 (fun _ a _ _ v => v.toInt = (a.truncate 16).toInt) ∧
  GivesSuch .sextW 1 (fun _ a _ _ v => v.toInt = (a.truncate 32).toInt) ∧
  GivesSuch .zextB 1 (fun _ a _ _ v => v.toNat = a.toNat % 2 ^ 8) ∧
  GivesSuch .zextH 1 (fun _ a _ _ v => v.toNat = a.toNat % 2 ^ 16) ∧
  GivesSuch .zextW 1 (fun _ a _ _ v => v.toNat = a.toNat % 2 ^ 32) ∧
  GivesSuch .minS 1 (fun _ a b _ v => v.toInt = min a.toInt b.toInt) ∧
  GivesSuch .maxS 1 (fun _ a b _ v => v.toInt = max a.toInt b.toInt) ∧
  GivesSuch .minU 1 (fun _ a b _ v => v.toNat = min a.toNat b.toNat) ∧
  GivesSuch .maxU 1 (fun _ a b _ v => v.toNat = max a.toNat b.toNat)

/-- R94: the field of pos = imm 5:0 and len = imm 11:6 + 1, shortened to L = min(len, 64 − pos); imm 15:12 is 0 in every
encoding. -/
def Obligations.BitFields : Prop :=
  let pos (h : Here) : Nat := h.e.insn.x.imm.toNat % 64
  let len (h : Here) : Nat := min (h.e.insn.x.imm.toNat / 64 % 64 + 1) (64 - pos h)
  GivesSuch .bfxU 1 (fun h a _ _ v => v.toNat = a.toNat / 2 ^ pos h % 2 ^ len h) ∧
  GivesSuch .bfxS 1 (fun h a _ _ v =>
    let u := a.toNat / 2 ^ pos h % 2 ^ len h
    v.toInt = if u < 2 ^ (len h - 1) then (u : Int) else (u : Int) - 2 ^ len h) ∧
  GivesSuch .bfi 1 (fun h a b _ v =>
    ∀ i < 64, bitAt v i = if pos h ≤ i ∧ i < pos h + len h then bitAt b (i - pos h) else bitAt a i) ∧
  ∀ i : Insn, i.wf = true → i.row = .bfxU ∨ i.row = .bfxS ∨ i.row = .bfi → i.x.imm.toNat < 2 ^ 12

/-- R95: cmp and cmpi emit 1 or 0 as the condition of their FN holds of a and b, or of a and v sign-extended; FN 12 to 31
are no encoding. cmp has no immediate and at most three result parcels, cmpi an immediate and at most two; the head of cmp.lt.u with
one result parcel is 0x3886. -/
def Obligations.Compare : Prop :=
  Gives .cmp 1 (fun h a b _ => if condHolds h.fn a b then 1 else 0) ∧
  Gives .cmpi 1 (fun h a _ _ => if condHolds h.fn a (BitVec.ofInt 64 h.immS) then 1 else 0) ∧
  (∀ i : Insn, i.wf = true → (i.row = .cmp → i.fn < 12 ∧ i.x.outs.length ≤ 3 ∧ i.x.imm = 0) ∧ (i.row = .cmpi → i.fn < 12 ∧ i.x.outs.length ≤ 2)) ∧
  ∀ r : RP, ∃ ts, encode ⟨.cmp, ⟨6, .always, 0, 0, 0, 0, [r], 0⟩⟩ = some (0x3886, ts, 0)

/-- The predicate forms of Table 5.5 read bit 0, or bit k; sel chooses by bit 0 of c. movi, movi.l and movl emit their immediate, leave
adds n = 16 × (FN + 1), mov passes a on as it is, scalar or vector, null emits a null whatever its predicate, and opx only completes.
enter n computes s = a − n modulo 2^64; below sr.stklim as its block began it raises STACK_LIMIT (code 5) with s, else it emits s. -/
def Obligations.PredicatesAndMoves : Prop :=
  (Gives .pand 1 (fun _ a b _ => BitVec.ofNat 64 (a.toNat % 2 * (b.toNat % 2))) ∧
  Gives .por 1 (fun _ a b _ => BitVec.ofNat 64 (max (a.toNat % 2) (b.toNat % 2))) ∧
  Gives .pxor 1 (fun _ a b _ => BitVec.ofNat 64 ((a.toNat + b.toNat) % 2)) ∧
  Gives .pnot 1 (fun _ a _ _ => BitVec.ofNat 64 ((a.toNat + 1) % 2)) ∧
  GivesSuch .packp 1 (fun h a b _ v => ∀ i < 64, bitAt v i = if i = h.fn then bitAt b 0 else bitAt a i) ∧
  Gives .unpkp 1 (fun h a _ _ => BitVec.ofNat 64 (a.toNat / 2 ^ h.fn % 2)) ∧
  Gives .sel 1 (fun _ a b c => if c.toNat % 2 = 1 then a else b)) ∧
  (Gives .movi 1 (fun h _ _ _ => BitVec.ofInt 64 h.immS) ∧
  Gives .moviL 1 (fun h _ _ _ => BitVec.ofInt 64 h.e.insn.x.imm.toInt) ∧
  Gives .movl 1 (fun h _ _ _ => h.e.insn.x.lit) ∧
  Gives .leave 1 (fun h a _ _ => BitVec.ofNat 64 (a.toNat + 16 * (h.fn + 1))) ∧
  (∀ (s : State) (h : Here), Fires s h .mov → h.pOn = true → exec .mov s = .next ((s.issue h).result h (h.tok .a) .null 1)) ∧
  (∀ (s : State) (h : Here), Fires s h .null → exec .null s = .next ((s.issue h).result h .null .null 1)) ∧
  (∀ (s : State) (h : Here), Fires s h .opx → exec .opx s = .next (s.phase h fun e => { e with phase := .done, doneAt := s.cycle }))) ∧
  (∀ (s : State) (h : Here) (a b c : Word), Fires s h .enter → Live h a b c →
    let v : Word := BitVec.ofInt 64 ((a.toNat : Int) - 16 * (h.fn + 1))
    (h.ctx.stklim.toNat ≤ v.toNat → exec .enter s = .next ((s.issue h).result h (.sc v) .null 1)) ∧
    (v.toNat < h.ctx.stklim.toNat → exec .enter s = .next ((s.issue h).raise h 5 v)))

/-- R20, R22: a scalar form that receives a null, or is predicated off, emits a null and raises no flag; and so does a vector form that
receives a whole null or a scalar predicate that is off. enter raises no fault then, and fseed leaves no action. fcvt and vcvt do so once
the draws before theirs are known (R132). A null in c does not null vins as a whole, but one in b does. -/
def Obligations.NullOperands : Prop :=
  (∀ row ∈ scalarRows ++ [.enter, .fseed], ∀ (s : State) (h : Here), Fires s h row → Nulled h →
    ∃ lat, exec row s = .next ((s.issue h).result h .null .null lat)) ∧
  (∀ (s : State) (h : Here), Fires s h .fcvt → drawReady h s = true → Nulled h → exec .fcvt s = .next ((s.issue h).result h .null .null 3)) ∧
  (∀ row ∈ vectorRows ++ [.tunpk], ∀ (s : State) (h : Here), Fires s h row → h.dead true = true →
    ∃ lat, exec row s = .next ((s.issue h).result h .null .null lat)) ∧
  (∀ (s : State) (h : Here), Fires s h .vcvt → drawReady h s = true → h.dead true = true → exec .vcvt s = .next ((s.issue h).result h .null .null 3)) ∧
  (∀ (s : State) (h : Here), Fires s h .vins → h.dead false = true ∨ (h.tok .b).scalar = none →
    exec .vins s = .next ((s.issue h).result h .null .null 3)) ∧
  (∀ (s : State) (h : Here), Fires s h .mov → h.pOn = false → ∃ lat, exec .mov s = .next ((s.issue h).result h .null .null lat))

/-- The frame of what stays within its block (R27, R31). A scalar or vector form, an exit, a register write, a form that leaves its action
for commit, and a store whose address does not miss the TLB, whether it has its result, a null or a fault, leave everything outside
their block as it was: registers, memory, flags and modes, special registers, accumulators and what is in flight. (The block holds a
store, a register write, a flag and a fault until its commit or the end of the clk.) -/
def Obligations.BlockFrame : Prop :=
  (∀ row ∈ scalarRows ++ [.mov, .null, .opx, .enter, .fcvt, .fseed], ∀ s t, exec row s = .next t → Untouched s t) ∧
  (∀ row ∈ vectorRows ++ [.vins, .vcvt, .tunpk, .sfree, .sstat], ∀ s t, exec row s = .next t → Untouched s t) ∧
  (∀ row ∈ [Instr.br, .call, .jmp, .callr, .ret, .halt, .svc, .trap, .eret, .yield, .recvNw, .brk, .tlbinv, .tlbinva, .gjoin, .gleave, .srrd, .srwr, .ctrrd,
    .fenceRel], ∀ s t, exec row s = .next t → Untouched s t) ∧
  (∀ (s t : State) (h : Here), Fires s h .write → h.bound = none → exec .write s = .next t → Untouched s t) ∧
  (∀ q ∈ storeRows, ∀ (s t : State) (h : Here), Fires s h q.1 → (∀ a, h.a = some a → s.xlate h.c h.ten h.b.bad (h.addr a) .store ≠ .miss) →
    exec q.1 s = .next t → Untouched s t)

/-! ## Floating point -/

/-- The scalar FP forms complete with the value and the flags of their operation on bits 31:0 of their operands, bits 63:32 of
the result clear, under the rounding mode as their block began, stochastic read as nearest-even. -/
def Obligations.ScalarFloat : Prop :=
  let op (row : Instr) (lat : Nat) (f : Nat → FV → FV → FV → Nat × BitVec 7) : Prop :=
    GivesFlags row lat fun h a b c v fl =>
      let x (w : Word) : FV := fp32.value (code32 w)
      let r := f (if (h.ctx.fpm &&& 7).toNat = 4 then 0 else (h.ctx.fpm &&& 7).toNat) (x a) (x b) (x c)
      v = BitVec.ofNat 64 r.1 ∧ fl = r.2
  op .fadd 4 (fun rm x y _ => fp32.add rm x y) ∧ op .fsub 4 (fun rm x y _ => fp32.add rm x y.neg) ∧
  op .fmul 4 (fun rm x y _ => fp32.mul rm x y) ∧ op .fdiv 14 (fun rm x y _ => fp32.div rm x y) ∧
  op .fsqrt 14 (fun rm x _ _ => fp32.sqrt rm x) ∧
  op .fma 4 (fun rm x y z => fp32.fma rm x y z) ∧ op .fms 4 (fun rm x y z => fp32.fma rm x y z.neg) ∧
  op .fnma 4 (fun rm x y z => fp32.fma rm x.neg y z.neg) ∧ op .fnms 4 (fun rm x y z => fp32.fma rm x.neg y z)

/-- Sums, products, fused products, quotients by a non-zero value and square roots of values not below zero are, for finite operands,
the one rounding of the exact number, in FP32, FP16 and BF16; they raise inexact exactly where the result differs from it. Only where the
rounding overflows is the result an infinity, or the largest finite code in its place, as Table 5.7 gives it, with overflow and inexact
(R104); no such operation gives a NaN, and none raises invalid or divide. -/
def Obligations.Rounding : Prop :=
  (∀ f ∈ [fp32, fp16, bf16], ∀ rm < 4, ∀ a b c, f.Finite a → f.Finite b → f.Finite c →
    f.Rounded rm (· ≤ f.num a + f.num b) (f.num a + f.num b ≤ ·) (f.add rm (f.value a) (f.value b)) ∧
    f.Rounded rm (· ≤ f.num a - f.num b) (f.num a - f.num b ≤ ·) (f.add rm (f.value a) (f.value b).neg) ∧
    f.Rounded rm (· ≤ f.num a * f.num b) (f.num a * f.num b ≤ ·) (f.mul rm (f.value a) (f.value b)) ∧
    f.Rounded rm (· ≤ f.num a * f.num b + f.num c) (f.num a * f.num b + f.num c ≤ ·) (f.fma rm (f.value a) (f.value b) (f.value c))) ∧
  (∀ f ∈ [fp32, fp16, bf16], ∀ rm < 4, ∀ a b, f.Finite a → f.Finite b →
    (f.num b ≠ 0 → f.Rounded rm (· ≤ f.num a / f.num b) (f.num a / f.num b ≤ ·) (f.div rm (f.value a) (f.value b))) ∧
    (0 ≤ f.num a → f.Rounded rm (fun x => x < 0 ∨ x * x ≤ f.num a) (fun x => 0 ≤ x ∧ f.num a ≤ x * x) (f.sqrt rm (f.value a))))

/-- R105's invalid operations, NaN operands and division by zero, for FP32 codes under every mode; fmin, fmax, fcmp, fabs, fneg, fcpys
and fclass by the codes of their operands; the examples of R105 and R110. -/
def Obligations.FloatCodes : Prop :=
  (∀ rm a b c, a < 2 ^ 32 → b < 2 ^ 32 → c < 2 ^ 32 →
    let x := fp32.value a
    let y := fp32.value b
    let z := fp32.value c
    let sn : BitVec 7 := if snan32 a || snan32 b then 1 else 0
    (nan32 a = true ∨ nan32 b = true →
      fp32.add rm x y = (0x7FC00000, sn) ∧ fp32.add rm x y.neg = (0x7FC00000, sn) ∧ fp32.mul rm x y = (0x7FC00000, sn) ∧
      fp32.div rm x y = (0x7FC00000, sn)) ∧
    (inf32 a = true → inf32 b = true → neg32 a ≠ neg32 b → fp32.add rm x y = (0x7FC00000, 1)) ∧
    (inf32 a = true → inf32 b = true → neg32 a = neg32 b → fp32.add rm x y.neg = (0x7FC00000, 1)) ∧
    (zero32 a = true → inf32 b = true → fp32.mul rm x y = (0x7FC00000, 1) ∧ (snan32 c = false → fp32.fma rm x y z = (0x7FC00000, 1))) ∧
    (zero32 a = true → zero32 b = true → fp32.div rm x y = (0x7FC00000, 1)) ∧
    (inf32 a = true → inf32 b = true → fp32.div rm x y = (0x7FC00000, 1)) ∧
    (nan32 a = false → inf32 a = false → zero32 a = false → zero32 b = true →
      fp32.div rm x y = ((if neg32 a = neg32 b then 0x7F800000 else 0xFF800000), 2)) ∧
    (zero32 a = true → fp32.sqrt rm x = (a, 0)) ∧
    (nan32 a = false → zero32 a = false → neg32 a = true → fp32.sqrt rm x = (0x7FC00000, 1))) ∧
  ((∀ mx : Bool, GivesFlags (if mx then .fmax else .fmin) 4 fun _ a b _ v f =>
    let x := code32 a
    let y := code32 b
    f = (if snan32 x || snan32 y then 1 else 0) ∧
    v.toNat = if nan32 x && nan32 y then 0x7FC00000 else if nan32 x then y else if nan32 y then x
      else if mx then (if key32z x < key32z y then y else x) else (if key32z y < key32z x then y else x)) ∧
  GivesFlags .fcmp 1 (fun h a b _ v f =>
    let x := code32 a
    let y := code32 b
    h.fn < 8 → v = (if fcondHolds h.fn x y then 1 else 0) ∧
      f = (if 2 ≤ h.fn && h.fn ≤ 5 then (if nan32 x || nan32 y then 1 else 0) else if snan32 x || snan32 y then 1 else 0)) ∧
  Gives .fabs 1 (fun _ a _ _ => BitVec.ofNat 64 (a.toNat % 2 ^ 31)) ∧
  Gives .fneg 1 (fun _ a _ _ => BitVec.ofNat 64 (a.toNat % 2 ^ 31 + if neg32 a.toNat then 0 else 2 ^ 31)) ∧
  Gives .fcpys 1 (fun _ a b _ => BitVec.ofNat 64 (a.toNat % 2 ^ 31 + if neg32 b.toNat then 2 ^ 31 else 0)) ∧
  Gives .fclass 1 (fun _ a _ _ =>
    let x := code32 a
    let m := x % 2 ^ 31
    if snan32 x then 0x100 else if nan32 x then 0x200
    else if neg32 x then (if inf32 x then 1 else if zero32 x then 8 else if m < 2 ^ 23 then 4 else 2)
    else if inf32 x then 0x80 else if zero32 x then 0x10 else if m < 2 ^ 23 then 0x20 else 0x40) ∧
  fp32.add 0 (fp32.value 0x3F800000) (fp32.value 0x33800000) = (0x3F800000, 16) ∧
  fp32.add 2 (fp32.value 0x3F800000) (fp32.value 0x33800000) = (0x3F800001, 16) ∧
  convert .e4S 0 none 0x43FA0000 = (0x7E, 20) ∧ convert .e5S 0 none 0x43FA0000 = (0x60, 16))

/-- fcvt completes with its conversion of the low bits of a, drawing where R109 says so; a conversion to an integer rounds,
clamps and raises invalid as R111 says, and one from FP16, BF16, E4M3 or E5M2 is exact. fseed leaves bits 31:0 of a, or 1, to be
written at commit. -/
def Obligations.Conversions : Prop :=
  (∀ (s : State) (h : Here) (a b c : Word) (cv : Cv), Fires s h .fcvt → drawReady h s = true → Live h a b c → Cv.ofCode h.fn = some cv →
    let d := if cvStochastic cv && (h.ctx.fpm &&& 7) == 4 then some (drawBits (drawState (h.lfsrAt s.cycle))) else none
    let r := convert cv h.ctx.rm d (a.toNat % 2 ^ cvSrcBits cv)
    exec .fcvt s = .next (((s.issue h).flag h r.2).result h (.sc (cvWord cv r.1)) .null 3)) ∧
  (∀ rm n, n = 32 ∨ n = 64 → ∀ x < 2 ^ 32,
    let r := toInt rm n (fp32.value x)
    (nan32 x = true → r = (0, 1)) ∧ (inf32 x = true → r = (if neg32 x then (-2 ^ (n - 1), 1) else (2 ^ (n - 1) - 1, 1))) ∧
    (fp32.Finite x → rm < 4 →
      (r.2 = 1 ∧ (r.1 = 2 ^ (n - 1) - 1 ∧ ((2 ^ (n - 1) - 1 : Int) : ℚ) < fp32.num x ∨ r.1 = -2 ^ (n - 1) ∧ fp32.num x < ((-2 ^ (n - 1) : Int) : ℚ))) ∨
      (r.2 ≠ 1 ∧ |(r.1 : ℚ) - fp32.num x| < 1 ∧ (r.2 = 16 ↔ (r.1 : ℚ) ≠ fp32.num x) ∧
        (rm = 0 → |(r.1 : ℚ) - fp32.num x| ≤ 1 / 2) ∧ (rm = 1 → |(r.1 : ℚ)| ≤ |fp32.num x|) ∧
        (rm = 2 → fp32.num x ≤ r.1) ∧ (rm = 3 → (r.1 : ℚ) ≤ fp32.num x)))) ∧
  (∀ q ∈ [(Cv.sH, fp16), (Cv.sBf, bf16), (Cv.sE4, e4m3), (Cv.sE5, e5m2)], ∀ x, q.2.Finite x →
    let r := convert q.1 0 none x
    fp32.Finite r.1 ∧ fp32.num r.1 = q.2.num x ∧ r.2 = 0) ∧
  (∀ (s : State) (h : Here) (a b c : Word), Fires s h .fseed → Live h a b c →
    exec .fseed s = .next (((s.issue h).act h (.fseed (if a.toNat % 2 ^ 32 = 0 then 1 else BitVec.ofNat 64 (a.toNat % 2 ^ 32)))).result h .null .null 1))

/-! ## Tokens, issue and exits -/

/-- R17: when an instruction has fired its result stands in every operand slot that it names, usable lat clk later, the primary
result in the primary targets and the status in the status targets of a two-result form; it, and the opx of a three-input form,
are complete; nothing else of the block, and no other slot, changes. -/
def Obligations.TokensDelivered : Prop :=
  ∀ (s : State) (h : Here) (p st : Tok) (lat : Nat), s.here = some h →
    let t := s.result h p st lat
    let first := if h.e.insn.two then h.e.insn.x.primary else h.e.insn.x.targets
    let second := if h.e.insn.two then h.e.insn.x.status else []
    let named (l : List Tgt) (j : Nat) (o : OpSlot) : Bool := l.any fun g => g.idx.toNat == j && g.slot == o
    let slot (j : Nat) (o : OpSlot) (old : Option Arrival) : Option Arrival :=
      if named second j o then some ⟨st, s.cycle + lat⟩ else if named first j o then some ⟨p, s.cycle + lat⟩ else old
    (∀ c k, ¬(c = h.c ∧ k = h.k) → t.slot c k = s.slot c k) ∧
    ∃ b, t.slot h.c h.k = { s.slot h.c h.k with blk := some { h.b with body := b } } ∧ b.length = h.b.body.length ∧
      ∀ (j : Nat) (e x : Entry), h.b.body[j]? = some e → b[j]? = some x →
        x.insn = e.insn ∧ x.a = slot j .a e.a ∧ x.b = slot j .b e.b ∧ x.p = slot j .p e.p ∧
        (if j = h.i ∨ (h.e.insn.three = true ∧ j = h.i + 1) then x.phase = .done ∧ x.doneAt = s.cycle + lat
          else x.phase = e.phase ∧ x.doneAt = e.doneAt)

/-- R36: a search examines the slots from the one after the slot that issued last, and a core issues from the first that has a ready
instruction: then s names it and the core issues no more in that clk. With none ready nothing issues and s keeps its value. A core
makes one search in a clk, and first lets go on what needs no issue cycle (R37). A form that takes no issue cycle leaves s as it is (R48,
R90, R99, R214, R290, R362). After reset s is 15. What the spec leaves open here is the model's (log entry 1). -/
def Obligations.SearchOrder : Prop :=
  (∀ last < 16, searchOrder last = (List.range 16).map fun n => (last + 1 + n) % 16) ∧
  (∀ c : Nat, (State.reset.core c).s = 15) ∧
  (∀ (s : State) (c : Nat), (∀ k < 16, (s.slot c k).drain = false ∧ (s.slot c k).handed = none) →
    (∀ (k : Nat) (t : State), k < 16 → (∀ n < 16, (n + 16 - ((s.core c).s + 1) % 16) % 16 < (k + 16 - ((s.core c).s + 1) % 16) % 16 → s.issueFrom c n = none) →
      s.issueFrom c k = some t → s.search c = some t ∧
        (s.windowEnded c = false → s.carry c = none → (s.core c).searched ≠ some s.cycle → (t.core c).issuedAt = some t.cycle →
          ∀ rest, s.searchStep c rest = { t.searchEnds c with agenda := rest })) ∧
    ((∀ k < 16, s.issueFrom c k = none) → s.search c = none ∧
      (s.windowEnded c = false → s.carry c = none → (s.core c).searched ≠ some s.cycle →
        ∀ rest, s.searchStep c rest = { s.searchEnds c with agenda := rest }))) ∧
  (∀ (s : State) (c : Nat) (rest : List Move), s.windowEnded c = false → s.carry c = none → (s.core c).searched = some s.cycle →
    s.searchStep c rest = { s with agenda := rest }) ∧
  (∀ (s t : State) (c : Nat) (rest : List Move), s.windowEnded c = false → s.carry c = some t → s.searchStep c rest = { t with agenda := .issue c :: rest }) ∧
  (∀ (s : State) (c : Nat) (rest : List Move), s.windowEnded c = true → s.searchStep c rest = (s.freshWindow c).searchStep c rest) ∧
  (∀ (s : State) (c : Nat), (s.searchEnds c).core c = { s.core c with searched := some s.cycle }) ∧
  (∀ (s : State) (h : Here), h.e.insn.unissued = true ∨ h.e.phase ≠ .waiting → s.issue h = s) ∧
  (∀ (s : State) (h : Here), h.e.phase = .waiting → h.e.insn.unissued = false →
    ((s.core h.c).issuedAt = some s.cycle → s.mayFire h = false) ∧
    ((s.issue h).core h.c).s = h.k ∧ ((s.issue h).core h.c).issuedAt = some s.cycle ∧
    tget ((s.issue h).core h.c).ctr 0x100 0 = tget (s.core h.c).ctr 0x100 0 + 1)

/-- R18: the instruction of a slot that issues is the ready, unfired one of lowest index; what has fired and goes on takes no issue cycle
and stands aside. -/
def Obligations.LowestIndexIssues : Prop :=
  ∀ (s : State) (c k : Nat) (b : Block), (s.slot c k).blk = some b →
    (∀ (n : Nat) (e : Entry) (t : State), b.body[n]? = some e → e.carries = false → s.take e.insn.row { c := c, k := k, i := n } = some t →
      (∀ (m : Nat) (x : Entry), m < n → b.body[m]? = some x → x.carries = false → s.take x.insn.row { c := c, k := k, i := m } = none) →
      s.issueFrom c k = some t) ∧
    ((∀ (n : Nat) (e : Entry), b.body[n]? = some e → e.carries = false → s.take e.insn.row { c := c, k := k, i := n } = none) → s.issueFrom c k = none)

/-- The exits of Table 5.6, migr, svc, trap and eret: an exit that fires with effect where no other has fixes the next block: L + 64
× disp, its aligned operand, the block in sequence, or none; migr and eret also leave their action for commit. Where exits fault
(R26, R51, R54, R365) their block notes the fault: a second exit that emits a value is EXIT_CONFLICT (6), and of two in one clk that of
the lower index is the one taken (R30); a misaligned register target is ALIGNMENT (2) with the target; eret without privilege is
PRIVILEGE (4), without a trap link OPERAND (8), with a RESUME word that does not translate TRANSLATION (3); when every exit has
emitted a null the block notes EXIT_NONE (7). What the spec leaves open here is the model's (log entry 5). Completes: br, call, jmp,
callr, ret, halt, migr, svc, trap, eret. -/
def Obligations.Exits : Prop :=
  (let disp (h : Here) : Word := BitVec.ofInt 64 ((h.b.addr.toNat : Int) + 64 * h.e.insn.x.imm.toInt)
  let seq (h : Here) : Word := BitVec.ofNat 64 (h.b.addr.toNat + 64 * (h.b.lnc + 1))
  let second (s : State) (h : Here) (x : Nat × Word) (next : Word) : State :=
    ((s.issue h).modBlk h.c h.k fun b => if h.b.exitAt = s.cycle ∧ h.i < x.1 then { b with exits := [(h.i, next)], exitAt := s.cycle } else b).raise h 6 0
  (∀ q ∈ [(Instr.br, disp), (.call, disp), (.halt, fun _ => 0), (.svc, seq), (.trap, seq)],
    ∀ (s : State) (h : Here), Fires s h q.1 → h.pOn = true →
      (h.b.exits = [] → exec q.1 s = .next (s.exits h (q.2 h))) ∧
      (∀ x l, h.b.exits = x :: l → exec q.1 s = .next (second s h x (q.2 h)))) ∧
  (∀ row ∈ [Instr.jmp, .callr, .ret], ∀ (s : State) (h : Here) (a : Word), Fires s h row → h.pOn = true → h.a = some a →
    (a.toNat % 64 = 0 → h.b.exits = [] → exec row s = .next (s.exits h a)) ∧
    (a.toNat % 64 = 0 → ∀ x l, h.b.exits = x :: l → exec row s = .next (second s h x a)) ∧
    (a.toNat % 64 ≠ 0 → exec row s = .next ((s.issue h).raise h 2 a))) ∧
  (∀ (s : State) (h : Here) (a : Word) (pa hint dom : Nat), Fires s h .migr → h.pOn = true → h.a = some a → h.b.exits = [] →
    s.xlate h.c h.ten h.b.bad a .load = .ok pa hint dom → hasQuad pa = true →
    exec .migr s = .next ((((s.issue h).act h (.migr (homeOf pa * 4 + pa / 128 % 4) h.e.insn.x.i16.toNat)).modBlk h.c h.k
      fun b => { b with exits := [(h.i, seq h)], exitAt := s.cycle }).result h .null .null 2)) ∧
  (∀ (s : State) (h : Here) (a : Word), Fires s h .migr → h.pOn = true → h.a = some a →
    s.xlate h.c h.ten h.b.bad a .load = .fault → exec .migr s = .next ((s.issue h).raise h 3 a)) ∧
  (∀ (s : State) (h : Here), Fires s h .eret → h.pOn = true →
    (s.privileged h.ten = false → exec .eret s = .next ((s.issue h).raise h 4 0)) ∧
    (s.privileged h.ten = true → h.ctx.link = none → exec .eret s = .next ((s.issue h).raise h 8 0)) ∧
    (∀ r, s.privileged h.ten = true → h.ctx.link = some r →
      (s.place (s.svten (s.partOf h.ten)) (r + 280) .store = none → exec .eret s = .next ((s.issue h).raise h 3 (r + 280))) ∧
      (∀ pa dom, s.place (s.svten (s.partOf h.ten)) (r + 280) .store = some (pa, dom) → h.b.exits = [] →
        exec .eret s = .next ((((s.issue h).act h (.eretFill (pa / 8) dom)).modBlk h.c h.k
          fun b => { b with exits := [(h.i, 0)], exitAt := s.cycle }).result h .null .null 2))))) ∧
  (∀ row ∈ [Instr.br, .call, .jmp, .callr, .ret, .halt, .svc, .trap, .migr, .eret], ∀ (s : State) (h : Here), Fires s h row → h.pOn = false →
    h.b.exits = [] →
    ((∀ (j : Nat) (x : Entry), j ≠ h.i → h.b.body[j]? = some x → x.insn.exitNo.isSome = true → x.phase = .done) →
      exec row s = .next (((s.issue h).result h .null .null 1).modBlk h.c h.k fun b => b.found s.cycle h.i ⟨7, 0⟩)) ∧
    ((∃ (j : Nat) (x : Entry), j ≠ h.i ∧ h.b.body[j]? = some x ∧ x.insn.exitNo.isSome = true ∧ x.phase ≠ .done) →
      exec row s = .next ((s.issue h).result h .null .null 1)))

/-! ## Vector forms -/

/-- The integer lane forms of Table 8.5 and vmovi, lane by lane, modulo 2^(8E) or saturating; the bitwise forms, vsel and the predicate
forms byte by byte; vicmp makes a lane all ones or all zeros. -/
def Obligations.VectorIntegers : Prop :=
  (GivesW .vadd 1 (fun n x y _ => (x + y) % 2 ^ n) ∧ GivesW .vsub 1 (fun n x y _ => (x + 2 ^ n - y) % 2 ^ n) ∧
  GivesW .vmul 3 (fun n x y _ => x * y % 2 ^ n) ∧
  GivesW .vminS 1 (fun n x y _ => cutTo n (min (asSigned n x) (asSigned n y))) ∧
  GivesW .vmaxS 1 (fun n x y _ => cutTo n (max (asSigned n x) (asSigned n y))) ∧
  GivesW .vminU 1 (fun _ x y _ => min x y) ∧ GivesW .vmaxU 1 (fun _ x y _ => max x y) ∧
  GivesW .vabsd 1 (fun n x y _ => cutTo n |asSigned n x - asSigned n y|) ∧
  GivesW .vaddsS 1 (fun n x y _ => cutTo n (max (-2 ^ (n - 1)) (min (2 ^ (n - 1) - 1) (asSigned n x + asSigned n y)))) ∧
  GivesW .vsubsS 1 (fun n x y _ => cutTo n (max (-2 ^ (n - 1)) (min (2 ^ (n - 1) - 1) (asSigned n x - asSigned n y)))) ∧
  GivesW .vaddsU 1 (fun n x y _ => min (2 ^ n - 1) (x + y)) ∧ GivesW .vsubsU 1 (fun _ x y _ => x - y) ∧
  GivesW .vshl 1 (fun n x y _ => x * 2 ^ (y % n) % 2 ^ n) ∧ GivesW .vshr 1 (fun n x y _ => x / 2 ^ (y % n)) ∧
  GivesW .vsar 1 (fun n x y _ => cutTo n (asSigned n x / 2 ^ (y % n))) ∧
  GivesLanes .vmovi 1 (fun h => 2 ^ (h.fn % 4)) (fun h _ _ _ => (cutTo (8 * 2 ^ (h.fn % 4)) h.immS, 0))) ∧
  (GivesBytes .vand (fun x y _ => x &&& y) ∧ GivesBytes .vor (fun x y _ => x ||| y) ∧ GivesBytes .vxor (fun x y _ => x ^^^ y) ∧
  GivesBytes .vandn (fun x y _ => x &&& (255 - y)) ∧ GivesBytes .vnot (fun x _ _ => 255 - x) ∧
  GivesBytes .vsel (fun x y z => if z % 2 = 1 then x else y) ∧
  GivesBytes .vpand (fun x y _ => 255 * (x % 2 * (y % 2))) ∧ GivesBytes .vpor (fun x y _ => 255 * max (x % 2) (y % 2)) ∧
  GivesBytes .vpxor (fun x y _ => 255 * ((x + y) % 2)) ∧ GivesBytes .vpnot (fun x _ _ => 255 * ((x + 1) % 2)) ∧
  GivesLanes .vicmp 1 (fun h => 2 ^ (h.fn % 4)) (fun h x y _ =>
    let n := 8 * 2 ^ (h.fn % 4)
    let sx := asSigned n x
    let sy := asSigned n y
    let yes : Bool := match h.fn / 4 with
      | 0 => x == y | 1 => x != y | 2 => sx < sy | 3 => sx ≤ sy | 4 => x < y | 5 => x ≤ y | 6 => x &&& y != 0 | _ => false
    (bif yes then 2 ^ n - 1 else 0, 0)))

/-- The floating-point lane forms are those of the scalar operations at the lane's format, FP32, FP16 or BF16 as FN 1:0 says, with
their flags lane by lane. -/
def Obligations.VectorFloats : Prop :=
  let e (h : Here) : Nat := if h.fn % 4 = 0 then 4 else 2
  let fmt (h : Here) : Fmt := if h.fn % 4 = 0 then fp32 else if h.fn % 4 = 1 then fp16 else bf16
  let op (row : Instr) (lat : Nat) (f : Fmt → Nat → FV → FV → FV → Nat × BitVec 7) : Prop :=
    GivesLanes row lat e fun h x y z => f (fmt h) h.ctx.rm ((fmt h).value x) ((fmt h).value y) ((fmt h).value z)
  op .vfadd 4 (fun f rm x y _ => f.add rm x y) ∧ op .vfsub 4 (fun f rm x y _ => f.add rm x y.neg) ∧
  op .vfmul 4 (fun f rm x y _ => f.mul rm x y) ∧ op .vfdiv 14 (fun f rm x y _ => f.div rm x y) ∧
  op .vfma 4 (fun f rm x y z => f.fma rm x y z) ∧ op .vfms 4 (fun f rm x y z => f.fma rm x y z.neg) ∧
  op .vfnma 4 (fun f rm x y z => f.fma rm x.neg y z.neg) ∧ op .vfnms 4 (fun f rm x y z => f.fma rm x.neg y z) ∧
  GivesLanes .vfmin 4 e (fun h x y _ => (fmt h).minmax false x y) ∧ GivesLanes .vfmax 4 e (fun h x y _ => (fmt h).minmax true x y) ∧
  GivesLanes .vfabs 1 e (fun h x _ _ => (x % 2 ^ (8 * e h - 1), 0)) ∧
  GivesLanes .vfneg 1 e (fun h x _ _ => ((x + 2 ^ (8 * e h - 1)) % 2 ^ (8 * e h), 0)) ∧
  GivesLanes .vfcmp 1 e (fun h x y _ => match Fc.ofCode (h.fn / 4) with
    | some c => (if (fcHolds c ((fmt h).value x) ((fmt h).value y)).1 then 2 ^ (8 * e h) - 1 else 0,
        (fcHolds c ((fmt h).value x) ((fmt h).value y)).2)
    | none => (0, 0))

/-- The special functions act on FP32 lanes in 18 clk, and Table 8.7's special operands give its results: NaN, infinities, zeros,
and a negative operand of vlog2 and vrsqrt. What the spec leaves open here is the model's (log entry 15). -/
def Obligations.SpecialFunctions : Prop :=
  let op (row : Instr) (f : Nat → Nat × BitVec 7) : Prop := GivesLanes row 18 (fun _ => 4) fun _ x _ _ => f x
  op .vexp2 sfExp2 ∧ op .vlog2 sfLog2 ∧ op .vrcp sfRcp ∧ op .vrsqrt sfRsqrt ∧ op .vsin (sfTrig false) ∧ op .vcos (sfTrig true) ∧
  op .vtanh sfTanh ∧ op .vsigm sfSigm ∧ op .verf sfErf ∧
  (∀ f ∈ [sfExp2, sfLog2, sfRcp, sfRsqrt, sfTrig false, sfTrig true, sfTanh, sfSigm, sfErf], ∀ x < 2 ^ 32,
    nan32 x = true → f x = (0x7FC00000, if snan32 x then 1 else 0)) ∧
  sfExp2 0x7F800000 = (0x7F800000, 0) ∧ sfExp2 0xFF800000 = (0, 0) ∧ sfLog2 0x7F800000 = (0x7F800000, 0) ∧
  (∀ x < 2 ^ 32, nan32 x = false → zero32 x = false → neg32 x = true → sfLog2 x = (0x7FC00000, 1) ∧ sfRsqrt x = (0x7FC00000, 1)) ∧
  (∀ x, x = 0 ∨ x = 2 ^ 31 → sfExp2 x = (0x3F800000, 0) ∧ sfLog2 x = (0xFF800000, 2) ∧ sfRcp x = (0x7F800000 + x, 2) ∧
    sfRsqrt x = (0x7F800000 + x, 2) ∧ sfTrig false x = (x, 0) ∧ sfTrig true x = (0x3F800000, 0) ∧ sfTanh x = (x, 0) ∧
    sfSigm x = (0x3F000000, 0) ∧ sfErf x = (x, 0)) ∧
  (∀ x, x = 0x7F800000 ∨ x = 0xFF800000 → sfRcp x = (x - 0x7F800000, 0) ∧ sfTrig false x = (0x7FC00000, 1) ∧
    sfTrig true x = (0x7FC00000, 1) ∧ sfTanh x = (x - 0x40000000, 0) ∧ sfErf x = (x - 0x40000000, 0)) ∧
  sfSigm 0x7F800000 = (0x3F800000, 0) ∧ sfSigm 0xFF800000 = (0, 0) ∧ sfRsqrt 0x7F800000 = (0, 0)

/-- Scalar results from vectors: vred over the present lanes, its FP forms by the fixed tree of R139; vpcnt counts the present
bytes whose bit 0 is set and vpfirst gives the first, or 64. With no lane present the result is a null. -/
def Obligations.Reductions : Prop :=
  let present (h : Here) (e : Nat) : List Nat := (List.range (64 / e)).filterMap (h.presentAt e)
  let gives (row : Instr) (lat e : Nat) (P : Here → Word → BitVec 7 → Prop) : Prop := ∀ (s : State) (h : Here), Fires s h row → h.dead true = false →
    (present h e = [] → exec row s = .next ((s.issue h).result h .null .null lat)) ∧
    (present h e ≠ [] → ∃ v fl, exec row s = .next (((s.issue h).flag h fl).result h (.sc v) .null lat) ∧ P h v fl)
  let tree (h : Here) (f : Nat → Nat → Nat) : Word := BitVec.ofNat 64 ((treeOf f (h.presentAt 4) 4 0).getD 0)
  let ints (h : Here) (e : Nat) : List Int := (present h e).map (asSigned (8 * e))
  gives .vredRsumF 12 4 (fun h v _ => v = tree h fun x y => (fp32.add h.ctx.rm (fp32.value x) (fp32.value y)).1) ∧
  gives .vredRmaxF 12 4 (fun h v _ => v = tree h fun x y => (fp32.minmax true x y).1) ∧
  gives .vredRminF 12 4 (fun h v _ => v = tree h fun x y => (fp32.minmax false x y).1) ∧
  gives .vredRsumW 3 4 (fun h v f => v.toInt = asSigned 32 (cutTo 32 (ints h 4).sum) ∧ f = 0) ∧
  gives .vredRsumD 3 8 (fun h v f => v = BitVec.ofInt 64 (ints h 8).sum ∧ f = 0) ∧
  gives .vredRmaxW 3 4 (fun h v f => v.toInt ∈ ints h 4 ∧ (∀ x ∈ ints h 4, x ≤ v.toInt) ∧ f = 0) ∧
  gives .vredRminW 3 4 (fun h v f => v.toInt ∈ ints h 4 ∧ (∀ x ∈ ints h 4, v.toInt ≤ x) ∧ f = 0) ∧
  gives .vpcnt 1 1 (fun h v f => v.toNat = ((List.range 64).filter fun i => (h.presentAt 1 i).any fun x => x % 2 == 1).length ∧ f = 0) ∧
  gives .vpfirst 1 1 (fun h v f => f = 0 ∧ v.toNat ≤ 64 ∧ (∀ i < v.toNat, ((h.presentAt 1 i).any fun x => x % 2 == 1) = false) ∧
    (v.toNat < 64 → ((h.presentAt 1 v.toNat).any fun x => x % 2 == 1) = true))

/-- The forms that move bytes (R153 to R155), lane by lane, vbcast, vext and vins; and the forms that change the width of lanes (R156 to
R159): vpack saturates, vunpk extends, vcvt converts element by element, with the flags of the elements it converts, vdot adds four byte
products to a word, tunpk gives the five trits of each of twelve bytes and 0 in lanes 60 to 63. A byte of 243 or more that tunpk decodes
gives zeros and raises TINV; under TCE it raises TERN_CODE (9) with the lowest such byte and its index (R114). -/
def Obligations.VectorMoves : Prop :=
  (GivesMoved .vperm 1 (fun h j => (laneAt h.vb 1 j).map fun x => if 128 ≤ x then none else some (false, x % 64)) ∧
  GivesMoved .vshuf 4 (fun h j => some (some (false, 16 * (j / 16) + 4 * (h.e.insn.x.imm.toNat / 4 ^ (j / 4 % 4) % 4) + j % 4))) ∧
  GivesMoved .vrot 1 (fun h j => some (some (false, (j + h.e.insn.x.imm.toNat) % 64))) ∧
  GivesMoved .vzipLo 4 (fun _ j => some (some (j / 4 % 2 == 1, 4 * (j / 8) + j % 4))) ∧
  GivesMoved .vzipHi 4 (fun _ j => some (some (j / 4 % 2 == 1, 4 * (j / 8 + 8) + j % 4))) ∧
  GivesMoved .vuzpEv 4 (fun _ j => some (some (32 ≤ j, 8 * (j / 4 % 8) + j % 4))) ∧
  GivesMoved .vuzpOd 4 (fun _ j => some (some (32 ≤ j, 8 * (j / 4 % 8) + 4 + j % 4))) ∧
  (∀ (s : State) (h : Here), Fires s h .vbcast → h.dead true = false → ∃ t, exec .vbcast s = .next ((s.issue h).result h t .null 1) ∧
    ∀ i < 64 / 2 ^ (h.fn % 4), laneAt t.vector (2 ^ (h.fn % 4)) i =
      if h.laneOn (2 ^ (h.fn % 4) * i) then laneAt h.va (2 ^ (h.fn % 4)) 0 else none) ∧
  (∀ (s : State) (h : Here) (b : Word), Fires s h .vext → h.dead true = false → (h.tok .b).scalar = some b →
    exec .vext s = .next ((s.issue h).result h
      (match h.presentAt (2 ^ (h.fn % 4)) (b.toNat % (64 / 2 ^ (h.fn % 4))) with
        | some x => .sc (BitVec.ofNat 64 x) | none => .null) .null 3)) ∧
  (∀ (s : State) (h : Here) (b : Word), Fires s h .vins → h.dead false = false → (h.tok .b).scalar = some b →
    ∃ t, exec .vins s = .next ((s.issue h).result h t .null 3) ∧
      ∀ i < 64 / 2 ^ (h.fn % 4), laneAt t.vector (2 ^ (h.fn % 4)) i =
        if h.laneOn (2 ^ (h.fn % 4) * i) then
          (if i = b.toNat % (64 / 2 ^ (h.fn % 4)) then h.tokC.scalar.map fun c => c.toNat % 2 ^ (8 * 2 ^ (h.fn % 4))
            else laneAt h.va (2 ^ (h.fn % 4)) i)
        else none)) ∧
  (let elem (h : Here) (e' e : Nat) (f : Nat → Nat → Nat × BitVec 7) (i : Nat) : Option (Nat × BitVec 7) :=
    if h.laneOn (e * i) then (laneAt h.va e' i).map (f i) else none
  let gives (row : Instr) (n e' e : Nat) (f : Nat → Nat) : Prop := ∀ (s : State) (h : Here), Fires s h row → h.dead true = false →
    ∃ t, exec row s = .next ((s.issue h).result h t .null 3) ∧
      (∀ i < n, laneAt t.vector e i = (elem h e' e (fun _ x => (f x, 0)) i).map Prod.fst) ∧
      ∀ j < 64, n * e ≤ j → laneAt t.vector 1 j = some 0
  let sat (n x : Nat) (m : Nat) : Nat := cutTo m (max (-2 ^ (m - 1)) (min (2 ^ (m - 1) - 1) (asSigned n x)))
  let dot (sa sb : Bool) (x y z : Nat) : Nat :=
    let b (sg : Bool) (v k : Nat) : Int := if sg then asSigned 8 (v / 256 ^ k % 256) else (v / 256 ^ k % 256 : Nat)
    cutTo 32 (z + b sa x 0 * b sb y 0 + b sa x 1 * b sb y 1 + b sa x 2 * b sb y 2 + b sa x 3 * b sb y 3)
  gives .vpackHW 16 4 2 (fun x => sat 32 x 16) ∧ gives .vpackBW 16 4 1 (fun x => sat 32 x 8) ∧ gives .vpackBH 32 2 1 (fun x => sat 16 x 8) ∧
  gives .vunpkHB 32 1 2 (fun x => cutTo 16 (asSigned 8 x)) ∧ gives .vunpkWB 16 1 4 (fun x => cutTo 32 (asSigned 8 x)) ∧
  gives .vunpkWH 16 2 4 (fun x => cutTo 32 (asSigned 16 x)) ∧
  gives .vunpkHBu 32 1 2 id ∧ gives .vunpkWBu 16 1 4 id ∧ gives .vunpkWHu 16 2 4 id ∧
  GivesLanes .vdotSs 3 (fun _ => 4) (fun _ x y z => (dot true true x y z, 0)) ∧
  GivesLanes .vdotSu 3 (fun _ => 4) (fun _ x y z => (dot true false x y z, 0)) ∧
  GivesLanes .vdotUu 3 (fun _ => 4) (fun _ x y z => (dot false false x y z, 0)) ∧
  (∀ (s : State) (h : Here) (cv : Cv), Fires s h .vcvt → drawReady h s = true → h.dead true = false → Cv.ofCode h.fn = some cv →
    let n := if cv = .lS ∨ cv = .sL then 8 else 16
    let d (i : Nat) : Option Nat := if cvStochastic cv && (h.ctx.fpm &&& 7) == 4 then some (drawBits (drawStates (h.lfsrAt s.cycle) (i + 1))) else none
    ∃ t fl, exec .vcvt s = .next (((s.issue h).flag h fl).result h t .null 3) ∧
      (∀ i < n, laneAt t.vector (cvDstBits cv / 8) i =
        (elem h (cvSrcBits cv / 8) (cvDstBits cv / 8) (fun i x => convert cv h.ctx.rm (d i) x) i).map Prod.fst) ∧
      ∀ k < 7, fl.getLsbD k = (List.range n).any fun i =>
        (elem h (cvSrcBits cv / 8) (cvDstBits cv / 8) (fun i x => convert cv h.ctx.rm (d i) x) i).any fun r => r.2.getLsbD k) ∧
  (∀ (s : State) (h : Here), Fires s h .tunpk → h.dead true = false →
    let invalid (j x : Nat) : Prop := j < 12 ∧ (∃ i < 5, h.laneOn (5 * j + i) = true) ∧ laneAt h.va 1 j = some x ∧ 243 ≤ x
    let gives (fl : BitVec 7) : Prop := ∃ t, exec .tunpk s = .next (((s.issue h).flag h fl).result h t .null 3) ∧
      (∀ i < 60, laneAt t.vector 1 i = if h.laneOn i then (laneAt h.va 1 (i / 5)).map fun x =>
        if 243 ≤ x then 0 else if x / 3 ^ (i % 5) % 3 = 2 then 255 else x / 3 ^ (i % 5) % 3 else none) ∧
      ∀ i, 60 ≤ i → i < 64 → laneAt t.vector 1 i = if h.laneOn i then some 0 else none
    ((∀ j x, ¬invalid j x) → gives 0) ∧
    (∀ j x, invalid j x → (∀ i < j, ∀ y, ¬invalid i y) →
      (h.ctx.fpm.getLsbD 8 = false → gives 32) ∧
      (h.ctx.fpm.getLsbD 8 = true → exec .tunpk s = .next (((s.issue h).flag h 32).raise h 9 (BitVec.ofNat 64 (256 * j + x)))))))

/-! ## Memory forms -/

/-- Loads (R24, R25, R181, R204, R207, R208). A scalar load gives the n bytes at EA, little-endian, sign- or zero-extended, under its
thread's queued stores and its block's stores of lower LSID: from the word that has arrived in 1 clk; from those stores where they
cover it, or from the line in the L1, in 4 clk; otherwise the read of the word's line goes to its home, as an acquire for ldacq, which
never looks in the L1 nor at queued stores, and a fill is on its way. Before its stores of lower LSID have settled it is held back, and a
load behind an acquire of its block that is not complete, as an acquire itself, until its thread's stores to its word are accepted.
With every word they read arrived, vld gives the 64 bytes at EA, vldb the word at EA in eight lanes, and vgath the element at EA +
index × E in each lane; a disabled lane, or one whose index is null, is null and reads nothing. What the spec leaves open here is the
model's (log entries 7, 9). Completes: the ld and ldacq forms, vld, vldb, vgath.w, vgath.d. -/
def Obligations.Loads : Prop :=
  (∀ q ∈ loadRows, ∀ (s : State) (h : Here) (a : Word) (pa hint dom : Nat), Fires s h q.1 → h.pOn = true → h.a = some a → (h.addr a).toNat % q.2.1 = 0 →
    s.xlate h.c h.ten h.b.bad (h.addr a) .load = .ok pa hint dom →
    let acq : Bool := q.2.2.2
    let ws : List Nat := if acq || h.early s.cycle then [pa / 8] else []
    let queued : List Wr := if acq then [] else if h.e.phase = .waiting ∨ h.e.own = [] then s.ownWrites h.c h.ctx.id else h.e.own
    let own : List Wr := queued ++ h.b.writesBelow h.lsid
    let m : Byte := BitVec.ofNat 8 ((2 ^ q.2.1 - 1) * 2 ^ (pa % 8))
    let hit : Option (BitVec 1024) := if acq = false ∧ hint ≠ 0 ∧ hint ≠ 5 ∧ isStack pa = true then (s.core h.c).l1Hit h.ten (pa / 128) else none
    let done (v : Word) (lat : Nat) : Prop := ∃ t, exec q.1 s = .next t ∧ Kept s t h ∧
      Answered s t h (fun b => { b.got h.i with loads := if b.loads.contains (h.lsid, pa / 128) then b.loads else b.loads ++ [(h.lsid, pa / 128)] }) (.sc (bytesOf q.2.1 q.2.2.1 (overlay own (pa / 8) v) (pa % 8))) .null lat
    (loadReady h s = true → Strong s h ws →
      (∀ v, h.e.words = [(pa / 8, v)] → done v 1) ∧
      (h.e.words = [] → coverOf own (pa / 8) &&& m = m → done 0 4) ∧
      (h.e.words = [] → coverOf own (pa / 8) &&& m ≠ m → ∀ d, hit = some d → done (lineWord d (pa / 8 % 16)) 4) ∧
      (h.e.words = [] → coverOf own (pa / 8) &&& m ≠ m → hit = none →
        ∃ t, exec q.1 s = .next t ∧ Kept s { t with peq := s.peq } h ∧
          t.peq = s.peq ++ [{ code := if acq then 2 else 0, line := pa / 128, req := h.c, hint := hint, who := .entry h.c h.k h.b.rid h.i, words := [pa / 8],
                              reply := none, sq := none, va := h.addr a, dom := dom, ten := h.ten }] ∧
          (t.core h.c).fills = (s.core h.c).fills ++ [{ rid := h.b.rid, idx := h.i, line := pa / 128, ten := h.ten, stale := acq }] ∧
          ∃ b e, (t.slot h.c h.k).blk = some b ∧ b.body[h.i]? = some e ∧ e.phase = .sent ∧ e.want = [pa / 8])) ∧
    (h.e.phase ≠ .held → s.trails h = false → loadReady h s = false ∨ ((acq || h.early s.cycle) = true ∧ s.clearOf h (pa / 8) = false) →
      ∃ t, exec q.1 s = .next t ∧ HeldBack s t h ws)) ∧
  (let ready (s : State) (h : Here) (row : Instr) (a : Word) : Prop :=
    Fires s h row ∧ Clean s h ∧ loadReady h s = true ∧ h.dead true = false ∧ h.a = some a
  let there (s : State) (h : Here) (va : Word) (pa : Nat) (v : Word) : Prop :=
    (∃ hint dom, s.xlate h.c h.ten h.b.bad va .load = .ok pa hint dom) ∧ wordIn h.e.words (pa / 8) = some v
  let done (s : State) (h : Here) (row : Instr) (P : Tok → Prop) : Prop :=
    ∃ t k l, exec row s = .next t ∧ Kept s t h ∧ Answered s t h (fun b => { b.got h.i with loads := b.loads ++ l }) k .null 1 ∧ P k
  (∀ (s : State) (h : Here) (a : Word) (pa : Nat → Nat) (v : Nat → Word), ready s h .vld a → (h.addr a).toNat % 64 = 0 →
    (∃ j < 64, h.laneOn j = true) →
    (∀ i < 8, (∃ j < 8, h.laneOn (8 * i + j) = true) → there s h (h.addr a + BitVec.ofNat 64 (8 * i)) (pa i) (v i) ∧ pa i % 8 = 0) →
    done s h .vld fun k => ∀ j < 64, laneAt k.vector 1 j = if h.laneOn j then some ((v (j / 8)).toNat / 256 ^ (j % 8) % 256) else none) ∧
  (∀ (s : State) (h : Here) (a : Word) (pa : Nat) (v : Word), ready s h .vldb a → (h.addr a).toNat % 8 = 0 →
    (∃ i < 8, h.laneOn (8 * i) = true) → there s h (h.addr a) pa v → pa % 8 = 0 →
    done s h .vldb fun k => ∀ i < 8, laneAt k.vector 8 i = if h.laneOn (8 * i) then some v.toNat else none) ∧
  (∀ q ∈ [(Instr.vgathW, 4), (.vgathD, 8)], ∀ (s : State) (h : Here) (a : Word) (pa : Nat → Nat) (v : Nat → Word), ready s h q.1 a →
    (h.addr a).toNat % q.2 = 0 → (∃ i < 64 / q.2, h.laneOn (q.2 * i) = true ∧ (laneAt h.vb q.2 i).isSome) →
    (∀ i x, i < 64 / q.2 → h.laneOn (q.2 * i) = true → laneAt h.vb q.2 i = some x →
      there s h (h.addr a + BitVec.ofInt 64 (asSigned (8 * q.2) x * q.2)) (pa i) (v i)) →
    done s h q.1 fun k => ∀ i < 64 / q.2, laneAt k.vector q.2 i =
      if h.laneOn (q.2 * i) && (laneAt h.vb q.2 i).isSome then some ((v i).toNat / 2 ^ (8 * (pa i % 8)) % 2 ^ (8 * q.2)) else none)) ∧
  (∀ row ∈ loadRows.map Prod.fst ++ [.vld, .vldb, .vgathW, .vgathD], Trails row)

/-- R24, R25: what a load sees of its thread's stores. Over a word, each byte is that of the last write in order that covers it, and
the word's own where none does; and a block's stores below an LSID come in LSID order. -/
def Obligations.StoresSeenByLoads : Prop :=
  (∀ (ws : List Wr) (w : Wr) (word : Nat) (v : Word) (i : Nat), i < 8 →
    byteOf (overlay (ws ++ [w]) word v) i = if w.word = word ∧ w.mask.getLsbD i = true then byteOf w.data i else byteOf (overlay ws word v) i) ∧
  (∀ (word : Nat) (v : Word), overlay [] word v = v) ∧
  (∀ (b : Block) (j : Nat), b.writesBelow (j + 1) = b.writesBelow j ++ match b.stores.find? (·.1 == j) with | some x => x.2.2 | none => []) ∧
  (∀ b : Block, b.writesBelow 0 = [])

/-- Stores settle in their block and leave nothing else (R24, R25, R207, R209): a scalar store one write of n bytes at EA, a release with
its scope; vst the enabled, non-null bytes of b at EA; vscat the lanes of c, in ascending order, at EA + index × E, lanes that fall in one
aligned word being one access. Fences (R214): fence.acq completes once every load of its block below it has returned; fence.rel
settles at once; fence.full waits for its loads, for what its thread has queued, but for marks of fences, to have left and be performed at
its scope, and for what earlier full fences let stand; until then the fence is held back. A release leaves its mark, with its scope, for commit.
Completes: the st and strel forms, vst, vscat.w, vscat.d, fence.acq, fence.rel, fence.full. -/
def Obligations.StoresAndFences : Prop :=
  ((∀ q ∈ storeRows, ∀ (s : State) (h : Here) (a b c : Word) (pa hint dom : Nat), Fires s h q.1 → Live h a b c → (h.addr a).toNat % q.2.1 = 0 →
    s.xlate h.c h.ten h.b.bad (h.addr a) .store = .ok pa hint dom →
    exec q.1 s = .next (((s.issue h).settle h (if q.2.2 then some ((Scope.ofCode (h.fn / 4)).getD .sys) else none)
      [⟨pa / 8, BitVec.ofNat 64 (b.toNat * 2 ^ (8 * (pa % 8))), BitVec.ofNat 8 ((2 ^ q.2.1 - 1) * 2 ^ (pa % 8)), h.addr a, hint, dom⟩]).result h .null .null 1)) ∧
  (∀ (s : State) (h : Here) (a : Word) (pa hint dom : Nat), Fires s h .vst → h.dead true = false → h.a = some a → (h.addr a).toNat % 64 = 0 →
    (∃ j < 64, h.laneOn j = true ∧ (laneAt h.vb 1 j).isSome) → s.xlate h.c h.ten h.b.bad (h.addr a) .store = .ok pa hint dom →
    ∃ ws, exec .vst s = .next (((s.issue h).settle h none ws).result h .null .null 1) ∧
      (∀ w ∈ ws, pa / 8 ≤ w.word ∧ w.word < pa / 8 + 8 ∧ w.hint = hint ∧ w.dom = dom ∧ w.va = h.addr a + BitVec.ofNat 64 (8 * (w.word - pa / 8))) ∧
      ∀ j old, j < 64 → byteOf (overlay ws (pa / 8 + j / 8) old) (j % 8) =
        if h.laneOn j && (laneAt h.vb 1 j).isSome then BitVec.ofNat 8 (h.vb.1.toNat / 256 ^ j % 256) else byteOf old (j % 8)) ∧
  (∀ q ∈ [(Instr.vscatW, 4), (.vscatD, 8)], ∀ (s : State) (h : Here) (a : Word) (pa hint dom : Nat → Nat), Fires s h q.1 → h.dead true = false →
    h.a = some a → (h.addr a).toNat % q.2 = 0 →
    let on := (List.range (64 / q.2)).filter fun i => h.laneOn (q.2 * i) && (laneAt h.vb q.2 i).isSome && (laneAt h.vc q.2 i).isSome
    let va (i : Nat) : Word := h.addr a + BitVec.ofInt 64 (asSigned (8 * q.2) ((laneAt h.vb q.2 i).getD 0) * q.2)
    let one (i : Nat) : Wr := wrOf (pa i) (va i) (hint i) (dom i) (BitVec.ofNat 64 ((laneAt h.vc q.2 i).getD 0)) q.2
    on ≠ [] → (∀ i ∈ on, s.xlate h.c h.ten h.b.bad (va i) .store = .ok (pa i) (hint i) (dom i)) →
    ∃ ws, exec q.1 s = .next (((s.issue h).settle h none ws).result h .null .null 1) ∧ (ws.map Wr.word).Nodup ∧
      (∀ w ∈ ws, ∃ i ∈ on, w.word = pa i / 8 ∧ w.va = va i ∧ w.hint = hint i ∧ w.dom = dom i) ∧
      (∀ word, coverOf ws word = coverOf (on.map one) word) ∧ ∀ word old, overlay ws word old = overlay (on.map one) word old)) ∧
  (let loads (s : State) (h : Here) : Bool := h.b.loadsBelow s.cycle h.lsid
  let scope (h : Here) : Scope := (Scope.ofCode (h.fn / 4)).getD .sys
  let clear (s : State) (h : Here) : Prop := (∀ e ∈ (s.core h.c).sq, e.ctx = h.ctx.id → e.isMark = false → e.phase ≠ .queued ∧ e.performedAt (scope h) = true) ∧
    ∀ r ∈ s.fulls, ∀ e ∈ (s.core r.1).sq, e.id ∉ r.2
  (∀ (s : State) (h : Here), Fires s h .fenceAcq →
    (h.e.want = [] → h.pOn = false ∨ loads s h = true → exec .fenceAcq s = .next ((s.issue h).result h .null .null 1)) ∧
    (h.e.phase ≠ .held → h.pOn = true → loads s h = false → ∃ t, exec .fenceAcq s = .next t ∧ HeldBack s t h [])) ∧
  (∀ (s : State) (h : Here), Fires s h .fenceRel → h.pOn = true →
    exec .fenceRel s = .next (((s.issue h).settle h (some (scope h)) []).result h .null .null 1)) ∧
  (∀ (s : State) (h : Here), Fires s h .fenceFull → h.pOn = true →
    (h.e.want = [] → loads s h = true → clear s h → exec .fenceFull s = .next ((((s.issue h).addFull h).settle h (some (scope h)) []).result h .null .null 1)) ∧
    (h.e.phase ≠ .held → ¬(loads s h = true ∧ clear s h) → ∃ t, exec .fenceFull s = .next t ∧ HeldBack s t h [])))

/-- The checks of a memory form's address, when it fires (R177, R204, R207 to R209, R215, R218, R219): a misaligned EA raises ALIGNMENT
(2) with EA, before any translation; of its addresses in order, the first whose translation fails raises TRANSLATION (3) with it, and
one that misses the TLB sends a walk request for its page, and the form waits. What the spec leaves open here is the model's (log entry
8). -/
def Obligations.AddressFaults : Prop :=
  let fails (s : State) (h : Here) (row : Instr) (acc : Acc) (vas : List Word) : Prop :=
    ∀ (ok rest : List Word) (va : Word), vas = ok ++ va :: rest → (∀ u ∈ ok, ∃ pa hint dom, s.xlate h.c h.ten h.b.bad u acc = .ok pa hint dom) →
      (s.xlate h.c h.ten h.b.bad va acc = .fault → exec row s = .next ((s.issue h).raise h 3 va)) ∧
      (s.xlate h.c h.ten h.b.bad va acc = .miss → ∃ t, exec row s = .next t ∧ Kept s { t with reqs := s.reqs, nextId := s.nextId } h ∧
        t.reqs = s.reqs ++ [{ id := s.nextId, tag := (s.core h.c).tag, pkt := .walk h.c h.ten (va.toNat / 65536) }] ∧
        ∃ b e, (t.slot h.c h.k).blk = some b ∧ b.body[h.i]? = some e ∧ e.phase = .xlate ∧ e.reqPage = va.toNat / 65536)
  let checks (s : State) (h : Here) (row : Instr) (acc : Acc) (n : Nat) (a : Word) (vas : List Word) : Prop :=
    ((h.addr a).toNat % n ≠ 0 → exec row s = .next ((s.issue h).raise h 2 (h.addr a))) ∧ ((h.addr a).toNat % n = 0 → fails s h row acc vas)
  let own (s : State) (h : Here) : Prop := s.trails h = false ∧ h.e.phase ≠ .held
  let elem (h : Here) (a : Word) (e i : Nat) : Word := h.addr a + BitVec.ofInt 64 (asSigned (8 * e) ((laneAt h.vb e i).getD 0) * e)
  (∀ q ∈ loadRows, ∀ (s : State) (h : Here) (a : Word), Fires s h q.1 → own s h → h.pOn = true → h.a = some a → checks s h q.1 .load q.2.1 a [h.addr a]) ∧
  (∀ q ∈ storeRows, ∀ (s : State) (h : Here) (a b c : Word), Fires s h q.1 → Live h a b c → checks s h q.1 .store q.2.1 a [h.addr a]) ∧
  (∀ q ∈ feRows, ∀ (s : State) (h : Here) (a b c : Word), Fires s h q.1 → own s h → Live h a b c → q.2.1 = false ∨ h.ctx.hnd = false →
    checks s h q.1 q.2.2 8 a [h.addr a]) ∧
  (∀ row ∈ amoRows, ∀ (s : State) (h : Here) (a b c : Word), Fires s h row → own s h → Live h a b c →
    checks s h row .both (if h.fn % 4 = 1 then 8 else 4) a [h.addr a]) ∧
  (∀ q ∈ [(Instr.casW, 4), (.casD, 8)], ∀ (s : State) (h : Here) (a b c : Word), Fires s h q.1 → own s h → h.pOn = true → h.a = some a →
    (h.tok .b).scalar = some b → h.tokC.scalar = some c → checks s h q.1 .both q.2 a [h.addr a]) ∧
  (∀ (s : State) (h : Here) (a : Word) (b c : BitVec 128), Fires s h .casQ → own s h → h.pOn = true → h.a = some a →
    quad (h.tok .b) = some b → quad h.tokC = some c → checks s h .casQ .both 16 a [h.addr a]) ∧
  (∀ (s : State) (h : Here) (a : Word), Fires s h .vld → own s h → h.dead true = false → h.a = some a →
    let ws := (List.range 8).filter fun i => (List.range 8).any fun j => h.laneOn (8 * i + j)
    ws ≠ [] → checks s h .vld .load 64 a (ws.map fun i => h.addr a + BitVec.ofNat 64 (8 * i))) ∧
  (∀ (s : State) (h : Here) (a : Word), Fires s h .vldb → own s h → h.dead true = false → h.a = some a → (∃ i < 8, h.laneOn (8 * i) = true) →
    checks s h .vldb .load 8 a [h.addr a]) ∧
  (∀ q ∈ [(Instr.vgathW, 4), (.vgathD, 8)], ∀ (s : State) (h : Here) (a : Word), Fires s h q.1 → own s h → h.dead true = false → h.a = some a →
    let on := (List.range (64 / q.2)).filter fun i => h.laneOn (q.2 * i) && (laneAt h.vb q.2 i).isSome
    on ≠ [] → checks s h q.1 .load q.2 a (on.map (elem h a q.2))) ∧
  (∀ (s : State) (h : Here) (a : Word), Fires s h .vst → h.dead true = false → h.a = some a → (∃ j < 64, h.laneOn j = true ∧ (laneAt h.vb 1 j).isSome) →
    checks s h .vst .store 64 a [h.addr a]) ∧
  (∀ q ∈ [(Instr.vscatW, 4), (.vscatD, 8)], ∀ (s : State) (h : Here) (a : Word), Fires s h q.1 → h.dead true = false → h.a = some a →
    let on := (List.range (64 / q.2)).filter fun i => h.laneOn (q.2 * i) && (laneAt h.vb q.2 i).isSome && (laneAt h.vc q.2 i).isSome
    on ≠ [] → checks s h q.1 .store q.2 a (on.map (elem h a q.2)))

/-- Full/empty forms, atomics and compare-and-swaps (R186, R204, R215, R216, R218, R219, R229, R269). With its checks passed, its
conditions met and its thread's stores to its words accepted, the form sends its request to the home of the word at EA and waits for the
reply, a form that changes memory taking its block past its point of no return; until then it is held back. At a home that serves
it, with its line in the L2, the request has the form's effect there: the word's new value and full/empty bit, no other byte changed,
and the form's results on their way as those of a strong access of its line. A form that can wait raises HANDLER_BLOCK (16) in a handler
(its place before the other checks is the model's, log entry 71). A nulled form completes with nulls, and one in a trailing slot with the
results of its leading slot (R398). Completes: the ldf, stf, fepurge and fefill forms, the amo forms, cas.w, cas.d, cas.q. -/
def Obligations.HomeRequests : Prop :=
  let sends (row : Instr) (s : State) (h : Here) (ready : Bool) (ws : List Nat) (p : Pkt) (served : Prop) (step : Instr) (P : State → Prop) : Prop :=
    (ready = true → Strong s h ws → ∃ t, exec row s = .next t ∧ Asked s t h p ∧ (served → ∃ u, exec step t.atLast = .next u ∧ P u)) ∧
    (h.e.phase ≠ .held → s.trails h = false → ready = false ∨ (∃ w ∈ ws, s.clearOf h w = false) → ∃ t, exec row s = .next t ∧ HeldBack s t h ws)
  let served (s : State) (h : Here) (pa dom n : Nat) : Prop := s.sound = true ∧ Reaches s (s.core h.c).tag pa dom ∧ pa % n = 0 ∧ (s.dir (pa / 128)).isSome = true ∧
    s.outstanding (pa / 8) h.c = none ∧ s.mixedBad (pa / 8) n = false
  (∀ q ∈ feRows, ∀ (s : State) (h : Here) (a b c : Word) (pa hint dom : Nat), Fires s h q.1 → Live h a b c → (q.2.1 = true → h.ctx.hnd = false) →
    (h.addr a).toNat % 8 = 0 → s.xlate h.c h.ten h.b.bad (h.addr a) q.2.2 = .ok pa hint dom →
    let who : Who := .entry h.c h.k h.b.rid h.i
    sends q.1 s h (if q.1 = .ldfw ∨ q.1 = .ldfn then loadReady h s else commitReady h s) [pa / 8] (.fe ⟨q.1, pa / 8, b, who, hint, h.addr a, dom⟩)
      (served s h pa dom 8 ∧ (feFills q.1 = true → s.drained h.c h.ctx.id .sys = true) ∧ (∀ w ∈ s.waits, w.word ≠ pa / 8) ∧
        (feServed q.1 (s.full (pa / 8)) (s.word (pa / 8)) b).isSome = true)
      .homeFeRequest fun u => ∀ r, feServed q.1 (s.full (pa / 8)) (s.word (pa / 8)) b = some r →
        u.word (pa / 8) = r.1 ∧ u.full (pa / 8) = r.2.1 ∧ SameBut s u [pa / 8] ∧ Performed u (pa / 128) who r.2.2.1 r.2.2.2) ∧
  (∀ q ∈ feRows, q.2.1 = true → ∀ (s : State) (h : Here) (a b c : Word), Fires s h q.1 → s.trails h = false → h.e.phase ≠ .held → Live h a b c →
    h.ctx.hnd = true → exec q.1 s = .next ((s.issue h).raise h 16 0)) ∧
  (∀ row ∈ amoRows, ∀ (s : State) (h : Here) (a b c : Word) (pa hint dom : Nat), Fires s h row → Live h a b c →
    let n : Nat := if h.fn % 4 = 1 then 8 else 4
    let at_ : Nat := 8 * (pa % 8)
    let o : Nat := (s.word (pa / 8)).toNat / 2 ^ at_ % 2 ^ (8 * n)
    let who : Who := .entry h.c h.k h.b.rid h.i
    (h.addr a).toNat % n = 0 → s.xlate h.c h.ten h.b.bad (h.addr a) .both = .ok pa hint dom →
    sends row s h (commitReady h s) [pa / 8] (.amo row (pa / 8) (pa % 8 == 4) (h.fn % 4 == 1) b who hint (h.addr a) dom) (served s h pa dom n)
      .homeAmo fun u => SameBut s u [pa / 8] ∧
        (u.word (pa / 8)).toNat + o * 2 ^ at_ = (s.word (pa / 8)).toNat + amoValue row (8 * n) o (b.toNat % 2 ^ (8 * n)) * 2 ^ at_ ∧
        Performed u (pa / 128) who (.sc (if n = 8 then BitVec.ofNat 64 o else BitVec.ofInt 64 (asSigned 32 o))) .null) ∧
  (∀ q ∈ [(Instr.casW, 4), (.casD, 8)], ∀ (s : State) (h : Here) (a b c : Word) (pa hint dom : Nat), Fires s h q.1 → h.pOn = true →
    h.a = some a → (h.tok .b).scalar = some b → h.tokC.scalar = some c → (h.addr a).toNat % q.2 = 0 →
    s.xlate h.c h.ten h.b.bad (h.addr a) .both = .ok pa hint dom →
    let at_ : Nat := 8 * (pa % 8)
    let o : Nat := (s.word (pa / 8)).toNat / 2 ^ at_ % 2 ^ (8 * q.2)
    let who : Who := .entry h.c h.k h.b.rid h.i
    sends q.1 s h (commitReady h s) [pa / 8] (.cas q.1 (pa / 8) (pa % 8 == 4) (b.zeroExtend 128) (c.zeroExtend 128) who hint (h.addr a) dom)
      (served s h pa dom q.2) .homeCas fun u => SameBut s u [pa / 8] ∧
        (u.word (pa / 8)).toNat + o * 2 ^ at_ = (s.word (pa / 8)).toNat + (if o = b.toNat % 2 ^ (8 * q.2) then c.toNat % 2 ^ (8 * q.2) else o) * 2 ^ at_ ∧
        Performed u (pa / 128) who (.sc (if q.2 = 8 then BitVec.ofNat 64 o else BitVec.ofInt 64 (asSigned 32 o))) .null) ∧
  (∀ (s : State) (h : Here) (a : Word) (b c : BitVec 128) (pa hint dom : Nat), Fires s h .casQ → h.pOn = true →
    h.a = some a → quad (h.tok .b) = some b → quad h.tokC = some c → (h.addr a).toNat % 16 = 0 →
    s.xlate h.c h.ten h.b.bad (h.addr a) .both = .ok pa hint dom →
    let o : BitVec 128 := s.word (pa / 8 + 1) ++ s.word (pa / 8)
    let who : Who := .entry h.c h.k h.b.rid h.i
    sends .casQ s h (commitReady h s) [pa / 8, pa / 8 + 1] (.cas .casQ (pa / 8) (pa % 8 == 4) b c who hint (h.addr a) dom)
      (served s h pa dom 16 ∧ s.outstanding (pa / 8 + 1) h.c = none ∧ s.mixedBad (pa / 8 + 1) 16 = false)
      .homeCas fun u => SameBut s u [pa / 8, pa / 8 + 1] ∧ u.word (pa / 8 + 1) ++ u.word (pa / 8) = (if o = b then c else o) ∧
        Performed u (pa / 128) who (.vec (o.zeroExtend 512) 0) .null) ∧
  (∀ row ∈ feRows.map Prod.fst ++ amoRows, ∀ (s : State) (h : Here), Fires s h row → s.trails h = false → h.e.phase ≠ .held → Nulled h →
    ∃ t, exec row s = .next t ∧ Kept s t h ∧ Answered s t h id .null .null 1) ∧
  (∀ row ∈ feRows.map Prod.fst ++ amoRows ++ [.casW, .casD, .casQ], Trails row)

/-- harvest (R222): privileged; reads and clears, in one step, the dirty bits of b pages from a, bit i of the result for page i. A
page that is not stack memory of a slice pair of the partition, or one of whose homes is fenced, raises TRANSLATION (3) with its address; until
its conditions as a committing form hold, it is held back. What the spec leaves open here is the model's (log entries 44, 71).
Completes: harvest. -/
def Obligations.Harvest : Prop :=
  (∀ (s : State) (h : Here) (a b c : Word), Fires s h .harvest → s.trails h = false → Live h a b c →
    let page (i : Nat) : Bool := s.partStack (s.partOf h.ten) (a.toNat + 65536 * i) && !s.homeFenced (a.toNat + 65536 * i) &&
      !s.homeFenced (a.toNat + 65536 * i + 128)
    (h.e.phase ≠ .held → s.privileged h.ten = false → exec .harvest s = .next ((s.issue h).raise h 4 0)) ∧
    (h.e.phase ≠ .held → s.privileged h.ten = true → a.toNat % 65536 ≠ 0 → exec .harvest s = .next ((s.issue h).raise h 2 a)) ∧
    (h.e.phase ≠ .held → s.privileged h.ten = true → a.toNat % 65536 = 0 → b.toNat = 0 ∨ 64 < b.toNat → exec .harvest s = .next ((s.issue h).raise h 8 0)) ∧
    (h.e.phase ≠ .held → ∀ i < b.toNat, s.privileged h.ten = true → a.toNat % 65536 = 0 → b.toNat ≤ 64 → page i = false → (∀ j < i, page j = true) →
      exec .harvest s = .next ((s.issue h).raise h 3 (BitVec.ofNat 64 (a.toNat + 65536 * i)))) ∧
    (s.privileged h.ten = true → a.toNat % 65536 = 0 → 1 ≤ b.toNat → b.toNat ≤ 64 → (∀ i < b.toNat, page i = true) →
      (h.e.phase ≠ .held → commitReady h s = false → ∃ t, exec .harvest s = .next t ∧ HeldBack s t h []) ∧
      (h.e.want = [] → commitReady h s = true →
        ∃ t m, exec .harvest s = .next t ∧ Kept s { t with dirty := s.dirty } h ∧ Answered s t h (fun b => { b with ponr := true }) (.sc m) .null 30 ∧
          (∀ p, t.dirty.contains p = (s.dirty.contains p && !(a.toNat / 65536 ≤ p && p < a.toNat / 65536 + b.toNat))) ∧
          ∀ i < 64, bitAt m i = (decide (i < b.toNat) && s.dirty.contains (a.toNat / 65536 + i))))) ∧
  Trails .harvest

/-! ## Registers, streams and system registers -/

/-- read and write of registers and streams (R89, R90, R165 to R168): read emits the value at block start, write settles its token for
commit; a pop gives the next k elements in lanes from 0, null above, and advances the position at commit, and at the end of its stream
gives a null; until every acquire of its block that does not depend on it is complete it is held back; a push leaves its element writes
for commit; against the stream's direction both raise STREAM_DIR (11); with its predicate off a read or a push gives a null. What the
spec leaves open here is the model's (log entries 7, 8, 72). Completes: read, write. -/
def Obligations.RegistersAndStreams : Prop :=
  (∀ (s : State) (h : Here), Fires s h .read → h.bound = none →
    (h.pOn = true → h.fn < 16 → exec .read s = .next ((s.issue h).result h (.sc (h.ctx.greg (BitVec.ofNat 4 h.fn))) .null 1)) ∧
    (h.pOn = true → 16 ≤ h.fn → exec .read s = .next ((s.issue h).result h (.vec (h.ctx.vreg (BitVec.ofNat 3 (h.fn - 16))) 0) .null 1)) ∧
    (h.pOn = false → exec .read s = .next ((s.issue h).result h .null .null 1))) ∧
  (∀ (s : State) (h : Here), Fires s h .write → h.bound = none →
    exec .write s = .next (((s.issue h).modBlk h.c h.k fun b => { b with regs := b.regs ++ [(h.fn, if h.pOn then h.tok .a else .null)] }).result h .null .null 1)) ∧
  (∀ (s : State) (h : Here) (x : Stream), h.bound = some x → h.pOn = true →
    (Fires s h .read → x.push = true → exec .read s = .next ((s.issue h).raise h 11 0)) ∧
    (Fires s h .write → x.push = false → (h.tok .a).vector.2 ≠ BitVec.allOnes 64 → exec .write s = .next ((s.issue h).raise h 11 0))) ∧
  (∀ (s : State) (h : Here) (x : Stream), Fires s h .read → h.bound = some x → x.push = false → s.trails h = false →
    (h.e.phase ≠ .held → h.pOn = false → ∃ t, exec .read s = .next t ∧ Kept s t h ∧ Answered s t h id .null .null 1) ∧
    (h.e.phase ≠ .held → h.pOn = true → x.next = 0 → ∃ t, exec .read s = .next t ∧ Kept s t h ∧
      Answered s t h (fun b => { b with acts := b.acts ++ [(h.i, .pop h.strNo 0)] }) .null .null 1) ∧
    (h.e.phase ≠ .held → h.pOn = true → 0 < x.next → popReady h s = false →
      (∀ i < x.next, ∃ pa hint dom, s.xlate h.c h.ten h.b.bad (x.elemVa (x.pos + i)) .load = .ok pa hint dom) →
      ∃ t, exec .read s = .next t ∧ HeldBack s t h [])) ∧
  (∀ (s : State) (h : Here) (x : Stream) (pa : Nat → Nat) (v : Nat → Word), Fires s h .read → h.bound = some x → x.push = false → h.pOn = true →
    Clean s h → popReady h s = true → 0 < x.next →
    (∀ i < x.next, (∃ hint dom, s.xlate h.c h.ten h.b.bad (x.elemVa (x.pos + i)) .load = .ok (pa i) hint dom) ∧ wordIn h.e.words (pa i / 8) = some (v i)) →
    ∃ t k l, exec .read s = .next t ∧ Kept s t h ∧
      Answered s t h (fun b => { b.got h.i with loads := b.loads ++ l, acts := b.acts ++ [(h.i, .pop h.strNo x.next)] }) k .null 1 ∧
      ∀ i < 64 / x.esz, laneAt k.vector x.esz i = if i < x.next then some ((v i).toNat / 2 ^ (8 * (pa i % 8)) % 2 ^ (8 * x.esz)) else none) ∧
  (∀ (s : State) (h : Here) (x : Stream) (p st : Tok), Fires s h .read → h.bound = some x → x.push = false → s.trails h = true → s.lvqFor h = some (p, st) →
    ∃ t, exec .read s = .next t ∧ Kept s t h ∧ Answered s t h id p st 1) ∧
  (∀ (s : State) (h : Here) (x : Stream) (pa hint dom : Nat → Nat), Fires s h .write → h.bound = some x →
    (h.pOn = false ∨ (h.tok .a).vector.2 = BitVec.allOnes 64 → exec .write s = .next ((s.issue h).result h .null .null 1)) ∧
    (x.push = true → h.pOn = true → (∃ i < 64 / x.esz, (laneAt (h.tok .a).vector x.esz i).isSome) →
      let on := (List.range x.next).filter fun i => (laneAt (h.tok .a).vector x.esz i).isSome
      (∀ i ∈ on, s.xlate h.c h.ten h.b.bad (x.elemVa (x.pos + i)) .store = .ok (pa i) (hint i) (dom i)) →
      exec .write s = .next (s.leaves h (.push h.strNo (on.map fun i => wrOf (pa i) (x.elemVa (x.pos + i)) (hint i) (dom i)
        (BitVec.ofNat 64 ((laneAt (h.tok .a).vector x.esz i).getD 0)) x.esz) x.next))))

/-- sbind, sfree and sstat (R162 to R164): sbind reads 32 bytes at an aligned address and leaves the descriptor for commit, or raises
STREAM_DESC (10) where the descriptor breaks Table 8.8; at a misaligned address it raises ALIGNMENT (2), and TRANSLATION (3) with the
first of its words that does not translate; sfree leaves its unbinding; sstat gives the status at block start. The four bits and the
position of a stream's status word (Table 8.10), an unbound stream's being 0, and the address and number of its elements. Completes:
sbind, sfree, sstat. -/
def Obligations.StreamForms : Prop :=
  ((∀ (s : State) (h : Here) (a b c : Word) (pa : Nat → Nat) (v : Nat → Word), Fires s h .sbind → Live h a b c → Clean s h → a.toNat % 32 = 0 →
    (∀ i < 4, (∃ hint dom, s.xlate h.c h.ten h.b.bad (a + BitVec.ofNat 64 (8 * i)) .load = .ok (pa i) hint dom) ∧
      wordIn h.e.words (pa i / 8) = some (v i) ∧ pa i % 8 = 0) →
    let d : BitVec 256 := v 3 ++ v 2 ++ v 1 ++ v 0
    (({ bound := true, desc := d } : Stream).descOk = true →
      ∃ t l, exec .sbind s = .next t ∧ Kept s t h ∧
        Answered s t h (fun b => { b.got h.i with loads := b.loads ++ l, acts := b.acts ++ [(h.i, .sbind (h.fn % 2) d)] }) .null .null 1) ∧
    (({ bound := true, desc := d } : Stream).descOk = false → ∃ t, exec .sbind s = .next (State.raise t h 10 a) ∧ Kept s t h)) ∧
  (∀ (s : State) (h : Here) (a b c : Word), Fires s h .sbind → Live h a b c → s.trails h = false → a.toNat % 32 = 0 →
    ∀ i < 4, (∀ j < i, ∃ pa hint dom, s.xlate h.c h.ten h.b.bad (a + BitVec.ofNat 64 (8 * j)) .load = .ok pa hint dom) →
      s.xlate h.c h.ten h.b.bad (a + BitVec.ofNat 64 (8 * i)) .load = .fault →
      exec .sbind s = .next ((s.issue h).raise h 3 (a + BitVec.ofNat 64 (8 * i)))) ∧
  Trails .sbind ∧
  (∀ (s : State) (h : Here) (a b c : Word), Fires s h .sbind → Live h a b c → s.trails h = false → a.toNat % 32 ≠ 0 →
    exec .sbind s = .next ((s.issue h).raise h 2 a)) ∧
  (∀ (s : State) (h : Here), Fires s h .sfree → h.pOn = true → exec .sfree s = .next (s.leaves h (.sfree (h.fn % 2)))) ∧
  (∀ (s : State) (h : Here), Fires s h .sstat → h.pOn = true →
    exec .sstat s = .next ((s.issue h).result h (.sc (h.ctx.stream (h.fn % 2)).status) .null 1))) ∧
  ((∀ x : Stream, x.bound = false → x.status = 0) ∧
  (∀ x : Stream, x.bound = true → x.pos < 2 ^ 48 →
    bitAt x.status 0 = decide (x.pos = x.num) ∧ bitAt x.status 1 = x.ovr ∧ bitAt x.status 2 = x.push ∧ bitAt x.status 3 = true ∧
      x.status.toNat / 2 ^ 16 = x.pos) ∧
  (∀ (x : Stream) (n : Nat),
    let f (i w : Nat) : Nat := x.desc.toNat / 2 ^ i % 2 ^ w
    let step : Int := if f 128 32 = 0 then (2 ^ f 96 8 : Nat) else asSigned 32 (f 128 32)
    x.elemVa n = BitVec.ofInt 64 (f 0 64 + (n / f 64 32 : Nat) * asSigned 64 (f 192 64) + (n % f 64 32 : Nat) * step) ∧
    x.num = f 64 32 * max (f 160 32) 1 ∧ x.esz = 2 ^ f 96 8 ∧ (x.push = true ↔ f 104 8 = 1)))

/-- srrd gives each register of Table 21.7 as its block began; srwr of a register any thread may write leaves the write for commit,
of a supervisor-only one too where the thread is privileged, else PRIVILEGE (4); a read-only index raises OPERAND (8). -/
def Obligations.SystemRegisters : Prop :=
  (∀ (s : State) (h : Here), Fires s h .srrd → h.pOn = true →
    let p := (s.core h.c).tag
    exec .srrd s = .next ((s.issue h).result h (.sc (match h.fn with
      | 0 => h.ctx.stat | 1 => h.ctx.fpm | 2 => h.ctx.stklim | 3 => h.ctx.fmt | 4 => h.ctx.scale
      | 5 => BitVec.ofNat 64 h.ctx.tag.toNat | 6 => h.b.accown | 7 => h.ctx.trapcause | 8 => h.ctx.trapaddr | 9 => h.ctx.trapval
      | 10 => h.ctx.s6.status | 11 => h.ctx.s7.status | 12 => h.ctx.lfsr
      | 13 => BitVec.ofNat 64 (p + 256 * s.svten p + if s.privileged h.ten then 8192 else 0)
      | 14 => BitVec.ofNat 64 h.b.began
      | _ => BitVec.ofNat 64 ((s.core h.c).logical + h.lead (s.core h.c).paired * 2 ^ 12 + h.ctx.lidx.toNat * 2 ^ 16 + h.ctx.lslot.toNat * 2 ^ 48))) .null 1)) ∧
  (∀ (s : State) (h : Here) (a b c : Word), Fires s h .srwr → Live h a b c →
    (h.fn - 16 ∈ [0, 1, 3, 4, 12] → exec .srwr s = .next (s.leaves h (.srwr (h.fn - 16) a))) ∧
    (h.fn - 16 ∈ [2, 6, 10, 11, 13] → s.privileged h.ten = true → exec .srwr s = .next (s.leaves h (.srwr (h.fn - 16) a))) ∧
    (h.fn - 16 ∈ [2, 6, 10, 11, 13] → s.privileged h.ten = false → exec .srwr s = .next ((s.issue h).raise h 4 0)) ∧
    (h.fn - 16 ∈ [5, 7, 8, 9, 14, 15] → exec .srwr s = .next ((s.issue h).raise h 8 0)))

/-- The system forms (R357 to R363): brk, tlbinv and, privileged, tlbinva leave their action for commit; dcflush and icinv, and dcinv
privileged, do so with the physical address of their operand; ptload with the 136 words of its image, and OPERAND (8) for a table other
than 6 and 7, ALIGNMENT (2) off 64 bytes, TRANSLATION (3) where their operand does not translate; ctrrd gives a counter of Table 23.9
from where it is counted, on top of the value that the tenant's profiling session carries, one the context may not read as UNAV, and one
the part lacks as the carried value with UNAV (log entry 64). R54, R346: a privileged form in a context whose tenant is not its
partition's supervisor raises PRIVILEGE (4). Completes: brk, tlbinv, tlbinva, dcflush, dcinv, icinv, ptload, ctrrd. -/
def Obligations.SystemForms : Prop :=
  ((∀ (s : State) (h : Here), Fires s h .brk → h.pOn = true → exec .brk s = .next (s.leaves h .brk)) ∧
  (∀ (s : State) (h : Here) (a b c : Word), Fires s h .tlbinv → Live h a b c → exec .tlbinv s = .next (s.leaves h (.tlbinv a))) ∧
  (∀ (s : State) (h : Here), Fires s h .tlbinva → h.pOn = true → s.privileged h.ten = true → exec .tlbinva s = .next (s.leaves h .tlbinva)) ∧
  (∀ q ∈ [(Instr.dcflush, Acc.rdOrWr, Act.dcflush), (.icinv, .rdOrX, Act.icinv), (.dcinv, .rdOrWr, Act.dcinv)],
    ∀ (s : State) (h : Here) (a b c : Word) (pa hint dom : Nat), Fires s h q.1 → Live h a b c → (q.1 = .dcinv → s.privileged h.ten = true) →
    (s.xlate h.c h.ten h.b.bad a q.2.1 = .ok pa hint dom → exec q.1 s = .next (s.leaves h (q.2.2 pa))) ∧
    (s.xlate h.c h.ten h.b.bad a q.2.1 = .fault → exec q.1 s = .next ((s.issue h).raise h 3 a))) ∧
  (∀ (s : State) (h : Here) (a b c : Word), Fires s h .ptload → Live h a b c → s.privileged h.ten = true →
    (a ≠ 6 → a ≠ 7 → exec .ptload s = .next ((s.issue h).raise h 8 0)) ∧
    (a = 6 ∨ a = 7 → b.toNat % 64 ≠ 0 → exec .ptload s = .next ((s.issue h).raise h 2 b))) ∧
  (∀ (s : State) (h : Here) (a b c : Word) (pa : Nat → Nat), Fires s h .ptload → Live h a b c → s.privileged h.ten = true → a = 6 ∨ a = 7 →
    b.toNat % 64 = 0 → (∀ i < 136, ∃ hint dom, s.xlate h.c h.ten h.b.bad (b + BitVec.ofNat 64 (8 * i)) .load = .ok (pa i) hint dom) →
    exec .ptload s = .next (s.leaves h (.ptload a.toNat ((List.range 136).map fun i => pa i / 8)))) ∧
  (∀ (s : State) (h : Here) (a b c : Word), Fires s h .ctrrd → Live h a b c →
    let carried : Nat := (((s.ten? h.ten).bind fun x => tget? x.session a.toNat).getD 0)
    (a.toNat < 2 ^ 16 → ∃ v lat, exec .ctrrd s = .next ((s.issue h).result h (.sc v) .null lat) ∧
      let table : List Nat := [0x100, 0x101, 0x102, 0x103, 0x104, 0x200, 0x201, 0x202, 0x300, 0x301, 0x302, 0x3FF]
      let counted (n : Nat) : Prop := v.toNat = (carried + n) % 2 ^ 63
      (a.toNat ≤ 5 → counted (tget (s.slot h.c h.k).ctr a.toNat 0)) ∧
      (a.toNat ∈ table → s.privileged h.ten = false → v = 0x8000000000000000) ∧
      (5 < a.toNat → a.toNat ∉ table → v.toNat = 2 ^ 63 + carried % 2 ^ 63) ∧
      (s.privileged h.ten = true →
        (0x100 ≤ a.toNat → a.toNat ≤ 0x104 → counted (tget ((s.issue h).core h.c).ctr a.toNat 0)) ∧
        (a.toNat = 0x201 → counted (tget s.mismatch (coreQuad h.c) 0)) ∧
        (a.toNat = 0x200 ∨ a.toNat = 0x202 → counted (tget s.sliceCtr (coreQuad h.c * 4 + a.toNat % 4) 0)) ∧
        (0x300 ≤ a.toNat → a.toNat ≤ 0x302 → ∀ p, tget? s.parts (s.core h.c).tag = some p → counted (tget p.ctr a.toNat 0)) ∧
        (a.toNat = 0x3FF → v = 0x96000001))) ∧
    (2 ^ 16 ≤ a.toNat → exec .ctrrd s = .next ((s.issue h).raise h 8 0)))) ∧
  ((∀ (s : State) (t : Nat), s.privileged t = true ↔ t = s.svten (s.partOf t)) ∧
  ∀ row ∈ [Instr.tlbinva, .dcinv, .ptload], ∀ (s : State) (h : Here) (a b c : Word), Fires s h row → Live h a b c → s.privileged h.ten = false →
    exec row s = .next ((s.issue h).raise h 4 0))

/-! ## Threads, messages, groups, launches -/

/-- spawn, spawnw, send and send.nw send their request and wait (R255, R285 to R287, R289): the child's entry and arguments, or the
message's payload of one to four registers; bar and bar.nw send their arrival once every load of their block below them has returned
(R240, R296). Until a form's conditions hold it is held back. A misaligned entry raises ALIGNMENT (2); a core number outside the
partition, a bad continuation or set number OPERAND (8); a form that waits, in a handler, HANDLER_BLOCK (16); a set the thread is not
in, or a barrier on a second set, MEMBERSHIP (15). What the spec leaves open here is the model's (log entries 19, 21). Completes:
spawn, spawnw, send, send.nw, bar, bar.nw. -/
def Obligations.ThreadRequests : Prop :=
  let nibble (h : Here) (j : Nat) : Word := h.ctx.greg (BitVec.ofNat 4 (h.e.insn.x.sel.toNat / 16 ^ j % 16))
  (∀ row ∈ [Instr.spawn, .spawnw], ∀ (s : State) (h : Here) (a b c : Word), Fires s h row → Live h a b c →
    (row = .spawnw → h.ctx.hnd = true → Raises row s h 16 0) ∧
    (row = .spawn ∨ h.ctx.hnd = false →
      (a.toNat % 64 ≠ 0 → Raises row s h 2 a) ∧
      (a.toNat % 64 = 0 → 4096 ≤ b.toNat ∨ s.physCore (s.partOf h.ten) b.toNat = none → Raises row s h 8 0) ∧
      ∀ core, a.toNat % 64 = 0 → b.toNat < 4096 → s.physCore (s.partOf h.ten) b.toNat = some core →
        Sends row s h (spawnReady h s) [] (.spawn row core a ((List.range 4).map (nibble h)) h.ctx (childLfsr (h.lfsrAt s.cycle)) (.entry h.c h.k h.b.rid h.i)))) ∧
  (∀ row ∈ [Instr.send, .sendNw], ∀ (s : State) (h : Here) (a b c : Word), Fires s h row → Live h a b c →
    let n := payloadCount h.e.insn.x.sel
    let good : Prop := contOk a n = true ∧ (s.physCore (s.partOf h.ten) (contCore a)).isSome = true
    (row = .send → h.ctx.hnd = true → Raises row s h 16 0) ∧
    (row = .sendNw ∨ h.ctx.hnd = false →
      (¬good → Raises row s h 8 0) ∧
      (good → Sends row s h (sendReady h s) [] (.msg ⟨a, msgHeader (s.core h.c).logical h.k n a, (List.range n).map (nibble h), h.ten, h.ctx.launch, h.ctx.grant,
        none, some (h.c, h.k, h.b.rid, h.i), row == .send, []⟩)))) ∧
  (∀ row ∈ [Instr.bar, .barNw], ∀ (s : State) (h : Here) (a b c : Word), Fires s h row → Live h a b c →
    let member : Prop := a.toNat ∈ h.ctx.groups ∧ ∀ t, h.b.curTok h.ctx = some t → t.set = a.toNat
    (row = .bar → h.ctx.hnd = true → Raises row s h 16 0) ∧
    (row = .barNw ∨ h.ctx.hnd = false →
      (4096 ≤ a.toNat → Raises row s h 8 0) ∧
      (a.toNat < 4096 → ¬member → Raises row s h 15 a) ∧
      (a.toNat < 4096 → member → Sends row s h (h.b.loadsBelow s.cycle h.lsid) [] (.arrive h.c h.k h.b.rid h.i h.ctx.id h.ten a.toNat (row == .bar))))) ∧
  (∀ row ∈ [Instr.spawn, .spawnw, .send, .sendNw, .bar, .barNw], ∀ (s : State) (h : Here), Fires s h row → s.trails h = false → h.e.phase ≠ .held → Nulled h →
    ∃ t, exec row s = .next t ∧ Kept s t h ∧ Answered s t h id .null .null 1) ∧
  (∀ row ∈ [Instr.spawn, .spawnw, .send, .sendNw, .bar, .barNw], Trails row)

/-- recv (R266, R267, R290, R291): with a message delivered it gives the message's header; without, recv discards its block, and the
thread takes the message that its boundary delivers, or its oldest buffered one, or waits; recv.nw gives status 0. recv raises
HANDLER_BLOCK (16) in a handler. yield leaves its action for commit. What the spec leaves open here is the model's (log entries 19,
21). Completes: recv, recv.nw, yield. -/
def Obligations.Receive : Prop :=
  let header (h : Here) : Word :=
    BitVec.ofNat 64 (h.ctx.msgh.toNat / 16 * 2 ^ 16 + h.ctx.msgh.toNat / 4 % 4 * 2 ^ 8 + h.ctx.msgh.toNat % 4 * 2 ^ 4)
  (∀ (s : State) (h : Here), Fires s h .recv → h.pOn = true → h.ctx.hnd = false → h.ctx.mdl = true →
    exec .recv s = .next (((s.issue h).modBlk h.c h.k fun b => { b with acts := b.acts ++ [(h.i, .clearMdl)] }).result h (.sc (header h)) .null 1)) ∧
  (∀ (s : State) (h : Here) (y : Ctx) (b : Block), Fires s h .recv → h.pOn = true → h.ctx.hnd = false → h.ctx.mdl = false → h.b.ponr = false →
    let k := h.lead (s.core h.c).paired
    Seated s h.c k y → (s.slot h.c k).blk = some b → y.mdl = false → Quiet s b →
    let goes (P : Ctx → Prop) : Prop := ∃ t z, exec .recv s = .next t ∧ (t.slot h.c k).blk = none ∧ Seated t h.c k z ∧ z.pc = y.pc ∧ P z
    (y.due = none → y.num = 0 → goes fun z => z.mwait = true ∧ z.mdl = false ∧ z.g = y.g) ∧
    (∀ m, y.due = some m → goes fun z => z.mdl = true ∧ z.msgh = packHeader m.hdr ∧ z.mwait = y.mwait) ∧
    (∀ pa dom, y.due = none → b.taken = none → y.num ≠ 0 → s.bufferPa y.tag.toNat = some (pa, dom) → s.verdict y.ten (8 * (pa / 8)) dom = .ok →
      (0 < bufCount (s.word (pa / 8)) → goes fun z => z.mdl = true ∧ z.mwait = y.mwait) ∧
      (bufCount (s.word (pa / 8)) = 0 → goes fun z => z.mwait = true ∧ z.mdl = false ∧ z.g = y.g))) ∧
  (∀ (s : State) (h : Here), Fires s h .recv → h.pOn = true → h.ctx.hnd = true → exec .recv s = .next ((s.issue h).raise h 16 0)) ∧
  (∀ (s : State) (h : Here), Fires s h .recvNw → h.pOn = true → h.ctx.mdl = true →
    exec .recvNw s = .next (((s.issue h).modBlk h.c h.k fun b => { b with acts := b.acts ++ [(h.i, .clearMdl)] }).result h (.sc (header h)) (.sc 1) 1)) ∧
  (∀ (s : State) (h : Here), Fires s h .recvNw → h.pOn = true → h.ctx.mdl = false →
    exec .recvNw s = .next (((s.issue h).modBlk h.c h.k fun b => { b with acts := b.acts ++ [(h.i, .drain)] }).result h (.sc 0) (.sc 0) 1)) ∧
  (∀ (s : State) (h : Here), Fires s h .yield → h.pOn = true → exec .yield s = .next (s.leaves h .yield)) ∧
  (∀ row ∈ [Instr.recv, .recvNw, .yield], ∀ (s : State) (h : Here), Fires s h row → h.pOn = false → exec row s = .next ((s.issue h).result h .null .null 1))

/-- mkcont and gnew (R258, R265, R292, R294): a context with a number gets its continuation word; one without takes the lowest free
number of its tenant, or raises QUOTA (13) where none is free; gnew takes the lowest free set, or gives all ones when none is free.
gjoin, gleave, launch and launchi leave their action for commit (R295, R298); a set number above 4095, or an operand with a bit it may
not have, raises OPERAND (8), a set the thread is not in, or a fifth set, MEMBERSHIP (15), a misaligned record ALIGNMENT (2). What the
spec leaves open here is the model's (log entries 52, 53). Completes: mkcont, gnew, gjoin, gleave, launch, launchi. -/
def Obligations.GroupsAndLaunches : Prop :=
  (let word (s : State) (h : Here) (tag : Nat) (a : Word) : Word :=
    BitVec.ofNat 64 (tag * 2 ^ 32 + (s.core h.c).logical * 2 ^ 20 + h.lead (s.core h.c).paired * 2 ^ 16 + a.toNat)
  (∀ (s : State) (h : Here) (a b c : Word), Fires s h .mkcont → Live h a b c →
    let k := h.lead (s.core h.c).paired
    (64 ≤ a.toNat → exec .mkcont s = .next ((s.issue h).raise h 8 0)) ∧
    (a.toNat < 64 → h.ctx.num ≠ 0 → exec .mkcont s = .next ((s.issue h).result h (.sc (word s h h.ctx.tag.toNat a)) .null 1)) ∧
    (∀ n, a.toNat < 64 → h.ctx.num = 0 → (if k = h.k then h.b.taken else (s.slot h.c k).blk.bind Block.taken) = some n →
      ∃ lat, exec .mkcont s = .next (((s.issue h).modBlk h.c h.k fun b => { b with taken := some n }).result h (.sc (word s h (h.ten * 2048 + n) a)) .null lat)) ∧
    (a.toNat < 64 → h.ctx.num = 0 → k = h.k → h.b.taken = none → ∀ x, s.ten? h.ten = some x →
      (∀ n, lowestFree x.numbers 1 2047 = some n → ∃ t lat, exec .mkcont s = .next t ∧
        Answered s t h (fun b => { b with taken := some n }) (.sc (word s h (h.ten * 2048 + n) a)) .null lat ∧
        ∃ y, t.ten? h.ten = some y ∧ y.numbers = linsert x.numbers n) ∧
      (lowestFree x.numbers 1 2047 = none → exec .mkcont s = .next ((s.issue h).raise h 13 0)))) ∧
  (∀ (s : State) (h : Here) (x : Tenant), Fires s h .gnew → s.trails h = false → h.pOn = true → s.ten? h.ten = some x →
    (∀ n, lowestFree (x.sets.map (·.1)) 0 4095 = some n → ∃ t lat, exec .gnew s = .next t ∧
      Answered s t h (fun b => { b with sets := n :: b.sets }) (.sc (BitVec.ofNat 64 n)) .null lat ∧
      ∃ y z, t.ten? h.ten = some y ∧ tget? y.sets n = some z ∧ z.memb = 0 ∧ z.arr = 0 ∧ z.ph = false) ∧
    (lowestFree (x.sets.map (·.1)) 0 4095 = none → ∃ t lat, exec .gnew s = .next t ∧ Kept s t h ∧ Answered s t h id (.sc (BitVec.allOnes 64)) .null lat)) ∧
  Trails .gnew ∧
  (∀ (l : List Nat) (lo hi n : Nat), lo ≤ hi → lowestFree l lo hi = some n → lo ≤ n ∧ n ≤ hi ∧ n ∉ l ∧ ∀ m, lo ≤ m → m < n → m ∈ l)) ∧
  ((∀ (s : State) (h : Here) (a b c : Word), Fires s h .gjoin → Live h a b c → a.toNat < 4096 →
    let new := joinsOf h.ctx.groups (h.joins a.toNat)
    (h.ctx.groups.length + new.length ≤ 4 → exec .gjoin s = .next (s.leaves h (.join a.toNat))) ∧
    (4 < h.ctx.groups.length + new.length → exec .gjoin s = .next ((s.issue h).raise h 15 (BitVec.ofNat 64 (new.getLastD 0))))) ∧
  (∀ (s : State) (h : Here) (a b c : Word), Fires s h .gleave → Live h a b c → a.toNat < 4096 →
    (a.toNat ∈ h.ctx.groups → exec .gleave s = .next (s.leaves h (.leave a.toNat))) ∧
    (a.toNat ∉ h.ctx.groups → exec .gleave s = .next ((s.issue h).raise h 15 a))) ∧
  (∀ row ∈ [Instr.gjoin, .gleave], ∀ (s : State) (h : Here) (a b c : Word), Fires s h row → Live h a b c → 4096 ≤ a.toNat →
    exec row s = .next ((s.issue h).raise h 8 0)) ∧
  (∀ q ∈ [(Instr.launch, 8), (.launchi, 2 ^ 57)], ∀ (s : State) (h : Here) (a b c : Word), Fires s h q.1 → Live h a b c →
    ((h.addr a).toNat % 64 ≠ 0 → exec q.1 s = .next ((s.issue h).raise h 2 (h.addr a))) ∧
    ((h.addr a).toNat % 64 = 0 → q.2 ≤ b.toNat → exec q.1 s = .next ((s.issue h).raise h 8 0)) ∧
    ((h.addr a).toNat % 64 = 0 → b.toNat < q.2 → s.xlate h.c h.ten h.b.bad (h.addr a) .load = .fault → exec q.1 s = .next ((s.issue h).raise h 3 (h.addr a)))) ∧
  (∀ (s : State) (h : Here) (a b c : Word) (pa hint dom : Nat), Fires s h .launch → Live h a b c → (h.addr a).toNat % 64 = 0 → b.toNat < 8 →
    s.xlate h.c h.ten h.b.bad (h.addr a) .load = .ok pa hint dom →
    exec .launch s = .next (s.leaves h (.launch pa (h.addr a) none (b.toNat + 8) dom 0))) ∧
  (∀ (s : State) (h : Here) (a b c cnt : Word) (pa hint dom pc hint' dom' : Nat), Fires s h .launchi → Live h a b c → (h.addr a).toNat % 64 = 0 →
    b.toNat < 2 ^ 57 → cnt = BitVec.ofNat 64 (b.toNat / 8 * 8) → s.xlate h.c h.ten h.b.bad (h.addr a) .load = .ok pa hint dom →
    s.xlate h.c h.ten h.b.bad cnt .load = .ok pc hint' dom' →
    exec .launchi s = .next (s.leaves h (.launch pa (h.addr a) (some pc) (b.toNat % 8 + 8) dom dom'))))

/-! ## Maps, matrix and engine forms -/

/-- The map forms (R223 to R228) send their request to the bucket they compute from the layout their core holds, or to the map's
descriptor; a handle that is free or outside the table raises MAP_HANDLE (12) with it. mcreate reads its record and sends it, or raises
OPERAND (8) for a record out of its limits. ego sends its command to the engine and waits; ecfg SET reads its descriptor, and it,
RESUME and ecancel leave their change for commit (R306, R335, R336); a bad operand raises OPERAND (8), a misaligned one ALIGNMENT (2).
A form whose conditions do not hold yet is held back. What the spec leaves open here is the model's (log entry 7). Completes: mprobe,
minsert, mupsert, mremove, mdestroy, mstat, mcreate, ego, ecfg, ecancel. -/
def Obligations.MapAndEngineForms : Prop :=
  (let ready (row : Instr) (h : Here) (s : State) : Bool := row == .mprobe || row == .mstat || commitReady h s
  (∀ row ∈ [Instr.mprobe, .minsert, .mupsert, .mremove, .mdestroy, .mstat], ∀ (s : State) (h : Here) (a b c : Word), Fires s h row → Live h a b c →
    (4096 ≤ a.toNat ∨ s.mapAt h.ten a.toNat = none → Raises row s h 12 a) ∧
    (a.toNat < 4096 → (s.mapAt h.ten a.toNat).isSome = true → Sends row s h (ready row h s) [] (.map (if row = .mdestroy ∨ row = .mstat then
        ⟨row, h.ten, a.toNat, 0, 0, 0, .entry h.c h.k h.b.rid h.i, false⟩
      else ⟨row, h.ten, a.toNat, b, c, (s.core h.c).bucketFor h.ten a.toNat b, .entry h.c h.k h.b.rid h.i, false⟩)))) ∧
  (∀ (s : State) (h : Here) (a b c : Word), Fires s h .mcreate → Live h a b c → a.toNat % 16 ≠ 0 → Raises .mcreate s h 2 a) ∧
  (∀ (s : State) (h : Here) (a b c : Word) (pa pb : Nat) (seed w : Word), Fires s h .mcreate → Clean s h → Live h a b c → loadReady h s = true →
    a.toNat % 16 = 0 → (∃ hint dom, s.xlate h.c h.ten h.b.bad a .load = .ok pa hint dom) → (∃ hint dom, s.xlate h.c h.ten h.b.bad (a + 8) .load = .ok pb hint dom) →
    wordIn h.e.words (pa / 8) = some seed → wordIn h.e.words (pb / 8) = some w → pa % 8 = 0 → pb % 8 = 0 →
    let good : Prop := 1 ≤ w.toNat % 256 ∧ w.toNat % 256 ≤ 7 ∧ w.toNat / 256 ≤ 24
    (good → commitReady h s = true → ∃ t, exec .mcreate s = .next t ∧ Asked s t h (.map ⟨.mcreate, h.ten, 0, seed, w, 0, .entry h.c h.k h.b.rid h.i, false⟩)) ∧
    (good → h.e.phase ≠ .held → commitReady h s = false → ∃ t b e, exec .mcreate s = .next t ∧ Kept s t h ∧ (t.slot h.c h.k).blk = some b ∧
      b.body[h.i]? = some e ∧ e.phase = .held ∧ e.want = [] ∧ b.ponr = h.b.ponr) ∧
    (¬good → h.e.phase ≠ .held → ∃ t, exec .mcreate s = .next (State.raise t h 8 0) ∧ Kept s t h))) ∧
  ((∀ (s : State) (h : Here) (a b c : Word), Fires s h .ego → Live h a b c →
    let good : Prop := a.toNat < 256 ∧ a.toNat % 16 < 3
    (b.toNat % 64 ≠ 0 → Raises .ego s h 2 b) ∧ (b.toNat % 64 = 0 → ¬good → Raises .ego s h 8 0) ∧
    ∀ pa : Nat → Nat, b.toNat % 64 = 0 → good → (∀ i < 8, ∃ hint dom, s.xlate h.c h.ten h.b.bad (b + BitVec.ofNat 64 (8 * i)) .load = .ok (pa i) hint dom) →
      Sends .ego s h (commitReady h s) [] (.ego (a.toNat % 4) (a.toNat / 16) ((List.range 8).map pa) b h.ten h.ctx.fmt h.ctx.scale h.ctx.rm h.ctx.tag
        (.entry h.c h.k h.b.rid h.i))) ∧
  (∀ (s : State) (h : Here) (a b c : Word), Fires s h .ecancel → Live h a b c →
    let good : Prop := a.toNat < 256 ∧ a.toNat % 16 < 3
    (b.toNat % 8 ≠ 0 → exec .ecancel s = .next ((s.issue h).raise h 2 b)) ∧
    (b.toNat % 8 = 0 → ¬good → exec .ecancel s = .next ((s.issue h).raise h 8 0)) ∧
    ∀ pa hint dom, b.toNat % 8 = 0 → good → s.xlate h.c h.ten h.b.bad b .both = .ok pa hint dom →
      exec .ecancel s = .next (s.leaves h (.ecancel (a.toNat % 4) (a.toNat / 16) (pa, dom)))) ∧
  (∀ (s : State) (h : Here) (a b c : Word), Fires s h .ecfg → Live h a b c →
    let resume : Prop := a.toNat / 256 % 4 = 1
    let aligned : Prop := (resume → b.toNat % 8 = 0) ∧ (¬resume → b.toNat % 64 = 0)
    let good : Prop := a.toNat < 512 ∧ a.toNat % 16 < 3
    let leaves (t : State) (img : List Word) (cwa : Nat × Nat) (f : Block → Block) : Prop := Kept s t h ∧
      Answered s t h (fun b => { f b with acts := b.acts ++ [(h.i, .ecfg (a.toNat % 4) (a.toNat / 16 % 16) (a.toNat / 256 % 4 == 1) img cwa)] }) .null .null 1
    (¬aligned → Raises .ecfg s h 2 b) ∧ (aligned → ¬good → Raises .ecfg s h 8 0) ∧
    (∀ pa hint dom, aligned → good → resume → s.trails h = false → h.e.phase ≠ .held → s.xlate h.c h.ten h.b.bad b .both = .ok pa hint dom →
      ∃ t, exec .ecfg s = .next t ∧ leaves t [] (pa, dom) id) ∧
    (∀ (pr : Nat → Nat) (v : Nat → Word), aligned → good → ¬resume → Clean s h → loadReady h s = true →
      (∀ i < 8, (∃ hint dom, s.xlate h.c h.ten h.b.bad (b + BitVec.ofNat 64 (8 * i)) .load = .ok (pr i) hint dom) ∧ wordIn h.e.words (pr i / 8) = some (v i) ∧ pr i % 8 = 0) →
      let desc : Prop := (v 0).toNat % 64 = 0 ∧ 4 ≤ (v 1).toNat % 256 ∧ (v 1).toNat % 256 ≤ 16 ∧ 1 ≤ (v 1).toNat / 256 % 256 ∧ (v 1).toNat / 256 % 256 ≤ 15 ∧
        (v 1).toNat / 65536 ∈ [0, 8] ∧ v 2 = 0 ∧ v 3 = 0 ∧ (v 4).toNat % 64 = 0 ∧ v 7 ≠ 0
      ((v 7).toNat % 8 ≠ 0 → ∃ t, exec .ecfg s = .next (State.raise t h 2 (v 7)) ∧ Kept s t h) ∧
      ((v 7).toNat % 8 = 0 → ¬desc → ∃ t, exec .ecfg s = .next (State.raise t h 8 0) ∧ Kept s t h) ∧
      ∀ pa hint dom, (v 7).toNat % 8 = 0 → desc → s.xlate h.c h.ten h.b.bad (v 7) .both = .ok pa hint dom →
        ∃ t l, exec .ecfg s = .next t ∧ leaves t ((List.range 8).map v) (pa, dom) fun b => { b.got h.i with loads := b.loads ++ l }))) ∧
  (∀ row ∈ [Instr.mprobe, .minsert, .mupsert, .mremove, .mdestroy, .mstat, .mcreate, .ego, .ecfg], Trails row)

/-- mma in its six formats, mzero and mgang pass the owner check and leave their command for commit (R302 to R308, R313), mma and
mgang with a bad operand raising OPERAND (8); where the tile is valid and another tenant's, the first-use trap holds the slot and
discards its block, which replays from its decoded form, and a block past its point of no return takes it in place of its commit, but mst
and mst.bf, which read the tile, at once (R57, R308, R340, R341). A trailing slot goes by its leading slot's block. With their words arrived, mgath leaves its latch, a row for each index and 0 for one without, and mldb its
rows, those of EFP8 blocks decoded, for commit (R300, R301); a descriptor, an index or a base out of its limits is a fault. mst and
mst.bf wait for the commands their core has sent to the tile, and then settle its elements at EA on and give its status word (R305,
R330, R331). What the spec leaves open here is the model's (log entry 20). Completes: mgath, mldb, mma in its six formats, mzero, mgang,
mst, mst.bf. -/
def Obligations.TileForms : Prop :=
  (let lead (s : State) (h : Here) : Block := (s.slot h.c (h.lead (s.core h.c).paired)).blk.getD h.b
  let bad (s : State) (h : Here) : Prop := bitAt (lead s h).accown (16 * (h.fn % 4) + 15) = true ∧ (lead s h).accown.toNat / 2 ^ (16 * (h.fn % 4) + 10) % 32 ≠ h.ten
  let owns (s : State) (h : Here) : State := (s.issue h).modBlk h.c h.k fun b => { b with acts := b.acts ++ [(h.i, .own (h.fn % 4))] }
  let again (s t : State) (c k : Nat) (z : Block) : Prop := ∃ b, (t.slot c k).blk = some b ∧ b.addr = z.addr ∧ b.start = s.cycle + 2048 ∧
    b.body = (z.body.map fun e => { insn := e.insn }) ∧ b.stores = [] ∧ b.regs = [] ∧ b.acts = [] ∧ b.exits = [] ∧ b.flags = 0 ∧ b.ponr = false
  let left (s : State) (h : Here) (a : Act) : State := ((owns s h).modBlk h.c h.k fun b => { b with acts := b.acts ++ [(h.i, a)] }).result h .null .null 1
  (∀ q ∈ [(Instr.mmaEfp8, 0), (.mmaE4, 1), (.mmaE5, 2), (.mmaI8, 3), (.mmaBf, 4), (.mmaH, 5)], ∀ (s : State) (h : Here) (a b c : Word),
    Fires s h q.1 → Live h a b c → ¬bad s h ∨ (lead s h).ponr = true →
    (a.toNat < 2 ^ 16 → exec q.1 s = .next (left s h (.mma (h.fn % 4) q.2 a.toNat))) ∧
    (2 ^ 16 ≤ a.toNat → exec q.1 s = .next ((owns s h).raise h 8 0))) ∧
  (∀ (s : State) (h : Here), Fires s h .mzero → h.pOn = true → ¬bad s h ∨ (lead s h).ponr = true → exec .mzero s = .next (left s h (.mzero (h.fn % 4)))) ∧
  (∀ (s : State) (h : Here) (a b c : Word), Fires s h .mgang → Live h a b c → ¬bad s h ∨ (lead s h).ponr = true →
    let good : Prop := a.toNat < 2 ^ 11 ∧ a.toNat.testBit (h.c % 8) = true ∧ a.toNat.testBit (a.toNat / 256 % 8) = true ∧
      ∀ n < 8, a.toNat.testBit n = true → (s.core (h.c / 8 * 8 + n)).tag = (s.core h.c).tag
    (good → exec .mgang s = .next (left s h (.mgang (h.fn % 4) (a.toNat % 256) (a.toNat / 256)))) ∧
    (¬good → exec .mgang s = .next ((owns s h).raise h 8 0))) ∧
  (∀ row ∈ [Instr.mmaEfp8, .mmaE4, .mmaE5, .mmaI8, .mmaBf, .mmaH, .mzero, .mgang], ∀ (s : State) (h : Here) (a b c : Word) (y : Ctx) (z : Block),
    Fires s h row → Live h a b c → bad s h →
    let k := h.lead (s.core h.c).paired
    Seated s h.c k y → (s.slot h.c k).blk = some z → z.ponr = false → Quiet s z →
    ∃ t x, exec row s = .next t ∧ again s t h.c k z ∧ Seated t h.c k x ∧ x.hold = .firstUse (h.fn % 4) s.cycle ∧ x.pc = y.pc) ∧
  (∀ q ∈ [(Instr.mst, 128, 4, 4096), (.mstBf, 64, 2, 2048)], ∀ (s : State) (h : Here) (a b c : Word), Fires s h q.1 → s.trails h = false → Live h a b c →
    q.1 = .mst ∨ (h.drawsBelow s.cycle h.i).isSome = true →
    let va : Word := h.addr a
    let past : Nat := va.toNat % 65536 + q.2.2.2 - 65536
    let high : Word := va + BitVec.ofNat 64 (q.2.2.2 - past)
    (bad s h → Quiet s h.b → ∃ t x, exec q.1 s = .next t ∧ Seated t h.c h.k x ∧ x.hold = .firstUse (h.fn % 4) s.cycle ∧ x.pc = h.ctx.pc ∧
      (h.b.ponr = false → again s t h.c h.k h.b) ∧ (h.b.ponr = true → (t.slot h.c h.k).blk = ((s.issue h).slot h.c h.k).blk)) ∧
    (¬bad s h → va.toNat % q.2.1 ≠ 0 → exec q.1 s = .next ((owns s h).raise h 2 va)) ∧
    (¬bad s h → va.toNat % q.2.1 = 0 → s.xlate h.c h.ten h.b.bad va .store = .fault → exec q.1 s = .next ((owns s h).raise h 3 va)) ∧
    (∀ p g d, ¬bad s h → va.toNat % q.2.1 = 0 → s.xlate h.c h.ten h.b.bad va .store = .ok p g d → 0 < past → s.xlate h.c h.ten h.b.bad high .store = .fault →
      exec q.1 s = .next ((owns s h).raise h 3 high)) ∧
    (∀ p1 g1 d1 p2 g2 d2, ¬bad s h → va.toNat % q.2.1 = 0 → s.xlate h.c h.ten h.b.bad va .store = .ok p1 g1 d1 →
      (0 < past → s.xlate h.c h.ten h.b.bad high .store = .ok p2 g2 d2) →
      let pa (o : Nat) : Nat := if va.toNat % 65536 + o < 65536 then p1 + o else p2 + (va.toNat % 65536 + o) % 65536
      ∃ t, exec q.1 s = .next t ∧ Kept s t h ∧
        (∃ b e, (t.slot h.c h.k).blk = some b ∧ b.body[h.i]? = some e ∧ e.phase = .sent ∧ b.stores = h.b.stores ∧
          e.want = ((s.core h.c).mxq.filter fun m => m.tt == h.fn % 4).map MxCmd.id) ∧
        ((∀ m ∈ (s.core h.c).mxq, m.tt ≠ h.fn % 4) → ∃ u fl ws, exec .mstRead t = .next u ∧
          (u.slot h.c h.k).blk = ((t.slot h.c h.k).blk.map fun b => { b with flags := b.flags ||| fl, stores := b.stores ++ [(h.lsid, false, ws)] }.results h.i
            (s.cycle + 32) (.sc (s.tile h.c (h.fn % 4)).stat) .null) ∧
          ws.length = 1024 ∧ ∀ i < 1024, ∃ g d v, ws[i]? = some (wrOf (pa (q.2.2.1 * i)) (va + BitVec.ofNat 64 (q.2.2.1 * i)) g d v q.2.2.1) ∧
            (q.1 = .mst → v = if bitAt (s.tile h.c (h.fn % 4)).stat 63 then 0x7FC00000 else ((s.tile h.c (h.fn % 4)).elt i).zeroExtend 64)))) ∧
  (∀ row ∈ [Instr.mst, .mstBf], Trails row)) ∧
  (let known (s : State) (h : Here) (va : Word) (pa : Nat) (v : Word) : Prop :=
    (∃ hint dom, s.xlate h.c h.ten h.b.bad va .load = .ok pa hint dom) ∧ wordIn h.e.words (pa / 8) = some v
  let leaves (row : Instr) (s : State) (h : Here) (lat : Nat) (P : Act → Prop) : Prop :=
    ∃ t l x, exec row s = .next t ∧ Kept s t h ∧ Answered s t h (fun b => { b.got h.i with loads := b.loads ++ l, acts := b.acts ++ [(h.i, x)] }) .null .null lat ∧ P x
  let faults (row : Instr) (s : State) (h : Here) (code : Nat) (v : Word) : Prop := ∃ t, exec row s = .next (State.raise t h code v) ∧ Kept s t h
  (∀ (va : Word) (n j : Nat), n < 2 ^ 32 → j < n → ∃ p ∈ run va n, p.1.toNat % 8 + p.2 ≤ 8 ∧ (p.1 - va).toNat ≤ j ∧ j < (p.1 - va).toNat + p.2) ∧
  (∀ row ∈ [Instr.mgath, .mldb], ∀ (s : State) (h : Here) (a b c : Word), Fires s h row → h.pOn = true → (row = .mgath → h.vb.2 ≠ BitVec.allOnes 64) → h.a = some a →
    a.toNat % 16 ≠ 0 → Raises row s h 2 a) ∧
  (∀ (s : State) (h : Here) (a : Word) (pa pb : Nat) (w0 w1 : Word), Fires s h .mgath → Clean s h → h.pOn = true → h.vb.2 ≠ BitVec.allOnes 64 →
    h.a = some a → loadReady h s = true → a.toNat % 16 = 0 → known s h a pa w0 → known s h (a + 8) pb w1 → pa % 8 = 0 → pb % 8 = 0 →
    let d : GDesc := ⟨w0, w1.toNat % 2 ^ 32, w1.toNat / 2 ^ 32 % 2 ^ 16, w1.toNat / 2 ^ 48 % 256, w1.toNat / 2 ^ 56⟩
    let good : Prop := 1 ≤ d.nrows ∧ 1 ≤ d.kq ∧ d.kq ≤ 32 ∧ (d.esz = 0 ∨ d.esz = 1 ∧ d.kq ≤ 16)
    let idx (r : Nat) : Nat := (laneAt h.vb 2 r).getD 0xFFFF
    let start (r : Nat) : Word := w0 + BitVec.ofNat 64 (idx r * d.rowb)
    let n : Nat := 4 * d.kq * 2 ^ d.esz
    (¬good → faults .mgath s h 8 0) ∧
    (∀ r < 32, good → idx r ≠ 0xFFFF → d.nrows ≤ idx r → (∀ q < r, idx q = 0xFFFF ∨ idx q < d.nrows) → faults .mgath s h 8 (BitVec.ofNat 64 r)) ∧
    (∀ (pr : Nat → Word → Nat) (v : Nat → Word → Word), good → (∀ r < 32, idx r = 0xFFFF ∨ idx r < d.nrows) →
      (∀ r < 32, idx r ≠ 0xFFFF → ∀ p ∈ run (start r) n, known s h p.1 (pr r p.1) (v r p.1)) →
      leaves .mgath s h 4 fun x => ∃ rows, x = .latch rows d.kq d.esz ((List.range 32).map idx) ∧ rows.length = 32 ∧
        ∀ r < 32, (rows.getD r 0).toNat < 256 ^ n ∧ (idx r = 0xFFFF → rows.getD r 0 = 0) ∧
          (idx r ≠ 0xFFFF → ∀ p ∈ run (start r) n, ∀ j < p.2, (rows.getD r 0).toNat / 256 ^ ((p.1 - start r).toNat + j) % 256 =
            if pr r p.1 % 8 + j < 8 then (v r p.1).toNat / 256 ^ (pr r p.1 % 8 + j) % 256 else 0))) ∧
  (∀ (s : State) (h : Here) (a : Word) (pa pb : Nat) (base w1 : Word), Fires s h .mldb → Clean s h → h.pOn = true →
    h.a = some a → loadReady h s = true → a.toNat % 16 = 0 → known s h a pa base → known s h (a + 8) pb w1 → pa % 8 = 0 → pb % 8 = 0 →
    let kq : Nat := w1.toNat % 256
    let bf : Nat := w1.toNat / 256 % 256
    let good : Prop := 1 ≤ kq ∧ kq ≤ 32 ∧ bf ≤ 2 ∧ (bf = 2 → kq ≤ 16) ∧ w1.toNat < 2 ^ 16
    let n : Nat := if bf = 1 then 4 else 8
    (¬good → faults .mldb s h 8 0) ∧ (good → base.toNat % (8 * n) ≠ 0 → faults .mldb s h 2 base) ∧
    (∀ (pr : Nat → Nat) (v : Nat → Word), good → base.toNat % (8 * n) = 0 →
      (∀ i < 4 * kq * n, known s h (base + BitVec.ofNat 64 (8 * i)) (pr i) (v i) ∧ pr i % 8 = 0) →
      let row (k : Nat) : Nat := (List.range n).foldl (fun x j => x + (v (n * k + j)).toNat * 2 ^ (64 * j)) 0
      leaves .mldb s h (4 * kq) fun x => ∃ rows ill, x = .bop rows kq bf ill ∧ rows.length = 4 * kq ∧
        (ill = true ↔ bf = 0 ∧ ∃ k < 4 * kq, efpDecode (row k) = none) ∧
        ∀ k < 4 * kq, (bf ≠ 0 → (rows.getD k 0).toNat = row k) ∧
          ∀ es, bf = 0 → efpDecode (row k) = some es → ∀ j < 32, (rows.getD k 0).toNat / 2 ^ (16 * j) % 65536 = es.getD j 0 % 65536)) ∧
  (∀ row ∈ [Instr.mgath, .mldb], Trails row))

/-! ## Words, blocks and steps -/

/-- Decoding the words of a well-formed instruction gives the instruction back, with every operand; and what decodes is well formed and
encodes to the words it was read from (R42 to R48, R52). -/
def Obligations.EncodeDecode : Prop :=
  (∀ i : Insn, i.wf = true → ∃ h ts, encode i = some (h, ts, i.x.lit) ∧ headTn h = ts.length ∧ decodeOne h ts i.x.lit = .ok i) ∧
  (∀ (h : BitVec 16) (ts : List (BitVec 16)) (lit : BitVec 64) (i : Insn), headTn h = ts.length → decodeOne h ts lit = .ok i →
    i.wf = true ∧ encode i = some (h, ts, i.x.lit))

/-- A step runs the decoded instruction. At a core's turn, where nothing goes on without an issue cycle and it has not searched in this
clk, the ready, unfired instruction of lowest index of the first slot in the order of R36 that has one is executed, and the search ends
with its issue; what a reply or its condition lets go on, and a form that takes no issue cycle, is executed first and the core keeps its
turn (R37, R48, R90, R99). The instruction placed at the fetch point is what the next step executes. A device step of the agenda is executed; an instruction or a
slot's handover is executed only by its core's turn; a clk passes only once its edge is taken and its cores have done what falls in it
(R27, R36, R372, R376), and the time base counts it once the Lid has started it. What the spec leaves open here is the model's (log entries
1, 3, 10). -/
def Obligations.StepRunsDecoded : Prop :=
  (∀ (s : State) (c k n : Nat) (rest : List Move) (b : Block) (e : Entry) (t : State), s.agenda = .issue c :: rest → s.edgeDue = false → s.windowEnded c = false →
    s.carry c = none → (s.core c).searched ≠ some s.cycle → (∀ m < 16, (s.slot c m).drain = false ∧ (s.slot c m).handed = none) → k < 16 →
    (∀ m < 16, (m + 16 - ((s.core c).s + 1) % 16) % 16 < (k + 16 - ((s.core c).s + 1) % 16) % 16 → s.issueFrom c m = none) →
    (s.slot c k).blk = some b → b.body[n]? = some e → e.carries = false →
    (∀ (m : Nat) (x : Entry), m < n → b.body[m]? = some x → x.carries = false → s.take x.insn.row { c := c, k := k, i := m } = none) →
    exec e.insn.row { s with focus := { c := c, k := k, i := n } } = .next t → (t.core c).issuedAt = some t.cycle →
    step s = .next { t.searchEnds c with agenda := rest }) ∧
  (∀ (s : State) (c k n : Nat) (rest : List Move) (b : Block) (e : Entry) (t : State), s.agenda = .issue c :: rest → s.edgeDue = false → s.windowEnded c = false → k < 16 →
    (∀ m < k, s.carryFrom c m = none) → (s.slot c k).blk = some b → b.body[n]? = some e → e.carries = true →
    (∀ (m : Nat) (x : Entry), m < n → b.body[m]? = some x → x.carries = true → s.take x.insn.row { c := c, k := k, i := m } = none) →
    exec e.insn.row { s with focus := { c := c, k := k, i := n } } = .next t → step s = .next { t with agenda := .issue c :: rest }) ∧
  (∀ (s t : State) (i : Insn), i.row.form.isSome = true → i.unissued = false → exec i.row { s.withInsn i with focus := {} } = .next t →
    (t.core 0).issuedAt = some t.cycle → step (s.withInsn i) = .next { t.searchEnds 0 with agenda := [] }) ∧
  (∀ (s t : State) (i : Insn), i.row.form.isSome = true → i.unissued = true → i.row ≠ .opx → exec i.row { s.withInsn i with focus := {} } = .next t →
    step (s.withInsn i) = .next { t with agenda := [.issue 0] }) ∧
  (∀ (s t : State) (i : Insn), i.row = .opx → exec .opx { s.withInsn i with focus := { i := 1 } } = .next t → step (s.withInsn i) = .next { t with agenda := [.issue 0] }) ∧
  (∀ (s : State) (row : Instr) (f : Focus) (rest : List Move), s.agenda = .step row f :: rest →
    (row.form = none → row ≠ .slotHandover → s.edgeDue = false ∨ row = .slotEdge ∨ row = .frameBoundary → step s = exec row { s with focus := f, agenda := rest }) ∧
    (row.form.isSome = true ∨ row = .slotHandover → step s = .fault .notEnabled)) ∧
  (∀ (s : State) (rest : List Move), s.agenda = .tick :: rest →
    (s.edgeDue = false → s.clkDone = true → s.lid.stage.isSome = true → ∃ t, step s = .next t ∧ t.cycle = s.cycle + 1) ∧
    (s.edgeDue = true ∨ s.clkDone = false → step s = .fault .notEnabled))

/-- After reset (R36, R185, R248, R329, R395): every byte of memory reads as 0 and every word outside the mailboxes is full, no core has a
thread or an owned tile, s of every core is 15, every tile is +0 with a clear status word, no partition, tenant or range exists,
and no stage has been reached. The values of what the spec does not give are the model's (log entry 2). -/
def Obligations.ResetState : Prop :=
  State.reset.sound = true ∧ (∀ a, memGet State.reset.mem a = 0) ∧ (∀ w, State.reset.full w = !startsEmpty w) ∧
  (∀ c k, (State.reset.slot c k).ctx = none ∧ (State.reset.slot c k).blk = none) ∧
  (∀ c, (State.reset.core c).s = 15 ∧ (State.reset.core c).accown = 0 ∧ (State.reset.core c).sq = []) ∧
  (∀ c tt i, (State.reset.tile c tt).elt i = 0 ∧ (State.reset.tile c tt).stat = 0) ∧
  (∀ n, tget? State.reset.parts n = none ∧ tget? State.reset.tenants n = none ∧ tget? State.reset.ranges n = none) ∧
  State.reset.lid.stage = none ∧ State.reset.cycle = 0

/-- Every step keeps memory in its canonical form: addresses strictly rising, no entry equal to what an unlisted address reads as. -/
def Obligations.StepKeepsMemory : Prop := ∀ s t : State, s.sound = true → step s = .next t → t.sound = true

/-- Memory words (R4, R207, R209, R215): little-endian; a masked write changes the masked bytes of its word and no other; FillWord stores
its value and makes the word full unless a parked load empties it again; EmptyWord serves the oldest parked store, whose value it
then holds, full; with nothing parked it only empties. -/
def Obligations.MemoryWords : Prop :=
  (∀ (s : State) (w : Nat), (s.word w).toNat = ((List.range 8).map fun i => (memGet s.mem (8 * w + i)).toNat * 256 ^ i).sum) ∧
  (∀ (s : State) (w u : Nat) (v : Word) (m : Byte) (i : Nat), s.sound = true → i < 8 →
    byteOf ((s.putWord w v m).word u) i = if u = w ∧ m.getLsbD i = true then byteOf v i else byteOf (s.word u) i) ∧
  (∀ (s : State) (w : Nat) (v : Word), s.sound = true → (s.fillWord w v).word w = v ∧ SameBut s (s.fillWord w v) [w] ∧
    ((∀ x ∈ s.waits, x.word ≠ w) → (s.fillWord w v).full w = true ∧ (s.fillWord w v).waits = s.waits)) ∧
  (∀ (s : State) (w : Nat), (∀ x ∈ s.waits, x.word ≠ w) →
    (s.emptyWord w).full w = false ∧ (s.emptyWord w).mem = s.mem ∧ (s.emptyWord w).waits = s.waits) ∧
  (∀ (s : State) (w : Nat) (x : Wait), s.sound = true → s.waits.find? (fun y => y.word == w && y.store) = some x → (∀ y ∈ s.waits, y.word = w → y.store = true) →
    (s.emptyWord w).word w = x.q.b ∧ (s.emptyWord w).full w = true ∧ (s.emptyWord w).waits = s.waits.erase x) ∧
  (∀ (s : State) (w : Nat) (v : Word) (x : Wait), s.sound = true → s.waits.find? (fun y => y.word == w) = some x → x.store = false → x.q.form = .ldfwe →
    (s.fillWord w v).full w = false ∧ (s.fillWord w v).word w = v)

/-- BLOCK_DECODE (R51, R55, R57, R177, R194, R400): a thread between blocks whose lines are fetched and decode gets a block of their
instructions, none of them fired, with no register writes, stores, exits or flags; lines that break the encoding raise
ILLEGAL_ENCODING (1) with line × 32 + parcel; a line whose fetch fails translation raises TRANSLATION (3) with its address, one that misses
the TLB sends a walk request for its page, and the slot waits; a stop that waits for the boundary comes first, then a breakpoint at the
block's address, which stops its tenant on the core. A line is the 64 bytes at its address. What the spec leaves open here is the
model's (log entries 8, 12).
Completes: blockDecode. -/
def Obligations.BlockDecode : Prop :=
  let ready (s : State) (y : Ctx) : Prop := Seated s s.focus.c s.focus.k y ∧ (s.slot s.focus.c s.focus.k).blk = none ∧ y.hold = .run ∧
    ((s.core s.focus.c).paired && decide (8 ≤ s.focus.k)) = false
  let mayRun (s : State) (y : Ctx) : Prop := ready s y ∧ y.late = [] ∧ s.inRotation s.focus.c s.focus.k = true ∧ y.mwait = false ∧
    ∀ p, (s.slot s.focus.c s.focus.k).fetch ≠ some (p, false)
  let runs (s : State) (y : Ctx) : Prop := mayRun s y ∧ (y.pc ∈ (s.core s.focus.c).brks → y.pass = true)
  let from_ (s : State) : State := s.setSlot s.focus.c s.focus.k { s.slot s.focus.c s.focus.k with fetch := none }
  let lines (s u : State) (y : Ctx) (n i : Nat) : State × List (BitVec 512) × Option (Word × Bool) :=
    u.fetchLines s.focus.c y.ten (s.slot s.focus.c s.focus.k).fetch y.pc s.focus.n n i
  let rest (l : BitVec 512) : Nat := if lineB l then lineCount l - 1 else 0
  let fetched (s u v : State) (y : Ctx) (l : BitVec 512) (ls : List (BitVec 512)) (x : Option (Word × Bool)) : Prop :=
    lines s (from_ s) y 1 0 = (u, [l], none) ∧ lines s u y (rest l) 1 = (v, ls, x)
  let walks (s v : State) (y : Ctx) (va : Word) : Prop :=
    exec .blockDecode s = .next ((v.setSlot s.focus.c s.focus.k { v.slot s.focus.c s.focus.k with fetch := some (va.toNat / 65536, false) }).sendPkt
      (v.core s.focus.c).tag (.walk s.focus.c y.ten (va.toNat / 65536)))
  (∀ (s u v : State) (y : Ctx) (l : BitVec 512) (ls : List (BitVec 512)) (is : List Insn), runs s y → fetched s u v y l ls none → decodeBlock (l :: ls) = .ok is →
    Steps .blockDecode s fun t => ∃ b, (t.slot s.focus.c s.focus.k).blk = some b ∧ b.addr = y.pc ∧ b.hdr = lineHeader l ∧ b.lnc = lineCount l - 1 ∧
      b.body = is.map (fun i => { insn := i }) ∧ b.regs = [] ∧ b.stores = [] ∧ b.exits = [] ∧ b.flags = 0 ∧ b.acts = [] ∧ b.ponr = false ∧
      (∃ z, Seated t s.focus.c s.focus.k z ∧ z.g = y.g ∧ z.w = y.w ∧ z.pc = y.pc)) ∧
  (∀ (s u v : State) (y : Ctx) (l : BitVec 512) (ls : List (BitVec 512)) (n : Nat), runs s y → fetched s u v y l ls none → decodeBlock (l :: ls) = .error n →
    exec .blockDecode s = .next (v.stop s.focus.c s.focus.k ⟨1, BitVec.ofNat 64 n⟩ false y.pc y.pc)) ∧
  (∀ (s u v : State) (y : Ctx) (l : BitVec 512) (ls : List (BitVec 512)) (va : Word) (miss : Bool), runs s y → fetched s u v y l ls (some (va, miss)) →
    (∀ n, decodeLines (l :: ls) 0 0 = .error n → exec .blockDecode s = .next (v.stop s.focus.c s.focus.k ⟨1, BitVec.ofNat 64 n⟩ false y.pc y.pc)) ∧
    (∀ is, decodeLines (l :: ls) 0 0 = .ok is → (miss = false → exec .blockDecode s = .next (v.stop s.focus.c s.focus.k ⟨3, va⟩ false y.pc y.pc)) ∧
      (miss = true → walks s v y va))) ∧
  (∀ (s : State) (y : Ctx), runs s y →
    ((from_ s).fetchXl s.focus.c y.ten (s.slot s.focus.c s.focus.k).fetch y.pc = .fault →
      exec .blockDecode s = .next ((from_ s).stop s.focus.c s.focus.k ⟨3, y.pc⟩ false y.pc y.pc)) ∧
    ((from_ s).fetchXl s.focus.c y.ten (s.slot s.focus.c s.focus.k).fetch y.pc = .miss → walks s (from_ s) y y.pc)) ∧
  (∀ (s : State) (y : Ctx) (f : Cause) (a : Word) (l : List (Cause × Word)), ready s y → y.late = (f, a) :: l →
    exec .blockDecode s = .next ((s.modCtx s.focus.c s.focus.k fun y => { y with late := l }).stop s.focus.c s.focus.k f true a y.pc)) ∧
  (∀ (s : State) (y : Ctx), mayRun s y → y.pc ∈ (s.core s.focus.c).brks → y.pass = false →
    Steps .blockDecode s fun t => y.ten ∈ (t.core s.focus.c).dbgStop ∧ (t.slot s.focus.c s.focus.k).ctx = some { y with hold := .paused s.cycle, pass := true }) ∧
  (∀ (s : State) (pa j : Nat), pa % 8 = 0 → j < 64 → (s.line64 pa).extractLsb' (8 * j) 8 = memGet s.mem (pa + j)) ∧
  (∀ (s : State) (c t pa dom : Nat) (again : Bool), s.verdict t pa dom = .ok → again = true ∨ (∀ x ∈ (s.core c).icache, x.1 ≠ pa / 64) →
    (s.fetchLine c t pa dom again).2 = s.line64 pa)

/-- BLOCK_COMMIT (R27, R98): a complete block that took an exit to `next`, with no fault and no action, writes its registers (a null
leaves a register, or a byte of one, as it was; a call g15), adds its sticky flags, puts its stores into the store queue in LSID order
and leaves its slot with the thread at `next`; no byte of memory changes.
Completes: blockCommit. -/
def Obligations.Commit : Prop :=
  ∀ (s : State) (y : Ctx) (b : Block) (e : Entry) (i : Nat) (next : Word),
    let c := s.focus.c
    let k := s.focus.k
    Seated s c k y → (s.slot c k).blk = some b → s.coreRuns c = true → y.hold = .run → b.start ≤ s.cycle → b.complete s.cycle = true → b.exits = [(i, next)] →
    b.body[i]? = some e → e.insn.row ∈ [Instr.br, .call, .jmp, .callr, .ret] → b.acts = [] → b.post = none → b.mism = none → b.again = false → b.taken = none → y.due = none →
    (∀ r ∈ b.regs, r.1 < 24 ∧ ∀ q ∈ b.regs, r.1 = q.1 → r = q) → (∀ x ∈ b.stores, x.2.1 = false) → (s.core c).paired = false → (s.core c).trace = none →
    (∀ u ∈ b.uses, u.1 ∈ [0, 6, 7, 8]) →
    let call : Bool := e.insn.row = .call || e.insn.row = .callr
    Steps .blockCommit s fun t => (t.slot c k).blk = none ∧ t.mem = s.mem ∧ t.feFlip = s.feFlip ∧
      ((t.core c).sq.map SqEnt.kind = (s.core c).sq.map SqEnt.kind ++
        (List.range 16).flatMap fun n => (b.stores.filter (·.1 == n)).flatMap fun x => x.2.2.map SqKind.st) ∧
      ∃ z, Seated t c k z ∧ z.pc = next ∧ z.stat = (y.stat ||| b.flags.zeroExtend 64) ∧ z.fpm = y.fpm ∧ z.fmt = y.fmt ∧ z.scale = y.scale ∧
        z.stklim = y.stklim ∧ z.tag = y.tag ∧ z.grps = y.grps ∧ z.s6 = y.s6 ∧ z.s7 = y.s7 ∧
        (∀ r < 16, z.greg (BitVec.ofNat 4 r) = if call = true ∧ r = 15 then BitVec.ofNat 64 (b.addr.toNat + 64 * (b.lnc + 1)) else
          ((b.regs.find? (·.1 == r)).bind fun x => x.2.scalar).getD (y.greg (BitVec.ofNat 4 r))) ∧
        (∀ r < 8, ∀ j < 64, (z.vreg (BitVec.ofNat 3 r)).extractLsb' (8 * j) 8 =
          match b.regs.find? (·.1 == 16 + r) with
          | some x => if x.2.vector.2.getLsbD j then (y.vreg (BitVec.ofNat 3 r)).extractLsb' (8 * j) 8 else x.2.vector.1.extractLsb' (8 * j) 8
          | none => (y.vreg (BitVec.ofNat 3 r)).extractLsb' (8 * j) 8)

/-- TAKING AN EXCEPTION (R30, R34, R345, R347, R348): the context of a slot stops with sr.trapcause the code (with bit 16 after a commit),
sr.trapaddr and sr.trapval, its next block the resume address; its trap record takes the context's registers, CAUSE, TADDR and TVAL,
RESUME is emptied, the supervisor's continuation gets the message (record, CAUSE, TVAL, TADDR), which comes after the thread's stores
(R231), and the context's wait on RESUME goes there. A fault of an instruction is noted in its block, the earliest in time and of one clk the lowest in index, and the instruction
emits nulls; at the end of its clk the exception is taken, but a block past its point of no return goes on, and keeps it for after its
commit. A thread whose supervisor has no continuation ends, and its launch takes STATUS := CODE. What the spec leaves open here is the
model's (log entries 22, 40). -/
def Obligations.TakingException : Prop :=
  (∀ (s : State) (c k : Nat) (f : Cause) (post : Bool) (addr resume : Word) (y : Ctx) (q : Part) (pa hint dom : Nat),
    let va : Word := q.tbase + BitVec.ofNat 64 (512 * (16 * (s.core c).logical + k))
    Seated s c k y → y.due = none → (∀ b, (s.slot c k).blk = some b → b.taken = none) → ((s.core c).paired = true → k < 8) →
    tget? s.parts (s.core c).tag = some q → q.scont ≠ 0 → s.xlateNow q.svten va .both = .ok pa hint dom → s.sound = true →
    (∀ i < 36, s.verdict q.svten (8 * (pa / 8 + i)) dom = .ok) →
    let t := s.stop c k f post addr resume
    let cause : Word := BitVec.ofNat 64 (f.code + if post then 65536 else 0)
    (t.slot c k).blk = none ∧
    (∃ z, Seated t c k z ∧ z.trapcause = cause ∧ z.trapaddr = addr ∧ z.trapval = f.val ∧ z.pc = resume ∧ z.flt = true ∧ z.rdy = false ∧
      z.hold = .stopped s.cycle ∧ z.recPa = some pa ∧ z.recDom = dom ∧ z.g = y.g ∧ z.w = y.w ∧ z.stat = y.stat) ∧
    (∀ r < 16, t.word (pa / 8 + r) = y.greg (BitVec.ofNat 4 r)) ∧ t.word (pa / 8 + 16) &&& 0x01FFFFFFFFFFFFC0 = resume &&& 0x01FFFFFFFFFFFFC0 ∧
      t.word (pa / 8 + 17) = y.stklim ∧ t.word (pa / 8 + 32) = cause ∧ t.word (pa / 8 + 33) = addr ∧ t.word (pa / 8 + 34) = f.val ∧
      ((∀ w ∈ s.waits, w.word ≠ pa / 8 + 35) → t.full (pa / 8 + 35) = false) ∧
    ∃ m l, t.pkts = l ++ [.msg m, .fe { form := .ldfwe, word := pa / 8 + 35, b := 0, who := .resume y.id q.svten, hint := hint, va := va + 280, dom := dom }] ∧
      m.cont = q.scont ∧ m.pay = [va, cause, f.val, addr] ∧ m.link = some va ∧ m.after = s.owed c y.id) ∧
  (∀ (s : State) (h : Here) (code : Nat) (v : Word), s.here = some h → { s.raise h code v with cores := s.cores } = s ∧
    (∃ b, ((s.raise h code v).slot h.c h.k).blk = some b ∧ b.ponr = h.b.ponr ∧
      ((h.b.post = none ∨ s.cycle ≤ h.b.postAt.1 ∧ h.i < h.b.postAt.2 → b.post = some ⟨code, v⟩ ∧ b.postAt = (s.cycle, h.i)) ∧
       (h.b.post.isSome = true → h.b.postAt.1 < s.cycle ∨ h.b.postAt.2 ≤ h.i → b.post = h.b.post ∧ b.postAt = h.b.postAt)))) ∧
  (∀ (s : State) (c k : Nat) (b : Block), (s.slot c k).blk = some b →
    (b.ponr = true → s.takeFault c k = s) ∧ (b.again = false → b.post = none → s.takeFault c k = s) ∧
    (∀ f, b.ponr = false → ((s.core c).paired = true → k < 8) → b.again = false → b.post = some f → s.takeFault c k = s.stop c k f false b.addr b.addr)) ∧
  (∀ (s : State) (c k : Nat) (f : Cause) (post : Bool) (addr resume : Word) (y : Ctx) (q : Part), Seated s c k y → y.due = none →
    (∀ b, (s.slot c k).blk = some b → Quiet s b) →
    ((s.core c).paired = true → k < 8) → tget? s.parts (s.core c).tag = some q → q.scont = 0 →
    let t := s.stop c k f post addr resume
    (t.slot c k).blk = none ∧ (∀ z, Seated t c k z → z.hold = .ending ∧ z.grps = [none, none, none, none]) ∧
    ∀ l x, f.code < 65536 → y.launch = some l → s.launch? l = some x → ∃ u, t.launch? l = some u ∧ u.status = f.code ∧ u.stop = true)

/-- RESUME_FILL (R186, R349, R350): the wait on RESUME takes its fill and the word is empty again; the fill reaches its context, once
the record can be read. ACT 0 makes the context runnable in its slot with the record's G, PCW bits 56:6, STKLIM, SCALE and MODE, one
stopped in a first-use trap starting the trap again; ACT 2 does so in the context cache where it has room, and leaves the slot free; ACT
1 or 3 ends the thread, its launch taking its code. A context outside a slot is resumed or ended where it is held. Completes:
resumeFill. -/
def Obligations.ReturnFromException : Prop :=
  let runnable (s : State) (pa : Nat) (y z : Ctx) : Prop :=
    let w (i : Nat) : Word := s.word (pa / 8 + i)
    z.flt = false ∧ z.rdy = true ∧ z.recPa = none ∧ z.pc = w 16 &&& 0x01FFFFFFFFFFFFC0 ∧ (∀ r < 16, z.greg (BitVec.ofNat 4 r) = w r) ∧ z.stklim = w 17 ∧
      z.scale = w 18 &&& 0x01FFFFFFFFFFFFF0 ∧ z.stat = w 19 &&& 0x7F ∧ z.fpm = cleanFpm ((w 19 >>> 8 &&& 7) ||| ((w 19 >>> 7 &&& 1) <<< 8)) ∧
      z.fmt = cleanFmt (w 19 >>> 16 &&& 0xFF) ∧ z.lfsr = cleanLfsr (w 19 >>> 32) ∧ z.w = y.w ∧ z.tag = y.tag ∧ z.grps = y.grps
  let there (s : State) (tag : Nat) (id : Nat) (v : Word) (c0 pa : Nat) (y : Ctx) : Prop :=
    Arrives s tag (.resume id v) ∧ s.holderOf id = some (c0, y) ∧ y.recPa = some pa ∧ ∀ i < 32, s.outstanding (pa / 8 + i) 4096 = none ∧
      s.verdict (s.svten (s.core c0).tag) (8 * (pa / 8 + i)) y.recDom = .ok
  let taken (s t : State) : Prop := t.mem = s.mem ∧ t.feFlip = s.feFlip ∧ t.pkts = s.rest
  let code (y : Ctx) : Nat := match y.hold with | .tileSave _ => 0x0100 | _ => y.trapcause.toNat % 65536
  let stopped (s t : State) (y : Ctx) : Prop := ∀ l x, y.launch = some l → s.launch? l = some x → ∃ u, t.launch? l = some u ∧ u.status = code y ∧ u.stop = true
  (∀ (s : State) (tag id : Nat) (v : Word) (y : Ctx) (c0 c k pa : Nat), there s tag id v c0 pa y → s.slotOfCtx id = some (c, k) → Seated s c k y →
    (v.toNat % 4 = 0 ∨ v.toNat % 4 = 2 ∧ (s.slot c k).blk.isSome = true → Steps .resumeFill s fun t => taken s t ∧
      ∃ z, Seated t c k z ∧ z.hold = (match y.hold with | .tileSave tt => .firstUse tt s.cycle | _ => .run) ∧ runnable s pa y z) ∧
    (v.toNat % 4 = 2 → (s.slot c k).blk = none →
      let u := (s.dropReq s.focus.n).vacate c k
      (u.cacheRoom c y.ten = true → Steps .resumeFill s fun t => taken s t ∧ (t.slot c k).ctx = none ∧
        ∃ z, (t.core c).cache = (s.core c).cache ++ [z] ∧ z.hold = .run ∧ runnable s pa y z) ∧
      ((∀ z : Ctx, z.ten = y.ten → u.cachePut c z = none) → Steps .resumeFill s fun t => taken s t ∧ ∃ z, Seated t c k z ∧ z.hold = .requeued ∧ runnable s pa y z)) ∧
    (v.toNat % 2 = 1 → Steps .resumeFill s fun t => (t.slot c k).blk = none ∧ (∀ z, Seated t c k z → z.hold = .ending) ∧ stopped s t y)) ∧
  (∀ (s : State) (tag id : Nat) (v : Word) (y : Ctx) (c0 pa : Nat), there s tag id v c0 pa y → s.slotOfCtx id = none →
    (v.toNat % 2 = 0 → Steps .resumeFill s fun t => taken s t ∧ ∃ z, t.holderOf id = some (c0, z) ∧ z.hold = .run ∧ runnable s pa y z) ∧
    (v.toNat % 2 = 1 → Steps .resumeFill s fun t => (∀ c z, t.holderOf id = some (c, z) → z.hold = .ending) ∧ stopped s t y)) ∧
  (∀ (s : State) (tag id : Nat) (v : Word), Arrives s tag (.resume id v) → s.holderOf id = none → Steps .resumeFill s (taken s)) ∧
  (∀ (s : State) (w id t0 : Nat) (v : Word) (x : Wait), s.waits.find? (fun y => y.word == w && !y.store) = some x → x.store = false → x.word = w →
    x.q.form = .ldfwe → x.q.word = w → x.q.who = .resume id t0 →
    (s.fillWord w v).full w = false ∧
    (isStack (8 * w) = false → .resume id v ∈ (s.fillWord w v).pkts) ∧
    (isStack (8 * w) = true → ∃ e ∈ (s.fillWord w v).peq, e.code = 2 ∧ e.line = w / 16 ∧ e.who = .resume id t0 ∧ e.reply = some (.result (.sc v) .null)))

/-! ## Homes and protocol engines -/

/-- What a core's store queue sends and what homes perform (R25, R213 to R221, R231, R233): the oldest entry leaves in its turn, a store as
it is, one behind a fence of its thread once every store ahead is accepted, and a release once the stores ahead of it are performed at its
scope; a store accepted at its home has changed exactly its enabled bytes,
set its page's dirty bit and raised WR at its line, a release SA (R243), and stands in any update of its line on its way to its core; a full/empty form
that does not park has R215's effect and result, one that parks joins the wait list, and with 2,048 parked there is sent back
(R187); an atomic and a compare-and-swap change their word in one step and give the old value. What the spec leaves open here is the
model's (log entry 38).
Completes: storeQueueDepart, homeStoreAccept, homeFeRequest, homeAmo, homeCas. -/
def Obligations.HomeSteps : Prop :=
  (∀ (s : State) (e : SqEnt) (w : Wr), (s.core s.focus.n).sq.find? (fun x => x.phase == .queued) = some e → e.kind = .st w →
    let ahead := (s.core s.focus.n).sq.takeWhile fun a => a.id != e.id
    let fenced := ∃ a ∈ ahead, a.ctx = e.ctx ∧ ∃ sc, a.kind = .mark sc
    let ready := ∀ a ∈ ahead, a.isStore = true → a.phase = .accepted
    (¬fenced ∨ ready → Steps .storeQueueDepart s fun t => t.mem = s.mem ∧
      (t.core s.focus.n).sq = (s.core s.focus.n).sq.map (fun x => if x.id = e.id then { x with phase := .departed } else x) ∧
      ∃ sc, t.pkts = s.pkts ++ [.store s.focus.n e.id w sc e.ten] ∧ (sc = none ↔ ¬fenced)) ∧
    (fenced → ¬ready → exec .storeQueueDepart s = .fault .notEnabled)) ∧
  (∀ (s : State) (e : SqEnt) (w : Wr) (sc : Scope), (s.core s.focus.n).sq.find? (fun x => x.phase == .queued) = some e → e.kind = .rel w sc →
    let ahead := (s.core s.focus.n).sq.takeWhile fun a => a.id != e.id
    ((∀ a ∈ ahead, a.isStore = true → a.phase = .accepted ∧ a.performedAt sc = true) → Steps .storeQueueDepart s fun t => t.mem = s.mem ∧
      t.pkts = s.pkts ++ [.store s.focus.n e.id w (some sc) e.ten] ∧ ∀ x ∈ (t.core s.focus.n).l1, x.line ≠ w.word / 16) ∧
    ((∃ a ∈ ahead, a.isStore = true ∧ (a.phase ≠ .accepted ∨ a.performedAt sc = false)) → exec .storeQueueDepart s = .fault .notEnabled)) ∧
  (∀ (s : State) (tag c id t0 : Nat) (w : Wr) (rel : Option Scope), s.sound = true → Arrives s tag (.store c id w rel t0) → Reaches s tag (8 * w.word) w.dom →
    ((s.reqs.take s.focus.n).all fun r => match r.pkt with | .store c' _ w' _ _ => !(c' == c && w'.word == w.word) | _ => true) = true →
    (s.dir (w.word / 16)).isSome = true → s.mixedBad w.word ((List.range 8).filter fun i => w.mask.getLsbD i).length = false →
    let strel : Prop := ∃ x u sc, (s.core c).sq.find? (fun x => x.id == id) = some x ∧ x.kind = .rel u sc
    Steps .homeStoreAccept s fun t => SameBut s t [w.word] ∧ t.pkts = s.rest.map (Pkt.over c w) ∧ t.dirty.contains (w.word / 8192) = true ∧
      (∀ i < 8, byteOf (t.word w.word) i = if w.mask.getLsbD i then byteOf w.data i else byteOf (s.word w.word) i) ∧
      ∃ e, t.peq = s.peq ++ [e] ∧ (strel → e.code = 2) ∧ (¬strel → e.code = 1) ∧ e.line = w.word / 16 ∧ e.req = c ∧ e.sq = some (c, id) ∧ e.wrs = [w]) ∧
  (∀ (s : State) (tag : Nat) (q : FeReq), s.sound = true → Arrives s tag (.fe q) → Reaches s tag (8 * q.word) q.dom → s.ownAccepted q.who q.word = true →
    (feFills q.form = true → s.whoDrained q.who = true) → s.mixedBad q.word 8 = false → (s.dir (q.word / 16)).isSome = true → s.mustWiden q.who q.word = false →
    (∀ r, feServed q.form (s.full q.word) (s.word q.word) q.b = some r → (∀ w ∈ s.waits, w.word ≠ q.word) →
      Steps .homeFeRequest s fun t => t.word q.word = r.1 ∧ t.full q.word = r.2.1 ∧ SameBut s t [q.word] ∧
        Performed t (q.word / 16) q.who r.2.2.1 r.2.2.2) ∧
    (feParks q.form (s.full q.word) = true → s.waitsAt (homeOf (8 * q.word)) < 2048 →
      Steps .homeFeRequest s fun t => t.waits = s.waits ++ [⟨q.word, q.form == .stfw, q⟩] ∧ t.mem = s.mem ∧ t.pkts = s.rest) ∧
    (feParks q.form (s.full q.word) = true → 2048 ≤ s.waitsAt (homeOf (8 * q.word)) →
      Steps .homeFeRequest s fun t => t.waits = s.waits ∧ t.mem = s.mem ∧ t.pkts = s.pkts ∧
        ∃ r, t.reqs[s.focus.n]? = some r ∧ r.nacked = true ∧ r.at_ = s.cycle + 256)) ∧
  (∀ row ∈ amoRows, ∀ (s : State) (tag w hint dom : Nat) (hi d : Bool) (b va : Word) (who : Who), s.sound = true → Arrives s tag (.amo row w hi d b who hint va dom) →
    Reaches s tag (8 * w) dom → s.ownAccepted who w = true → (d = true → hi = false) → (s.dir (w / 16)).isSome = true → s.mustWiden who w = false →
    let n : Nat := if d then 64 else 32
    let at_ : Nat := if hi then 32 else 0
    let o : Nat := (s.word w).toNat / 2 ^ at_ % 2 ^ n
    s.mixedBad w (n / 8) = false →
    Steps .homeAmo s fun t => SameBut s t [w] ∧ (t.word w).toNat + o * 2 ^ at_ = (s.word w).toNat + amoValue row n o (b.toNat % 2 ^ n) * 2 ^ at_ ∧
      Performed t (w / 16) who (.sc (if d then BitVec.ofNat 64 o else BitVec.ofInt 64 (asSigned 32 o))) .null) ∧
  (∀ q ∈ [(Instr.casW, 32), (.casD, 64)], ∀ (s : State) (tag w hint dom : Nat) (hi : Bool) (b c : BitVec 128) (va : Word) (who : Who), s.sound = true →
    Arrives s tag (.cas q.1 w hi b c who hint va dom) → Reaches s tag (8 * w) dom → s.ownAccepted who w = true → (q.2 = 64 → hi = false) →
    (s.dir (w / 16)).isSome = true → s.mustWiden who w = false →
    let at_ : Nat := if hi then 32 else 0
    let o : Nat := (s.word w).toNat / 2 ^ at_ % 2 ^ q.2
    s.mixedBad w (q.2 / 8) = false →
    Steps .homeCas s fun t => SameBut s t [w] ∧
      (t.word w).toNat + o * 2 ^ at_ = (s.word w).toNat + (if o = b.toNat % 2 ^ q.2 then c.toNat % 2 ^ q.2 else o) * 2 ^ at_ ∧
      Performed t (w / 16) who (.sc (if q.2 = 64 then BitVec.ofNat 64 o else BitVec.ofInt 64 (asSigned 32 o))) .null) ∧
  (∀ (s : State) (tag w hint dom : Nat) (b c : BitVec 128) (va : Word) (who : Who), s.sound = true → Arrives s tag (.cas .casQ w false b c who hint va dom) →
    Reaches s tag (8 * w) dom → s.ownAccepted who w = true → s.ownAccepted who (w + 1) = true → s.mixedBad w 16 = false → s.mixedBad (w + 1) 16 = false →
    w % 2 = 0 → (s.dir (w / 16)).isSome = true → s.mustWiden who w = false → s.mustWiden who (w + 1) = false →
    let o : BitVec 128 := s.word (w + 1) ++ s.word w
    Steps .homeCas s fun t => SameBut s t [w, w + 1] ∧ t.word (w + 1) ++ t.word w = (if o = b then c else o) ∧
      Performed t (w / 16) who (.vec (o.zeroExtend 512) 0) .null)

/-- The protocol engines (R239, R243 to R247, R251, R359, Table 13.3): a read of a line under INV, UPD or SPEC makes its core a sharer in
S or is answered with data to install, under NC, and of a REPL line at its home, it is served and not installed; a replica slice serves a
read of its line, or asks the home for it; a write of an unshared line is performed at once, and of one with other sharers under INV
and UPD sends them invalidations or updates and waits for as many acknowledgements; a strong access of an unshared line is
answered at once; a replica slice's request gives it the line; an eviction in the unshared state takes the line out of the L2, with its
changes where it discards them, and of a shared line first invalidates it; a replica slice takes an update or drops its line; an
acknowledgement that is not the last only counts, and the last lets the write end; a widened acquire goes on once
the releasing core's stores are performed (R232). What the spec leaves open here is the model's (log entries 11, 39, 43, 68, 69).
Completes: rd, rrd, wr, sa, evict, replw, acki, acku, rack, wideningDrain. -/
def Obligations.ProtocolSteps : Prop :=
  (∀ (s : State) (e : PEv) (p : Nat) (d : Dir) (c k rid i : Nat), Turn s 0 e → InL2 s e p d → ReadServed s e c k rid i →
    let words : Reply := .words (e.words.map fun w => (w, s.word w))
    (p = 1 ∨ p = 2 → d.st = 0 ∨ d.st = 1 → Steps .rd s fun t => t.mem = s.mem ∧
      t.pkts = s.pkts ++ [.reply c k rid i words (some (e.line, s.line e.line)) true] ∧
      ∃ d', t.dir e.line = some d' ∧ d'.st = 1 ∧ (d'.bcast = true ∨ c ∈ d'.sharers)) ∧
    (p = 0 → d.st = 0 → Steps .rd s fun t => t.mem = s.mem ∧
      t.pkts = s.pkts ++ [.reply c k rid i words (some (e.line, s.line e.line)) false] ∧ ∃ d', t.dir e.line = some d' ∧ d'.st = 0) ∧
    (p = 3 → d.st = 0 → Steps .rd s fun t => t.mem = s.mem ∧
      t.pkts = s.pkts ++ [.reply c k rid i words (some (e.line, s.line e.line)) true] ∧ ∃ d', t.dir e.line = some d' ∧ d'.st = 1 ∧ d'.sharers = [c]) ∧
    (p = 4 → d.st = 0 ∨ d.st = 1 → Steps .rd s fun t => t.mem = s.mem ∧
      t.pkts = s.pkts ++ [.reply c k rid i words (some (e.line, s.line e.line)) true] ∧ ∃ d', t.dir e.line = some d' ∧ d'.st = 1) ∧
    (p = 5 → d.st = 0 ∨ d.st = 1 → s.replicaOf e = none → Steps .rd s fun t => t.mem = s.mem ∧
      t.pkts = s.pkts ++ [.reply c k rid i words (some (e.line, s.line e.line)) false] ∧ ∃ d', t.dir e.line = some d' ∧ d'.st = d.st)) ∧
  (∀ (s : State) (e : PEv) (c k rid i die : Nat), Turn s 0 e → ReadServed s e c k rid i → s.protoOf e.line = 5 → e.hint = 5 → s.replicaOf e = some die →
    (∀ r, tget? s.replicas (e.line * 4 + die) = some r → Steps .rd s fun t => t.mem = s.mem ∧ t.dirs = s.dirs ∧
      Replied t c k rid i (.words (e.words.map fun w => (w, overlay (s.ownUnapplied die c) w (lineWord r.data (w % 16)))))) ∧
    (tget? s.replicas (e.line * 4 + die) = none → Steps .rd s fun t => t.mem = s.mem ∧ t.pkts = s.pkts ∧ t.dirs = s.dirs ∧
      t.peq.getLast? = some { e with seen := true, code := 3, req := replAgent die })) ∧
  (∀ (s : State) (e : PEv) (p : Nat) (d : Dir) (c id : Nat), Turn s 1 e → InL2 s e p d → s.updWaits e = false → e.sq = some (c, id) → e.reply = none →
    (d.st = 0 → Steps .wr s fun t => t.mem = s.mem ∧ (∀ x ∈ (t.core c).sq, x.id ≠ id) ∧ ∃ d', t.dir e.line = some d' ∧ d'.st = 0) ∧
    (p = 1 ∨ p = 2 → d.st = 1 → let others := (s.sharerSet d).filter (· != e.req)
      let u : State := { s with peq := removeAt s.peq s.focus.n }
      others ≠ [] → (∀ n ∈ others, n < 4096) → Steps .wr s fun t => t.mem = s.mem ∧
        t.pkts = s.pkts ++ others.map (fun n => .inv n e.line (if p = 2 then some (e.wrs ++ u.laterOwn e.line n) else none)) ∧
        (t.core c).sq = (s.core c).sq ∧
        ∃ d', t.dir e.line = some d' ∧ d'.st = 2 ∧ d'.cnt = others.length ∧ d'.cur = some { e with seen := true })) ∧
  (∀ (s : State) (e : PEv) (p : Nat) (d : Dir) (c k rid i : Nat) (r : Reply), Turn s 2 e → InL2 s e p d → e.sq = none → e.reply = some r → e.who = .entry c k rid i →
    d.st = 0 → Steps .sa s fun t => t.mem = s.mem ∧ Replied t c k rid i r) ∧
  (∀ (s : State) (e : PEv) (p : Nat) (d : Dir) (c k rid i : Nat), Turn s 2 e → InL2 s e p d → e.sq = none → e.reply = none → d.st = 0 →
    e.who = .entry c k rid i → Reaches s (s.core e.req).tag (128 * e.line) e.dom → e.req = c →
    (∀ w ∈ e.words, s.ownAccepted e.who w = true ∧ s.outstanding w c = none ∧ s.mixedBad w (s.acqSize e) = false) →
    Steps .sa s fun t => t.mem = s.mem ∧ Replied t c k rid i (.words (e.words.map fun w => (w, s.word w))) ∧ ∀ x ∈ (t.core c).l1, x.line ≠ e.line) ∧
  (∀ (s : State) (e : PEv) (d : Dir) (c k rid i die : Nat), Turn s 3 e → InL2 s e 5 d → e.who = .entry c k rid i → s.domainOk (128 * e.line) e.dom = true →
    e.req = replAgent die → s.replicaOf { e with req := c } = some die → (∀ w ∈ lineNos e.line, s.outstanding w 4096 = none) → d.st = 0 ∨ d.st = 1 →
    ∀ room, s.room (replicaSlice e.line die) e.line e.ten = room → (room = .through ∨ ∃ g, room = .group g) →
    Steps .rrd s fun t => (∀ g, room = .group g → tget? t.replicas (e.line * 4 + die) = some ⟨s.line e.line, g⟩) ∧
      Replied t c k rid i (.words (e.words.map fun w => (w, s.word w))) ∧
      ∃ d', t.dir e.line = some d' ∧ d'.st = 1 ∧ (d'.bcast = true ∨ replAgent die ∈ d'.sharers)) ∧
  (∀ (s : State) (e : PEv) (d : Dir), s.sound = true → Turn s 4 e → s.focus.m = 0 → s.dir e.line = some d → s.protoOf e.line < 6 →
    (d.st = 0 → Steps .evict s fun t => t.dir e.line = none ∧
      (e.drop = false → t.mem = s.mem) ∧ ∀ v, e.drop = true → d.old = some v → ∀ i < 16, t.word (16 * e.line + i) = lineWord v i) ∧
    (s.protoOf e.line = 1 → d.st = 1 → let others := (s.sharerSet d).filter (· != e.req)
      others ≠ [] → (∀ n ∈ others, n < 4096) → Steps .evict s fun t => t.mem = s.mem ∧ t.pkts = s.pkts ++ others.map (fun n => .inv n e.line none) ∧
        ∃ d', t.dir e.line = some d' ∧ d'.st = 3 ∧ d'.cnt = others.length)) ∧
  (∀ (s : State) (d : Dir), s.focus.m = 1 → s.dir s.focus.n = some d → s.protoOf s.focus.n < 6 → d.st = 0 →
    Steps .evict s fun t => t.dir s.focus.n = none ∧ t.mem = s.mem) ∧
  (∀ (s : State) (r : Replica), 2 ≤ s.focus.m → tget? s.replicas s.focus.n = some r →
    Steps .evict s fun t => tget? t.replicas s.focus.n = none ∧ t.mem = s.mem ∧ t.pkts = s.pkts) ∧
  (∀ (s : State) (tag die line : Nat) (upd : Option (List Wr)), Arrives s tag (.replUpd die line upd) →
    let older := ∃ r ∈ s.reqs.take s.focus.n, ∃ u, r.pkt = .replUpd die line u
    (older → exec .replw s = .fault .notEnabled) ∧
    (¬older → Steps .replw s fun t => t.mem = s.mem ∧ t.pkts = s.rest ++ [.ack line (if upd = none then 7 else 9)] ∧
      (upd = none → tget? t.replicas (line * 4 + die) = none) ∧
      ∀ ws, upd = some ws → tget? t.replicas (line * 4 + die) = (tget? s.replicas (line * 4 + die)).map fun r => { r with data := lineOver ws r.data })) ∧
  (∀ q ∈ [(Instr.acki, 7), (.acku, 8), (.rack, 9)], ∀ (s : State) (tag line : Nat), Arrives s tag (.ack line q.2) →
    (s.dir line = none → Steps q.1 s fun t => t.pkts = s.rest ∧ t.dirs = s.dirs ∧ t.mem = s.mem) ∧
    (∀ d, s.dir line = some d → 1 < d.cnt → Steps q.1 s fun t => t.pkts = s.rest ∧ t.mem = s.mem ∧
      t.dir line = some { d with cnt := d.cnt - 1 })) ∧
  (∀ (s : State) (tag line c id : Nat) (d : Dir) (e : PEv), Arrives s tag (.ack line 7) → s.dir line = some d → d.cnt = 1 → d.st = 2 →
    d.cur = some e → s.protoOf line = 1 ∨ s.protoOf line = 2 → e.sq = some (c, id) → e.reply = none → e.code = 1 →
    Steps .acki s fun t => t.mem = s.mem ∧ (∀ x ∈ (t.core c).sq, x.id ≠ id) ∧ t.peq = d.held ++ s.peq ∧
      ∃ d', t.dir line = some d' ∧ d'.cnt = 0 ∧ d'.held = [] ∧ d'.st = if d.bcast = false ∧ d.sharers = [] then 0 else 1) ∧
  (∀ q ∈ [(Instr.acku, 8, 2), (.rack, 9, 5)], ∀ (s : State) (tag line c id : Nat) (d : Dir) (e : PEv), Arrives s tag (.ack line q.2.1) →
    s.dir line = some d → d.cnt = 1 → d.st = 2 → d.cur = some e → s.protoOf line = q.2.2 → e.sq = some (c, id) → e.reply = none → e.code = 1 →
    Steps q.1 s fun t => t.mem = s.mem ∧ (∀ x ∈ (t.core c).sq, x.id ≠ id) ∧ t.peq = d.held ++ s.peq ∧
      ∃ d', t.dir line = some d' ∧ d'.cnt = 0 ∧ d'.held = [] ∧ d'.st = 1) ∧
  (∀ (s : State) (e : PEv) (c : Nat) (ids : List Nat), s.widen[s.focus.n]? = some (e, c, ids) → (∀ x ∈ (s.core c).sq, x.id ∉ ids) →
    Steps .wideningDrain s fun t => t.peq = s.peq ++ [e] ∧ t.widen = removeAt s.widen s.focus.n ∧ t.mem = s.mem)

/-- A request that was sent back is resent once its time has come (R187, R194, R254, R285, R287, R298, R306, R370): it is in flight
again, and nothing else in memory or in flight changes. What the spec leaves open here is the model's (log entry 7).
Completes: walkResend, waitRetryTimer, migrationResend, sendResend, spawnwResend, launchResend, egoResend, remapReissue. -/
def Obligations.Resends : Prop :=
  ∀ row ∈ [Instr.walkResend, .waitRetryTimer, .migrationResend, .sendResend, .spawnwResend, .launchResend, .egoResend, .remapReissue],
    ∀ (s : State) (r : Req), s.reqs[s.focus.n]? = some r → row ∈ r.pkt.rows → r.nacked = true →
      (s.cycle < r.at_ → exec row s = .fault .notEnabled) ∧
      (r.at_ ≤ s.cycle → Steps row s fun t => t.reqs = s.reqs.set s.focus.n { r with nacked := false } ∧ t.mem = s.mem ∧ t.peq = s.peq ∧
        (row = .migrationResend → ∀ core id c k, r.pkt = .migr core id c k → tget (t.core c).ctr 0x102 0 = tget (s.core c).ctr 0x102 0 + 1))

/-- Replies, invalidations and walks (R33, R183, R191, R193, R194, R237): a reply's words reach its instruction, which goes on once
none is missing, but for words that were asked for before a lower acquire was complete and that no invalidation would call back, which are
read again; a line that its requester may keep, and that no new write overtook, becomes the first of the L1; a result completes its
instruction, and a reply to a run that is no more has no other effect; an invalidation, in the order of its line's, takes the line out
of the L1, and an update writes it there, a block that it breaks R33 for runs again, and it is acknowledged; a miss joins a walk of its page, starts one, is queued behind
sixteen, or is sent back for 64 clk; a
walk that ends puts its leaf into each requester's TLB, and the instructions that wait for it go on. CORE_RESET leaves s at 15 and
nothing held (R36). What the spec leaves open here is the model's (log entries 7, 8).
Completes: coreReset, memoryReply, invalidationReceived, walkRequest, walkDone. -/
def Obligations.CoreArrivals : Prop :=
  (∀ s : State, Steps .coreReset s fun t => (∀ c, c ≠ s.focus.n → t.core c = s.core c) ∧ t.mem = s.mem ∧
    let q := t.core s.focus.n
    q.s = 15 ∧ q.slots = [] ∧ q.tiles = [] ∧ q.accown = 0 ∧ q.sq = [] ∧ q.l1 = [] ∧ q.tlb = [] ∧ q.cache = [] ∧ q.arrivals = [] ∧
      q.tag = (s.core s.focus.n).tag ∧ q.logical = (s.core s.focus.n).logical) ∧
  (∀ (s : State) (tag c k rid i : Nat) (h : Here), s.hereOf c k rid i = some h → (s.core c).paired = false →
    (∀ ws line inst, Arrives s tag (.reply c k rid i (.words ws) line inst) →
      let taken (t : State) : Prop := t.mem = s.mem ∧ t.pkts = s.rest ∧
        ∃ b e, (t.slot c k).blk = some b ∧ b.body[i]? = some e ∧ e.words = h.e.words ++ ws ∧ (∀ n ∈ e.want, ∀ w ∈ ws, w.1 ≠ n) ∧
          (e.want = [] → e.phase = if h.e.late then .held else .retry) ∧ (e.want ≠ [] → e.phase = h.e.phase)
      let kept (l : Nat) (d : BitVec 1024) (f : Fill) : Prop := line = some (l, d) ∧ inst = true ∧ f.stale = false ∧
        (s.core c).fills.find? (fun f => f.rid == rid && f.idx == i && f.line == l) = some f ∧ ∀ r ∈ s.reqs, ∀ u, r.pkt ≠ .inv c l (some u)
      (h.e.early = false → Steps .memoryReply s taken) ∧
      (h.e.early = true → (¬∃ l d f, kept l d f) → Steps .memoryReply s fun t => t.mem = s.mem ∧ t.pkts = s.rest ∧
        ∃ b e, (t.slot c k).blk = some b ∧ b.body[i]? = some e ∧ e.late = true ∧ e.words = h.e.words ∧ (∀ n ∈ e.want, ∀ w ∈ ws, w.1 ≠ n) ∧
          (e.want = [] → e.phase = .held) ∧ (e.want ≠ [] → e.phase = h.e.phase)) ∧
      (∀ l d f, kept l d f → Steps .memoryReply s fun t => taken t ∧ (t.core c).l1.head? = some ⟨l, d, f.ten, (s.core c).epoch⟩)) ∧
    (∀ p st, Arrives s tag (.reply c k rid i (.result p st) none false) → h.e.insn.isLoad = false →
      Steps .memoryReply s fun t => t.mem = s.mem ∧ t.pkts = s.rest ∧ (t.slot c k).blk = some (h.b.results i (s.cycle + 1) p st)) ∧
    (∀ p st, Arrives s tag (.reply c k rid i (.result p st) none false) → h.e.insn.isLoad = true → p ≠ .null →
      Steps .memoryReply s fun t => t.mem = s.mem ∧ t.pkts = s.rest ∧ (t.slot c k).blk =
        some ({ h.b with loads := h.b.loads ++ (h.e.words.take 1).map fun (w : Nat × Word) => (h.lsid, w.1 / 16) }.results i (s.cycle + 1) (h.overOwn p) st)) ∧
    (∀ f, Arrives s tag (.reply c k rid i (.fault f) none false) → exec .memoryReply s = .next ((s.dropReq s.focus.n).raise h f.code f.val))) ∧
  (∀ (s : State) (tag c k rid i : Nat) (r : Reply), s.hereOf c k rid i = none → Arrives s tag (.reply c k rid i r none false) →
    Steps .memoryReply s fun t => t.mem = s.mem ∧ t.pkts = s.rest ∧ ∀ n m, t.slot n m = s.slot n m) ∧
  (∀ (s : State) (tag c l : Nat) (upd : Option (List Wr)), Arrives s tag (.inv c l upd) → (∀ r ∈ s.reqs.take s.focus.n, ∀ u, r.pkt ≠ .inv c l u) →
    (∀ x ∈ (s.core c).slots, ∀ b, x.2.blk = some b → b.ponr = true ∨ b.broken33 (fun n => n == l) = false) →
    Steps .invalidationReceived s fun t => t.mem = s.mem ∧ t.pkts = s.rest ++ [.ack l (if upd = none then 7 else 8)] ∧
      (∀ k, t.slot c k = s.slot c k) ∧ (∀ f ∈ (t.core c).fills, f.line = l → f.stale = true) ∧
      (upd = none → ∀ x ∈ (t.core c).l1, x.line ≠ l) ∧
      (∀ ws, upd = some ws → ∀ x ∈ (t.core c).l1, x.line = l → ∃ o ∈ (s.core c).l1, o.line = l ∧ x.data = lineOver ws o.data)) ∧
  (∀ (s : State) (tag c l : Nat) (upd : Option (List Wr)), Arrives s tag (.inv c l upd) → (∃ r ∈ s.reqs.take s.focus.n, ∃ u, r.pkt = .inv c l u) →
    exec .invalidationReceived s = .fault .notEnabled) ∧
  (∀ (s : State) (tag c l k : Nat) (upd : Option (List Wr)) (x : Slot) (y : Ctx) (b : Block), Arrives s tag (.inv c l upd) →
    (∀ r ∈ s.reqs.take s.focus.n, ∀ u, r.pkt ≠ .inv c l u) → (s.core c).slots = [(k, x)] →
    x.ctx = some y → x.blk = some b → b.ponr = false → b.broken33 (fun n => n == l) = true → (s.core c).paired = false → b.taken = none →
    Steps .invalidationReceived s fun t => t.mem = s.mem ∧ t.pkts.getLast? = some (.ack l (if upd = none then 7 else 8)) ∧
      ∃ rid, (t.slot c k).blk = some { b.fresh rid (s.cycle + 1) (s.core c).accown with replays := b.replays + 1 }) ∧
  (∀ (s : State) (tag c t0 page : Nat), Arrives s tag (.walk c t0 page) →
    let p := (s.core c).tag
    let sl := page * 65536 / 2 ^ 21 % max 1 (s.nslices p)
    let same (w : Walk) : Bool := w.part == p && w.ten == t0 && w.page == page
    let here (run : Bool) : Nat := (s.walks.filter fun w => w.part == p && w.slice == sl && w.running == run).length
    (s.sliceDown p sl = true → exec .walkRequest s = .fault .notEnabled) ∧
    (s.sliceDown p sl = false → s.walks.any same = true → Steps .walkRequest s fun t => t.pkts = s.rest ∧ t.walks.length = s.walks.length ∧ ∀ w ∈ t.walks, same w = true → c ∈ w.cores) ∧
    (s.sliceDown p sl = false → s.walks.any same = false → here true < 16 → Steps .walkRequest s fun t => t.pkts = s.rest ∧ t.walks = s.walks ++ [⟨p, sl, t0, page, true, [c]⟩]) ∧
    (s.sliceDown p sl = false → s.walks.any same = false → 16 ≤ here true → here false < 64 →
      Steps .walkRequest s fun t => t.pkts = s.rest ∧ t.walks = s.walks ++ [⟨p, sl, t0, page, false, [c]⟩]) ∧
    (s.sliceDown p sl = false → s.walks.any same = false → 16 ≤ here true → 64 ≤ here false → Steps .walkRequest s fun t => t.walks = s.walks ∧ t.pkts = s.pkts ∧
      ∃ r, t.reqs[s.focus.n]? = some r ∧ r.nacked = true ∧ r.at_ = s.cycle + 64)) ∧
  (∀ (s : State) (w : Walk), s.walks[s.focus.n]? = some w → w.running = true → s.sliceDown w.part w.slice = false →
    s.walkWaits w.ten (BitVec.ofNat 64 (w.page * 65536)) = false → Steps .walkDone s fun t => t.mem = s.mem ∧ t.walks.length + 1 = s.walks.length ∧
    ∀ c ∈ w.cores,
      (match s.walk w.ten (BitVec.ofNat 64 (w.page * 65536)) with
        | some (base, size, pte) => (t.core c).tlb.head? = some ⟨base, size, pte, w.ten, (s.core c).epoch⟩
        | none => (t.core c).tlb = (s.core c).tlb) ∧
      ∀ (k : Nat) (y : Ctx) (b : Block) (i : Nat) (e : Entry), Seated s c k y → y.ten = w.ten → (s.slot c k).blk = some b → b.body[i]? = some e → e.phase = .xlate → e.reqPage = w.page →
        ∃ b', (t.slot c k).blk = some b' ∧ b'.body[i]? = some { e with phase := .retry } ∧
          (s.walk w.ten (BitVec.ofNat 64 (w.page * 65536)) = none → b'.bad.any (fun x => x.1 == w.page) = true))

/-! ## Threads, messages and launches -/

/-- Where contexts are held (R253, R254, R262, R263, R352): a migrating context whose stores are performed enters its destination's
arrival queue, or is sent back where that does not accept it; the head of an arrival queue goes to a free slot where nothing else
waits, else to the cache where its share has room, else to a spill record; a free slot takes the context that has waited longest; a
stopped context, one in message wait for 4,096 clk and one named in PRE leave their slots for the cache. What the spec leaves open
here is the model's (log entries 51, 53).
Completes: migrationArrival, arrivalQueueAdvance, slotFill, contextDisplace, messageWaitSwap, srPartPre. -/
def Obligations.ThreadSteps : Prop :=
  (∀ (s : State) (tag core id c k : Nat) (y : Ctx), Arrives s tag (.migr core id c k) → Seated s c k y → y.id = id → y.hold = .migrating →
    s.drained c id .sys = true → (s.core core).tag = tag →
    (s.acceptsArrival core y.ten = true → Steps .migrationArrival s fun t => t.mem = s.mem ∧ t.pkts = s.rest ∧ (t.slot c k).ctx = none ∧ (∀ n, id + 1 ∉ (t.slot c n).banks) ∧
      (t.core core).arrivals = (s.core core).arrivals ++ [{ y with hold := .run, rdy := true, clk := s.cycle }]) ∧
    (s.acceptsArrival core y.ten = false → Steps .migrationArrival s fun t => t.mem = s.mem ∧ (t.slot c k).ctx = some y ∧
      ∃ r, t.reqs[s.focus.n]? = some r ∧ r.nacked = true ∧ r.at_ = s.cycle + 256)) ∧
  (∀ (s : State) (y : Ctx) (rest : List Ctx), (s.core s.focus.n).arrivals = y :: rest →
    let others : Bool := (s.core s.focus.n).waiting.any fun w => w.ctx.id != y.id
    let room : Bool := ((s.core s.focus.n).recsOf y.ten false).isEmpty && s.cacheRoom s.focus.n y.ten
    (∀ k, s.freeSlot s.focus.n = some k → others = false → y.mdl = true ∨ Calm s → Steps .arrivalQueueAdvance s fun t => (t.core s.focus.n).arrivals = rest ∧
      (t.slot s.focus.n k).ctx.map Ctx.id = some y.id ∧
      (y.mdl = true → t.mem = s.mem ∧ (t.slot s.focus.n k).ctx = some { y with savedIn := none, clk := s.cycle })) ∧
    (s.freeSlot s.focus.n = none ∨ others = true → room = true → Steps .arrivalQueueAdvance s fun t => t.mem = s.mem ∧
      (t.core s.focus.n).arrivals = rest ∧ (t.core s.focus.n).cache = (s.core s.focus.n).cache ++ [y]) ∧
    (s.freeSlot s.focus.n = none ∨ others = true → room = false → Calm s →
      ∀ u, (s.modCore s.focus.n fun q => { q with arrivals := rest }).putRecord s.focus.n false y = some u → exec .arrivalQueueAdvance s = .next u ∧
        (u.core s.focus.n).arrivals = rest ∧ ∃ r, (u.core s.focus.n).saved = (s.core s.focus.n).saved ++ [(y.ten, r, { y with savedIn := some false })] ∧
          r ∉ (s.core s.focus.n).recsOf y.ten false)) ∧
  (∀ (s : State) (w : Where), oldestOf (s.core s.focus.n).waiting = some w → Calm s →
    (w ∈ (s.core s.focus.n).waiting ∧ ∀ v ∈ (s.core s.focus.n).waiting, w.ctx.clk ≤ v.ctx.clk) ∧
    (∀ k y, w = .slot k y → Steps .slotFill s fun t => t.mem = s.mem ∧
      (t.slot s.focus.n k).ctx = (s.slot s.focus.n k).ctx.map fun z => { z with hold := .run, clk := s.cycle }) ∧
    (∀ k, s.freeSlot s.focus.n = some k →
      (∀ y, w = .cache y → Steps .slotFill s fun t => (t.slot s.focus.n k).ctx.map Ctx.id = some y.id ∧
        ((s.core s.focus.n).saved = [] → ∀ z ∈ (t.core s.focus.n).cache, z.id ≠ y.id)) ∧
      (∀ y, w = .queue y → Steps .slotFill s fun t => (t.slot s.focus.n k).ctx.map Ctx.id = some y.id ∧ ∀ z ∈ (t.core s.focus.n).arrivals, z.id ≠ y.id) ∧
      (∀ r u z, w = .record r → s.takeRecord s.focus.n r = some (u, z) →
        Steps .slotFill s fun t => (t.slot s.focus.n k).ctx.map Ctx.id = some r.2.2.id))) ∧
  (∀ (s : State) (k : Nat) (ks : List Nat) (y : Ctx), Seated s s.focus.n k y → (s.slot s.focus.n k).blk = none → s.cacheRoom s.focus.n y.ten = true →
    let out (t : State) (z : Ctx) : Prop := t.mem = s.mem ∧ (t.slot s.focus.n k).ctx = none ∧ (t.core s.focus.n).cache = (s.core s.focus.n).cache ++ [z]
    ((s.core s.focus.n).slots.findSome? (fun x => match x.2.ctx with
        | some z => if z.hold == .requeued && s.cacheRoom s.focus.n z.ten then some (x.1, z) else none | none => none) = some (k, y) →
      Steps .contextDisplace s fun t => out t { y with hold := .run }) ∧
    ((∀ x ∈ (s.core s.focus.n).slots, ∀ z, x.2.ctx = some z → z.hold ≠ .requeued) → s.mayDisplace s.focus.n = true → (s.core s.focus.n).preSlots = [] → y.stoppedAt ≠ none →
      (s.core s.focus.n).stoppedSlots = k :: ks → Steps .contextDisplace s fun t => out t { y with rdy := false } ∧ (t.core s.focus.n).dispAt = some s.cycle) ∧
    (s.mayDisplace s.focus.n = true → (s.core s.focus.n).preSlots = [] → (s.core s.focus.n).stoppedSlots = [] → s.longWaits s.focus.n = k :: ks → y.hold = .run → y.mwait = true → Steps .messageWaitSwap s fun t =>
      out t { y with rdy := false } ∧ (t.core s.focus.n).dispAt = some s.cycle)) ∧
  (∀ s : State, (s.core s.focus.c).pre.contains s.focus.k = true → (s.core s.focus.c).dispAt ≠ some s.cycle → (s.slot s.focus.c s.focus.k).ctx = none →
    Steps .srPartPre s fun t => (t.core s.focus.c).pre = lremove (s.core s.focus.c).pre s.focus.k ∧ ∀ c k, t.slot c k = s.slot c k) ∧
  (∀ (s : State) (y : Ctx), (s.core s.focus.c).pre.contains s.focus.k = true → (s.core s.focus.c).dispAt ≠ some s.cycle → Seated s s.focus.c s.focus.k y → y.hold = .run →
    (∀ b, (s.slot s.focus.c s.focus.k).blk = some b → b.ponr = false ∧ Quiet s b) → s.cacheRoom s.focus.c y.ten = true → Steps .srPartPre s fun t =>
      (t.slot s.focus.c s.focus.k).ctx = none ∧ (t.slot s.focus.c s.focus.k).blk = none ∧ (t.core s.focus.c).pre = lremove (s.core s.focus.c).pre s.focus.k ∧
      ((s.slot s.focus.c s.focus.k).blk = none → y.mwait = false → (t.core s.focus.c).cache = (s.core s.focus.c).cache ++ [{ y with rdy := true, clk := s.cycle }]))

/-- Messages, spawns, sets and barriers at their homes (R255, R265, R266, R268, R269, R271, R272, R285, R287, R295): a message for a
thread in a slot without MDL writes its payload to REG on and its header to MSGH, sets MDL and wakes it, or waits for the boundary
of the block that runs, which delivers it, and is accepted there, or, where that boundary waits, through sends, for this very answer, on
arrival (a second one goes into the buffer then); with MDL set, or messages in the thread's buffer, it goes into the buffer; a full buffer turns it
away; one for a number that is free is discarded and counted; each accepted send gets status 1. A KIND 1 message starts a handler in the arrival queue with its payload in g0 on. A spawn takes a free slot where nothing waits,
with the parent's modes, or is refused. A join or leave adds or takes a member; the last arrival flips PH, an earlier bar.nw sets the
token, by which later ones poll and a bar arrives for the phase after; an arrival whose block was discarded counts in its phase; a join of a free set is
refused to its thread. What the spec leaves open here is the model's (log entries 20, 21).
Completes: deliver, handlerStart, spawnRequest, setJoinHome, setLeaveHome, barrierArrive, gjoinRefused. -/
def Obligations.MessageSteps : Prop :=
  (∀ (s : State) (tag core pa dom : Nat) (m : Msg) (x : Tenant), s.sound = true → Arrives s tag (.msg m) → m.cont.getLsbD 63 = false → s.msgCore m = some core →
    s.msgReady s.focus.n m core = true → (s.core core).tag = tag → s.coreRuns core = true → s.ten? ((contTag m.cont).toNat / 2048) = some x →
    x.numbers.contains ((contTag m.cont).toNat % 2048) = true → s.bufferPa (contTag m.cont).toNat = some (pa, dom) →
    (∀ i < 128, s.verdict ((contTag m.cont).toNat / 2048) (8 * (pa / 8 + i)) dom = .ok) →
    let told (t : State) (st : Word) : Prop := ∀ c k rid i, m.reply = some (c, k, rid, i) → Replied t c k rid i (.result (.sc st) .null)
    let k : Nat := contSlot m.cont
    let n : Nat := bufCount (s.word (pa / 8))
    (∀ y, Seated s core k y → y.tag = contTag m.cont → y.hold = .run →
      (y.mdl = false → y.due = none → n = 0 → (s.slot core k).blk = none → Steps .deliver s fun t => t.mem = s.mem ∧ told t 1 ∧
        ∃ z, Seated t core k z ∧ z.mdl = true ∧ z.mwait = false ∧ z.msgh = packHeader m.hdr ∧ (y.mwait = true → z.rdy = true) ∧
          (m.pay.length ≤ 8 → ∀ j v, m.pay[j]? = some v → z.greg (BitVec.ofNat 4 (contReg m.cont + j)) = v)) ∧
      (∀ b, y.mdl = false → n = 0 → (s.slot core k).blk = some b →
        (y.due = none → s.sendCycle core k m = false → Steps .deliver s fun t => t.mem = s.mem ∧ t.pkts = s.rest ∧
          (t.slot core k).ctx = some { y with due := some m }) ∧
        (y.due = none → s.sendCycle core k m = true → Steps .deliver s fun t => t.mem = s.mem ∧ told t 1 ∧
          (t.slot core k).ctx = some { y with due := some { m with reply := none } }) ∧
        (y.due.isSome = true → s.sendCycle core k m = false → exec .deliver s = .fault .notEnabled) ∧
        (y.due.isSome = true → s.sendCycle core k m = true → Steps .deliver s fun t => told t 1 ∧ (t.slot core k).ctx = some y ∧
          t.word (pa / 8) = BitVec.ofNat 64 (bufHead (s.word (pa / 8)) + 256))) ∧
      (y.mdl = true ∨ 0 < n → n < 15 → m.pay.length ≤ 7 → Steps .deliver s fun t => told t 1 ∧ (t.slot core k).ctx = some y ∧
        let e : Nat := pa / 8 + 8 * ((bufHead (s.word (pa / 8)) + n) % 15 + 1)
        t.word (pa / 8) = BitVec.ofNat 64 (bufHead (s.word (pa / 8)) + 256 * (n + 1)) ∧ t.word e = (m.hdr.zeroExtend 64 ||| BitVec.ofNat 64 (contReg m.cont)) ∧
        ∀ j v, m.pay[j]? = some v → t.word (e + 1 + j) = v) ∧
      (n = 15 → (m.wait = false → Steps .deliver s fun t => t.mem = s.mem ∧ told t 0 ∧ (t.slot core k).ctx = some y) ∧
        (m.wait = true → Steps .deliver s fun t => t.mem = s.mem ∧ (t.slot core k).ctx = some y ∧
          ∃ r, t.reqs[s.focus.n]? = some r ∧ r.nacked = true ∧ r.at_ = s.cycle + 256)))) ∧
  (∀ (s : State) (c k : Nat) (y : Ctx) (b : Block) (m : Msg), Seated s c k y → (s.slot c k).blk = some b → b.taken = none → b.bars = [] → y.due = some m →
    (s.discard c k).mem = s.mem ∧
    (∀ c' k' rid i, m.reply = some (c', k', rid, i) → ∃ l q, .reply c' k' rid i (.result (.sc 1) .null) l q ∈ (s.discard c k).pkts) ∧
    ∃ z, Seated (s.discard c k) c k z ∧ z.due = none ∧ z.mdl = true ∧ z.msgh = packHeader m.hdr ∧
      (m.pay.length ≤ 8 → ∀ j v, m.pay[j]? = some v → z.greg (BitVec.ofNat 4 (contReg m.cont + j)) = v)) ∧
  (∀ (s : State) (tag core : Nat) (m : Msg) (x : Tenant), Arrives s tag (.msg m) → m.cont.getLsbD 63 = false → s.msgCore m = some core →
    s.msgReady s.focus.n m core = true → (s.core core).tag = tag → s.coreRuns core = true → s.ten? ((contTag m.cont).toNat / 2048) = some x →
    x.numbers.contains ((contTag m.cont).toNat % 2048) = false → Steps .deliver s fun t => t.mem = s.mem ∧ (∀ n c, t.slot n c = s.slot n c) ∧
      (∀ p, tget? s.parts tag = some p → tget? t.parts tag = some { p with ctr := tadd p.ctr 0x300 1 }) ∧
      ∀ c k rid i, m.reply = some (c, k, rid, i) → Replied t c k rid i (.result (.sc 1) .null)) ∧
  (∀ (s : State) (tag core : Nat) (m : Msg) (x : Tenant), Arrives s tag (.msg m) → m.cont.getLsbD 63 = true → s.msgCore m = some core →
    s.msgReady s.focus.n m core = true → (s.core core).tag = tag → s.acceptsArrival core m.ten = true → s.ten? m.ten = some x → x.atLimit 5 = false →
    s.sound = true → Steps .handlerStart s fun t => SameButLog s t [] ∧ (∀ c k rid i, m.reply = some (c, k, rid, i) → Replied t c k rid i (.result (.sc 1) .null)) ∧
      ∃ z, (t.core core).arrivals = (s.core core).arrivals ++ [z] ∧ z.pc = ((m.cont &&& 0x0007FFFFFFFFFFFF) <<< 6) ∧ z.hnd = true ∧ z.rdy = true ∧
        z.tag.toNat % 2048 = 0 ∧ z.stklim = 0 ∧ z.fpm = 0 ∧ (m.pay.length ≤ 8 → ∀ j v, m.pay[j]? = some v → z.greg (BitVec.ofNat 4 j) = v)) ∧
  (∀ (s : State) (tag core : Nat) (row : Instr) (entry lfsr : Word) (gs : List Word) (parent : Ctx) (c k rid i : Nat) (x : Tenant),
    Arrives s tag (.spawn row core entry gs parent lfsr (.entry c k rid i)) → s.whoDrained (.entry c k rid i) = true → (s.core core).tag = tag →
    s.ten? parent.ten = some x →
    (∀ n, s.freeSlot core = some n → (s.core core).waiting = [] → x.atLimit 5 = false → gs.length ≤ 16 → s.sound = true → Steps .spawnRequest s fun t => SameButLog s t [] ∧
      Replied t c k rid i (.result (.sc 1) .null) ∧ ∃ z, Seated t core n z ∧ z.pc = entry ∧ z.hold = .run ∧ z.tag.toNat % 2048 = 0 ∧ z.stklim = parent.stklim ∧
        z.fpm = parent.fpm ∧ z.fmt = parent.fmt ∧ z.scale = parent.scale ∧ z.lfsr = lfsr ∧ z.lslot = parent.lslot ∧ z.spawned = true ∧
        (∀ j v, gs[j]? = some v → z.greg (BitVec.ofNat 4 j) = v) ∧ (∀ j < 16, gs.length ≤ j → z.greg (BitVec.ofNat 4 j) = 0)) ∧
    (s.freeSlot core = none ∨ (s.core core).waiting ≠ [] ∨ x.atLimit 5 = true →
      (row ≠ .spawnw → Steps .spawnRequest s fun t => t.mem = s.mem ∧ Replied t c k rid i (.result (.sc 0) .null)) ∧
      (row = .spawnw → Steps .spawnRequest s fun t => t.mem = s.mem ∧ ∃ r, t.reqs[s.focus.n]? = some r ∧ r.nacked = true ∧ r.at_ = s.cycle + 256))) ∧
  (∀ (s : State) (tag c sq ctx tn n : Nat) (blk : Word), Arrives s tag (.join c sq ctx tn n blk) →
    s.behindOwn s.focus.n ctx n = false → s.setDown tn n = false →
    (∀ o, s.set? tn n = some o → Steps .setJoinHome s fun t => t.mem = s.mem ∧ t.pkts = s.rest ∧ t.set? tn n = some { o with memb := o.memb + 1, had := true } ∧
      ∀ e ∈ (t.core c).sq, e.id ≠ sq) ∧
    (s.set? tn n = none → Steps .setJoinHome s fun t => t.mem = s.mem ∧ t.pkts = s.rest ++ [.refused ctx n blk])) ∧
  (∀ (s : State) (tag c ctx tn n : Nat) (sq : Option Nat) (tok : Option Bool) (o : SetObj), Arrives s tag (.leave c sq ctx tn n tok) →
    s.behindOwn s.focus.n ctx n = false → s.setDown tn n = false →
    s.set? tn n = some o → o.deferred = [] →
    (o.memb ≤ 1 → Steps .setLeaveHome s fun t => t.mem = s.mem ∧ t.set? tn n = none) ∧
    (1 < o.memb → let left : Nat := if tok = some o.ph then o.arr - 1 else o.arr
      (left + 1 ≠ o.memb → Steps .setLeaveHome s fun t => t.mem = s.mem ∧ t.set? tn n = some { o with memb := o.memb - 1, arr := left }) ∧
      (left + 1 = o.memb → Steps .setLeaveHome s fun t => t.mem = s.mem ∧ ∃ u, t.set? tn n = some u ∧ u.memb = o.memb - 1 ∧ u.arr = 0 ∧ u.ph = !o.ph))) ∧
  (∀ (s : State) (tag c k rid i ctx tn n : Nat) (wait : Bool) (y : Ctx) (o : SetObj), Arrives s tag (.arrive c k rid i ctx tn n wait) → Seated s c k y →
    s.behindOwn s.focus.n ctx n = false → s.setDown tn n = false → s.drained c ctx .sys = true → s.set? tn n = some o → o.deferred = [] → o.waiters = [] → s.tokOf c k rid y = none →
    (o.arr + 1 = o.memb → Steps .barrierArrive s fun t => t.mem = s.mem ∧ (∃ u, t.set? tn n = some u ∧ u.ph = !o.ph ∧ u.arr = 0 ∧ u.memb = o.memb) ∧
      Replied t c k rid i (.result .null (if wait then .null else .sc 1))) ∧
    (o.arr + 1 < o.memb → Steps .barrierArrive s fun t => t.mem = s.mem ∧ (∃ u, t.set? tn n = some u ∧ u.ph = o.ph ∧ u.arr = o.arr + 1 ∧ u.memb = o.memb) ∧
      (wait = true → t.pkts = s.rest) ∧ (wait = false → Replied t c k rid i (.result .null (.sc 0)) ∧
        ∀ b, (s.slot c k).blk = some b → b.rid = rid → ∃ b', (t.slot c k).blk = some b' ∧ b'.tok = some (some ⟨n, o.ph, false⟩)))) ∧
  (∀ (s : State) (tag c k rid i ctx tn n : Nat) (y : Ctx) (o : SetObj) (x : BarTok), Seated s c k y → s.drained c ctx .sys = true →
    s.behindOwn s.focus.n ctx n = false → s.setDown tn n = false →
    s.set? tn n = some o → s.tokOf c k rid y = some x →
    (Arrives s tag (.arrive c k rid i ctx tn n false) → Steps .barrierArrive s fun t => t.mem = s.mem ∧ t.set? tn n = some o ∧
      Replied t c k rid i (.result .null (.sc (if o.ph = x.ph then 0 else 1)))) ∧
    (Arrives s tag (.arrive c k rid i ctx tn n true) → x.bk = false → o.ph = x.ph → Steps .barrierArrive s fun t => t.mem = s.mem ∧ t.pkts = s.rest ∧
      ∃ u, t.set? tn n = some u ∧ u.arr = o.arr ∧ u.ph = o.ph ∧ u.deferred = o.deferred ++ [(c, k, rid, i, y.id)])) ∧
  (∀ (s : State) (tag tn n : Nat) (w : Nat × Nat × Nat × Nat × Nat) (ph : Bool) (o : SetObj), Arrives s tag (.stands w tn n ph) →
    s.drained w.1 w.2.2.2.2 .sys = true → s.behindOwn s.focus.n w.2.2.2.2 n = false → s.setDown tn n = false → s.set? tn n = some o →
    (o.ph = ph → o.arr + 1 < o.memb → Steps .barrierArrive s fun t => t.mem = s.mem ∧ t.pkts = s.rest ∧ t.set? tn n = some { o with arr := o.arr + 1 }) ∧
    (o.ph = ph → o.arr + 1 = o.memb → o.deferred = [] → Steps .barrierArrive s fun t => t.mem = s.mem ∧
      ∃ u, t.set? tn n = some u ∧ u.ph = !ph ∧ u.arr = 0 ∧ u.memb = o.memb) ∧
    (o.ph ≠ ph → Steps .barrierArrive s fun t => t.mem = s.mem ∧ t.pkts = s.rest ∧ t.set? tn n = some { o with deferred := o.deferred ++ [w] })) ∧
  (∀ (s : State) (tag c k ctx n : Nat) (blk : Word) (y : Ctx), Arrives s tag (.refused ctx n blk) → s.contexts.find? (fun z => z.id == ctx) = some y →
    s.slotOfCtx ctx = some (c, k) → Seated s c k y → (s.slot c k).blk = none → y.hold ≠ .ending → Steps .gjoinRefused s fun t =>
      t.mem = s.mem ∧ t.pkts = s.rest ∧ (t.slot c k).ctx = some { y with
        grps := y.grps.map (fun g => if g = some (BitVec.ofNat 12 n) then none else g), late := y.late ++ [(⟨15, BitVec.ofNat 64 n⟩, blk)] })

/-- Launches at their dispatchers (R70, R129, R135, R259, R274 to R279, R298): the dispatcher of a ring parks on the next slot's word 56; once
that is full, or a launch request arrives, the record is accepted:
its slot is empty again and the ring moves on, and it goes to every other package of its span; a malformed record completes at once with
0xFFFD, one whose completion record does
not translate is lost; a queue of 64 sends a request back. Dispatch begins once the dependences are full, with the count and the modes of
its descriptors; no threads completes it with 0, 2^32 or more with 8, an unreadable descriptor with 0xFFFD. A die asks, the leader grants 64
indices, a thread starts at the
entry with g14 and STKLIM as R70 gives them; the last grant completes the launch: STATUS, TENQ, TSTART and TEND in its record and
its word full, or owed until writes by agents to replicated lines are done; a grant of another package's die reports its threads. What the spec leaves open here is the model's (log entries 24, 27, 53).
Completes: launchRecordAccept, launchRequestAccept, dispatchBegin, grantRequest, grant, grantComplete. -/
def Obligations.LaunchSteps : Prop :=
  let away (s : State) (span : Word) (t q : Nat) : List (Nat × Nat × Nat × Nat) :=
    ((spanPackages span).filter fun p => p < 16384 && p != s.lid.package).map fun p => (p, t, q, s.nextId)
  (∀ (s : State) (va : Word) (w dom : Nat) (x : Tenant) (r : Ring), s.sound = true → s.ten? s.focus.n = some x → tget? x.rings s.focus.m = some r →
    va = r.base + BitVec.ofNat 64 (64 * (r.next % 2 ^ r.k)) → s.wordAt s.focus.n va .both = some (w, dom) →
    (r.asked = none → Steps .launchRecordAccept s fun t => t.mem = s.mem ∧
      t.pkts = s.pkts ++ [.fe ⟨.ldfw, w + 7, 0, .ring s.focus.n s.focus.m s.nextId, 1, va + 56, dom⟩] ∧
      ∃ u, t.ten? s.focus.n = some u ∧ tget? u.rings s.focus.m = some { r with asked := some s.nextId }) ∧
    (r.asked ≠ none → r.seen = true → s.quiet ((List.range 8).map (w + ·)) = true → (∀ i < 8, s.verdict s.focus.n (8 * (w + i)) dom = .ok) →
      (∀ u ∈ s.waits, u.word ≠ w + 7) → (spanPackages (s.word (w + 4))).contains s.lid.package = true → Steps .launchRecordAccept s fun t =>
      (∃ u, t.ten? s.focus.n = some u ∧ tget? u.rings s.focus.m = some ⟨r.base, r.k, r.next + 1, none, false⟩) ∧
      ((∀ pa, s.paNow s.focus.n (s.word (w + 1)) .store = some pa → pa / 8 ≠ w) → t.full (w + 7) = false) ∧
      t.lid.forwards = s.lid.forwards ++ away s (s.word (w + 4)) s.focus.n s.focus.m ∧
      ∃ l, t.launch? s.nextId = some l ∧ l.ten = s.focus.n ∧ l.q = s.focus.m ∧ l.recVa = va ∧ l.crec = s.word (w + 1) ∧ l.begun = false ∧
        l.seq = (s.word (w + 6)).truncate 32)) ∧
  (∀ (s : State) (tag c k : Nat) (r : LaunchReq), Arrives s tag (.launch c k r) → s.focus.m ≠ 1 →
    ((s.reqs.take s.focus.n).any fun x => match x.pkt with | .launch _ _ y => !x.nacked && y.ten == r.ten && y.q == r.q | _ => false) = false →
    s.quiet ((List.range 8).map fun i => r.recPa / 8 + i) = true → tag = s.partOf r.ten →
    (s.queued r.ten r.q < 64 → (∀ i < 8, s.verdict r.ten (8 * (r.recPa / 8 + i)) r.dom = .ok) →
      (spanPackages (s.word (r.recPa / 8 + 4))).contains s.lid.package = true → Steps .launchRequestAccept s fun t => (t.slot c k).lbuf = none ∧
      t.lid.forwards = s.lid.forwards ++ away s (s.word (r.recPa / 8 + 4)) r.ten r.q ∧
      ∃ l, t.launch? s.nextId = some l ∧ l.ten = r.ten ∧ l.q = r.q ∧ l.recVa = r.recVa ∧ l.crec = s.word (r.recPa / 8 + 1) ∧ l.begun = false) ∧
    (64 ≤ s.queued r.ten r.q → Steps .launchRequestAccept s fun t => t.mem = s.mem ∧ t.launches = s.launches ∧
      ∃ x, t.reqs[s.focus.n]? = some x ∧ x.nacked = true ∧ x.at_ = s.cycle + 256)) ∧
  (∀ (s : State) (t0 q : Nat) (va : Word) (ws : List Word) (cnt : Option (Nat × Nat)) (first : Bool) (tenq : Nat), s.sound = true →
    let t := s.enterLaunch t0 q va ws cnt first tenq
    (∀ w dom, ws.getD 1 0 &&& 63 = 0 → s.wordAt t0 (ws.getD 1 0) .store = some (w, dom) → recordOk ws = false → (∀ u ∈ s.waits, u.word ≠ w + 7) →
      (∀ i < 8, s.verdict t0 (8 * (w + i)) dom = .ok ∧ s.isRepl ((w + i) / 16) = false) → s.agentsDone = true →
      tget s.lid.levels 5 1 < 2 → tget s.lid.levels 6 1 < 2 →
      s.dieHere ((s.liveDies (ws.getD 4 0)).headD (s.lid.package * 4)) ≠ none →
      t.full (w + 7) = true ∧ (t.word w).toNat % 65536 = 0xFFFD ∧ ∃ l, t.launch? s.nextId = some l ∧ l.done = true ∧ l.status = 0xFFFD) ∧
    (ws.getD 1 0 &&& 63 ≠ 0 ∨ s.wordAt t0 (ws.getD 1 0) .store = none → t.mem = s.mem ∧
      ∃ l, t.launch? s.nextId = some l ∧ l.done = true ∧ l.crecPa = none)) ∧
  (∀ (s : State) (x : Launch) (pa : Nat), s.launch? s.focus.n = some x → x.begun = false → x.done = false → x.deps.all s.full = true →
    s.prevOk x = true → s.quiet (x.cntWord.toList ++ s.descAt x.ten x.fmtd ++ s.descAt x.ten x.scaled) = true → s.paNow x.ten x.crec .store = some pa →
    (∀ w, x.cntWord = some w → s.verdict x.ten (8 * w) x.cntDom = .ok) →
    let n : Nat := match x.cntWord with | some w => (s.word w).toNat | none => x.count
    (∀ fm sc, s.descWord x.ten x.fmtd = some (s, fm) → s.descWord x.ten x.scaled = some (s, sc) →
      (0 < n → n < 2 ^ 32 → Steps .dispatchBegin s fun t => t.mem = s.mem ∧ t.launch? s.focus.n =
        some { x with begun := true, tstart := s.cycle, count := n, fmt := cleanFmt fm, scale := cleanScale sc }) ∧
      (n = 0 ∨ 2 ^ 32 ≤ n → Steps .dispatchBegin s fun t => ∃ y, t.launch? s.focus.n = some y ∧ y.done = true ∧
        y.status = if n = 0 then 0 else 8)) ∧
    (s.descWord x.ten x.fmtd = none → Steps .dispatchBegin s fun t => ∃ y, t.launch? s.focus.n = some y ∧ y.done = true ∧ y.status = 0xFFFD)) ∧
  (∀ (s : State) (x : Launch), s.launch? s.focus.n = some x →
    (x.mayAsk s.focus.m = true → s.dieRoom x s.focus.m = true → Steps .grantRequest s fun t => t.mem = s.mem ∧
      t.launch? s.focus.n = some { x with asked := x.asked ++ [(s.focus.m, s.cycle)] }) ∧
    (∀ clk, s.focus.i = 0 → s.leads x = true → x.done = false → x.asked.find? (fun a => a.1 == s.focus.m) = some (s.focus.m, clk) →
      (∀ d, s.dieHere s.focus.m = some d → s.nextCore (s.partOf x.ten) d = none) →
      Steps .grant s fun t => t.mem = s.mem ∧ ∃ y, t.launch? s.focus.n = some y ∧ (∀ a ∈ y.asked, a.1 ≠ s.focus.m) ∧
        (x.stop = false → x.next < x.count → y.next = x.next + min 64 (x.count - x.next) ∧
          y.grants = x.grants ++ [(x.ngrants, s.focus.m, x.next, if (s.dieHere s.focus.m).isSome then min 64 (x.count - x.next) else 0, 0)]) ∧
        (x.stop = true ∨ x.count ≤ x.next → s.focus.m ∈ y.exhausted ∧ y.grants = x.grants)) ∧
    (∀ g0 first left live c lc k d, s.focus.i = 0 → x.done = false → x.asked = [] → x.grants = [(g0, s.focus.m, first, left, live)] → left = 1 →
      s.dieHere s.focus.m = some d → s.nextCore (s.partOf x.ten) d = some (c, lc) → s.freeSlot c = some k →
      let i : Nat := first + (min 64 (x.count - first) - 1)
      Steps .grant s fun t => t.mem = s.mem ∧ (∃ y, t.launch? s.focus.n = some y ∧ y.grants = [(g0, s.focus.m, first, 0, live + 1)] ∧
          y.threads = min (2 ^ 32 - 1) (x.threads + 1)) ∧
        ∃ z, Seated t c k z ∧ z.pc = x.entry ∧ z.hold = .run ∧ z.lidx = BitVec.ofNat 32 i ∧ z.greg 14 = x.sp - BitVec.ofNat 64 i * x.sstride ∧
          z.stklim = x.stklim - BitVec.ofNat 64 i * x.sstride ∧ z.fmt = x.fmt ∧ z.scale = x.scale ∧ z.tag.toNat % 2048 = 0 ∧ ∀ r < 14, z.greg (BitVec.ofNat 4 r) = 0) ∧
    (∀ pa, x.owes = true → x.crecPa = some pa → (s.agentsDone = false → exec .grantComplete s = .fault .notEnabled) ∧
      (s.agentsDone = true → s.verdict x.ten (8 * (pa / 8 + 7)) x.crecDom = .ok → (∀ w ∈ s.waits, w.word ≠ pa / 8 + 7) →
        Steps .grantComplete s fun t => t.full (pa / 8 + 7) = true ∧ t.launch? s.focus.n = some { x with owes := false })) ∧
    (∀ g0 die first pa, s.sound = true → x.done = false → x.owes = false → x.mirrored = [] → x.asking = [] → x.grants = [(g0, die, first, 0, 0)] →
      s.focus.m = g0 → s.leads x = true → x.stop = false → x.count ≤ x.next → x.crecPa = some pa → pa % 64 = 0 →
      (∀ i < 8, s.verdict x.ten (8 * (pa / 8 + i)) x.crecDom = .ok) → s.agentsDone = true → s.isRepl (pa / 128) = false → (∀ w ∈ s.waits, w.word ≠ pa / 8 + 7) →
      Steps .grantComplete s fun t => t.full (pa / 8 + 7) = true ∧
        (t.word (pa / 8)).toNat % 65536 = x.status % 65536 ∧ t.word (pa / 8 + 2) = BitVec.ofNat 64 x.tenq ∧ t.word (pa / 8 + 3) = BitVec.ofNat 64 x.tstart ∧
        t.word (pa / 8 + 4) = BitVec.ofNat 64 s.cycle ∧ t.word (pa / 8 + 7) &&& 0xFFFFFFFF = x.seq.zeroExtend 64 ∧
        ∃ y, t.launch? s.focus.n = some y ∧ y.done = true ∧ y.grants = [] ∧
          y.threads = if (s.dieHere die).isSome then x.threads else min (2 ^ 32 - 1) (x.threads + s.focus.y.toNat)))

/-! ## Map engines, matrix slices and the engines of 18 -/

/-- The map engines (R172, R174, R195, R198 to R201, R221, R224 to R228): a request at its bucket reads, adds, replaces or removes its key's
entry and no other, writes its bucket's arena lines and no other memory, answers the old value and status with the layout, and sends the
count of a key that came or went; where the entry quota is full it is turned away, and where no arena line is left it waits, once with
QUOTA; one at another bucket is forwarded. mstat answers the counts, mcreate makes 2^LEVEL empty buckets under the lowest free handle,
mdestroy frees the map's lines. An increment past the threshold starts the split of bucket S, both buckets locked; a split step moves the
entries of one line whose hash goes to the target, and the last one releases both and advances S, or L. None of it happens at a home whose
channel is down (R397). What the spec leaves open
here is the model's (log entries 16, 48).
Completes: mapEngineRequest, descriptorCount, splitStep. -/
def Obligations.MapSteps : Prop :=
  let map? (s : State) (t h : Nat) : Option MapObj := (s.ten? t).bind fun x => tget? x.maps h
  let found (m : MapObj) (b : Nat) (k : Word) : Option Word := chainFind (m.bucket b).chain k
  let butLines (s t : State) (ls : List BLine) (more : List Nat) : Prop := (∀ l ∈ ls, l.ents.length ≤ 7) →
    ∀ a, (∀ l ∈ ls, a / 128 ≠ l.at_) → a / 128 ∉ more → memGet t.mem a = memGet s.mem a
  let butLinesLog (s t : State) (ls : List BLine) (more : List Nat) : Prop := (∀ l ∈ ls, l.ents.length ≤ 7) →
    ∀ a, (∀ l ∈ ls, a / 128 ≠ l.at_) → a / 128 ∉ more → ¬s.logs a → memGet t.mem a = memGet s.mem a
  (∀ (s : State) (tag c k rid i : Nat) (q : MapReq) (x : Tenant) (m : MapObj), s.sound = true → Arrives s tag (.map q) → q.who = .entry c k rid i → s.ten? q.ten = some x →
    q.form ≠ .mcreate → s.bucketDown q.ten q.bucket = false → map? s q.ten q.h = some m → m.dying = false → (m.bucket q.bucket).state = 0 → s.bucketFenced q.ten q.bucket = false →
    let hx : Nat := (hashOf q.key m.seed).toNat
    let chain : List BLine := (m.bucket q.bucket).chain
    let pair : Nat := s.pairOf q.ten q.bucket
    let lay (p st : Word) : Reply := .layout (.sc p) (.sc st) q.ten q.h m.l m.s m.seed
    let others (t : State) (new : Option Word) : Prop := ∃ u, map? t q.ten q.h = some u ∧ found u q.bucket q.key = new ∧
      (∀ k', k' ≠ q.key → found u q.bucket k' = found m q.bucket k') ∧ (∀ b, b ≠ q.bucket → u.bucket b = m.bucket b) ∧ u.l = m.l ∧ u.s = m.s ∧ u.count = m.count
    let counts (t : State) (up : Bool) (p st : Word) : Prop := t.pkts.getLast? = some (.count q up (.sc p) (.sc st))
    (q.form = .mstat → Steps .mapEngineRequest s fun t => t.mem = s.mem ∧ map? t q.ten q.h = some m ∧ Replied t c k rid i
      (.layout (.sc (BitVec.ofNat 64 (min m.count.toNat (2 ^ 32 - 1) + m.l * 2 ^ 32 + m.s * 2 ^ 40))) .null q.ten q.h m.l m.s m.seed)) ∧
    (q.form = .mdestroy → m.split = none → m.triggers = [] → Steps .mapEngineRequest s fun t => t.mem = s.mem ∧ Replied t c k rid i (.result .null .null) ∧
      ∀ u, map? t q.ten q.h = some u → u.dying = true ∧ u.buckets = []) ∧
    (q.bucket < m.size → hx % 2 ^ (m.bucket q.bucket).lstamp = q.bucket →
      (∀ old, found m q.bucket q.key = some old →
        (q.form = .mprobe → Steps .mapEngineRequest s fun t => t.mem = s.mem ∧ map? t q.ten q.h = some m ∧ Replied t c k rid i (lay old 1)) ∧
        (q.form = .minsert → Steps .mapEngineRequest s fun t => t.mem = s.mem ∧ map? t q.ten q.h = some m ∧ Replied t c k rid i (lay old 0)) ∧
        (q.form = .mupsert → Steps .mapEngineRequest s fun t => butLines s t chain [] ∧ others t (some q.val) ∧ Replied t c k rid i (lay old 0)) ∧
        (q.form = .mremove → Steps .mapEngineRequest s fun t => butLines s t chain [] ∧ others t none ∧ counts t false old 1)) ∧
      (found m q.bucket q.key = none →
        (q.form = .mprobe ∨ q.form = .mremove → Steps .mapEngineRequest s fun t => t.mem = s.mem ∧ map? t q.ten q.h = some m ∧ Replied t c k rid i (lay 0 0)) ∧
        (q.form = .minsert ∨ q.form = .mupsert →
          (x.atLimit 4 = false → chainFull chain = false →
            Steps .mapEngineRequest s fun t => butLinesLog s t chain [] ∧ others t (some q.val) ∧ counts t true 0 1) ∧
          (∀ n, x.atLimit 4 = false → chainFull chain = true → x.freeLine pair = some n →
            Steps .mapEngineRequest s fun t => butLinesLog s t chain [n] ∧ others t (some q.val) ∧ counts t true 0 1 ∧
              ∃ y, t.ten? q.ten = some y ∧ n ∈ (tget y.arena pair {}).used) ∧
          (x.atLimit 4 = false → chainFull chain = true → x.freeLine pair = none →
            (q.told = false → Steps .mapEngineRequest s fun t => t.mem = s.mem ∧ map? t q.ten q.h = some m ∧
              ∃ r, t.reqs[s.focus.n]? = some r ∧ r.nacked = false ∧ r.pkt = .map { q with told := true }) ∧
            (q.told = true → exec .mapEngineRequest s = .fault .notEnabled)) ∧
          (x.atLimit 4 = true → Steps .mapEngineRequest s fun t => t.mem = s.mem ∧ map? t q.ten q.h = some m ∧
            Replied t c k rid i (.turnedAway ⟨13, BitVec.ofNat 64 q.h⟩ q.ten q.h m.l m.s m.seed))))) ∧
    (m.size ≤ q.bucket ∨ hx % 2 ^ (m.bucket q.bucket).lstamp ≠ q.bucket → q.form ∈ [Instr.mprobe, .minsert, .mupsert, .mremove] →
      Steps .mapEngineRequest s fun t => t.mem = s.mem ∧ map? t q.ten q.h = some m ∧ ∃ r, t.reqs[s.focus.n]? = some r ∧ r.nacked = false ∧
        r.pkt = .map { q with bucket := if hx % 2 ^ m.l < m.s then hx % 2 ^ (m.l + 1) else hx % 2 ^ m.l })) ∧
  (∀ (s : State) (tag : Nat) (q : MapReq) (x : Tenant), Arrives s tag (.map q) → s.ten? q.ten = some x →
    s.bucketDown q.ten (if q.form = .mcreate then 0 else q.bucket) = true → exec .mapEngineRequest s = .fault .notEnabled) ∧
  (∀ (s : State) (tag c k rid i : Nat) (q : MapReq) (x : Tenant), Arrives s tag (.map q) → q.form = .mcreate → q.who = .entry c k rid i →
    s.ten? q.ten = some x → s.bucketDown q.ten 0 = false → s.bucketFenced q.ten 0 = false →
    let lv : Nat := (q.val >>> 8 &&& 0xFF).toNat
    (∀ h, lowestFree (x.maps.map Prod.fst) 0 4095 = some h → x.atLimit 3 = false → s.takeBuckets q.ten lv (2 ^ lv) x ≠ none →
      Steps .mapEngineRequest s fun t => Replied t c k rid i (.layout (.sc (BitVec.ofNat 64 h)) .null q.ten h lv 0 q.key) ∧
        ∃ u, map? t q.ten h = some u ∧ u.seed = q.key ∧ u.thresh = (q.val &&& 0xFF).toNat ∧ u.l = lv ∧ u.s = 0 ∧ u.count = 0 ∧ u.split = none ∧
          u.dying = false ∧ ∀ b < 2 ^ lv, (u.bucket b).lstamp = lv ∧ (u.bucket b).state = 0 ∧ ∀ key, found u b key = none) ∧
    (lowestFree (x.maps.map Prod.fst) 0 4095 = none ∨ x.atLimit 3 = true → Steps .mapEngineRequest s fun t => t.mem = s.mem ∧
      Replied t c k rid i (.fault ⟨13, 0⟩) ∧ ∀ h, map? t q.ten h = map? s q.ten h)) ∧
  (∀ (s : State) (tag c k rid i : Nat) (q : MapReq) (up : Bool) (p st : Tok) (x : Tenant) (m : MapObj), s.sound = true → s.bucketDown q.ten 0 = false → Arrives s tag (.count q up p st) →
    q.who = .entry c k rid i → s.ten? q.ten = some x → map? s q.ten q.h = some m → m.dying = false → s.bucketFenced q.ten 0 = false →
    (up = false ∨ m.count + 1 ≤ m.thresh * (2 ^ m.l + m.s) ∨ 25 ≤ m.l → Steps .descriptorCount s fun t => t.mem = s.mem ∧
      map? t q.ten q.h = some { m with count := if up then m.count + 1 else m.count - 1 } ∧ Replied t c k rid i (.layout p st q.ten q.h m.l m.s m.seed)) ∧
    (∀ n, up = true → m.thresh * (2 ^ m.l + m.s) < m.count + 1 → m.l < 25 → m.split = none → m.triggers = [] →
      x.freeLine (s.pairOf q.ten (m.s + 2 ^ m.l)) = some n →
      Steps .descriptorCount s fun t => butLines s t (m.bucket m.s).chain [n] ∧ Replied t c k rid i (.layout p st q.ten q.h m.l m.s m.seed) ∧
        ∃ u, map? t q.ten q.h = some u ∧
          u.count = m.count + 1 ∧ u.split = some (m.s, m.s + 2 ^ m.l) ∧ (u.bucket m.s).state = 1 ∧ (u.bucket (m.s + 2 ^ m.l)).state = 2 ∧
          (u.bucket (m.s + 2 ^ m.l)).lstamp = m.l + 1 ∧ u.l = m.l ∧ u.s = m.s)) ∧
  (∀ (s : State) (x : Tenant) (m : MapObj) (src tgt : Nat), s.sound = true → s.bucketDown s.focus.n src = false → s.bucketDown s.focus.n tgt = false →
    s.ten? s.focus.n = some x → map? s s.focus.n s.focus.m = some m → m.split = some (src, tgt) →
    src ≠ tgt → m.dying = false → m.triggers = [] →
    let chains : List BLine := (m.bucket src).chain ++ (m.bucket tgt).chain
    ((m.bucket src).chain[m.moved]? = none → Steps .splitStep s fun t => butLines s t chains [] ∧ ∃ u, map? t s.focus.n s.focus.m = some u ∧ u.split = none ∧
      (u.bucket src).state = 0 ∧ (u.bucket tgt).state = 0 ∧ (u.bucket src).lstamp = m.l + 1 ∧ u.count = m.count ∧
      (m.s + 1 < 2 ^ m.l → u.l = m.l ∧ u.s = m.s + 1) ∧ (m.s + 1 = 2 ^ m.l → u.l = m.l + 1 ∧ u.s = 0)) ∧
    (∀ line n, m.moved = 0 → (m.bucket src).chain[0]? = some line → 1 < (m.bucket src).chain.length → x.freeLine (s.pairOf s.focus.n tgt) = some n →
      let goes (e : Word × Word) : Prop := (hashOf e.1 m.seed).toNat % 2 ^ (m.l + 1) = tgt
      Steps .splitStep s fun t => butLines s t chains [n] ∧ ∃ u l', map? t s.focus.n s.focus.m = some u ∧ u.moved = 1 ∧ u.split = m.split ∧ u.count = m.count ∧
        (u.bucket src).chain[0]? = some l' ∧ (∀ e, some e ∈ l'.ents ↔ some e ∈ line.ents ∧ ¬goes e) ∧
        (∀ e, some e ∈ line.ents → goes e → ∃ l ∈ (u.bucket tgt).chain, some e ∈ l.ents)))

/-- The matrix slices (R138, R302 to R305, R309 to R313, R329, R330, R340): a slice takes its oldest ready command; mzero clears its
tile; mma.i8 adds to each element the sum of the products of its row of A and its column of B, modulo 2^32, and its result reaches
the tile when its time has come; a command without the latch or the B buffer marks its tile invalid with CAUSE 5 and leaves its
elements; a gang starts together with SRC's latch, 4 clk after its last member came, or is dropped with CAUSE 4 after 65,536; the
read of mst settles the tile's elements; a first-use trap gives its tenant a clear tile once no command is left for it, and a block that it
kept commits in the clk after at the earliest; its slot returns 2,048 clk after the raise. What the spec leaves
open here is the model's (log entries 7, 30).
Completes: mmaCommand, mzeroCommand, mmaResult, hoopStart, hoopTimeout, mstRead, firstUseTrapEnd. -/
def Obligations.SliceSteps : Prop :=
  let int8 (x : Nat) (uns : Bool) : Int := if uns then x % 256 else asSigned 8 (x % 256)
  let sum (x src : MxCmd) (i : Nat) : Int := ((List.range (4 * src.lkq)).map fun k =>
    int8 ((src.latch.getD (i / 32) 0).toNat / 2 ^ (8 * k)) (x.fmt.getLsbD 2) * int8 ((x.bop.getD k 0).toNat / 2 ^ (8 * (i % 32))) (x.fmt.getLsbD 3)).sum
  let startsWith (s t : State) (c : Nat) (x src : MxCmd) : Prop := ∃ z ∈ (t.core c).mxq, z.id = x.id ∧ z.started = true ∧ z.doneAt = s.cycle + src.lkq + 12 ∧
    ∀ i < 1024, ∃ e, z.result[i]? = some e ∧ (e.toNat : Int) = (((s.tile c x.tt).elt i).toNat + sum x src i) % 2 ^ 32
  (∀ (s : State) (x : MxCmd), (s.core s.focus.n).nextCmd = some x → (s.core s.focus.n).mxAt ≠ some s.cycle →
    (x.kind = 1 → x.ten ∉ (s.core s.focus.n).dbgStop → Steps .mzeroCommand s fun t => t.mem = s.mem ∧ (∀ z ∈ (t.core s.focus.n).mxq, z.id ≠ x.id) ∧
      (∀ i, (t.tile s.focus.n x.tt).elt i = 0) ∧ (t.tile s.focus.n x.tt).stat = 0 ∧ ∀ n, n ≠ x.tt → t.tile s.focus.n n = s.tile s.focus.n n) ∧
    (x.kind = 2 → Steps .mmaCommand s fun t => t.mem = s.mem ∧ (∀ z ∈ (t.core s.focus.n).mxq, z.id ≠ x.id) ∧
      (t.tile s.focus.n x.tt).gang = (if x.mask = 2 ^ (s.focus.n % 8) then none else some (x.mask, x.src)) ∧
      (t.tile s.focus.n x.tt).elts = (s.tile s.focus.n x.tt).elts ∧ (t.tile s.focus.n x.tt).stat = (s.tile s.focus.n x.tt).stat) ∧
    (x.kind = 0 → (s.tile s.focus.n x.tt).gang = none → (s.tile s.focus.n x.tt).stat.getLsbD 63 = false →
      (x.latchTag ≠ some (x.ten, x.slot) ∨ x.bopTag ≠ some (x.ten, x.slot) → x.ten ∉ (s.core s.focus.n).dbgStop → Calm s → Steps .mmaCommand s fun t =>
        (∀ z ∈ (t.core s.focus.n).mxq, z.id ≠ x.id) ∧ (t.tile s.focus.n x.tt).elts = (s.tile s.focus.n x.tt).elts ∧
        (t.tile s.focus.n x.tt).stat.toNat / 2 ^ 59 = 16 + 5) ∧
      (mmaCause x x = none → x.f = 3 → Steps .mmaCommand s fun t => t.mem = s.mem ∧ t.tile s.focus.n x.tt = s.tile s.focus.n x.tt ∧
        startsWith s t s.focus.n x x)) ∧
    (∀ mask src, x.kind = 0 → (s.tile s.focus.n x.tt).gang = some (mask, src) → s.hoopAt (coreGang s.focus.n).1 x.tt = [] → Steps .mmaCommand s fun t => t.mem = s.mem ∧
      t.tile s.focus.n x.tt = s.tile s.focus.n x.tt ∧ t.hoop = s.hoop ++ [⟨(coreGang s.focus.n).1, s.focus.n % 8, s.focus.n, { x with mask := mask, src := src }, s.cycle⟩])) ∧
  (∀ (s : State) (x : MxCmd), (s.core s.focus.n).mxq.find? (fun z => z.tt == s.focus.m && z.started && !z.result.isEmpty) = some x →
    (s.cycle < x.doneAt → exec .mmaResult s = .fault .notEnabled) ∧
    (x.doneAt ≤ s.cycle → x.ten ∉ (s.core s.focus.n).dbgStop → Steps .mmaResult s fun t => t.mem = s.mem ∧ (∀ z ∈ (t.core s.focus.n).mxq, z.id ≠ x.id) ∧
      (∀ i, (t.tile s.focus.n s.focus.m).elt i = x.result.getD i 0) ∧ (t.tile s.focus.n s.focus.m).stat = x.tstat ∧
      (t.tile s.focus.n s.focus.m).gang = (s.tile s.focus.n s.focus.m).gang)) ∧
  (∀ (s : State) (src : HoopEnt), let es := s.hoopAt s.focus.n s.focus.m
    gangComplete es = true → es.find? (fun e => e.pos == e.cmd.src) = some src → (es.map HoopEnt.core).Nodup →
    (∀ e ∈ es, e.at_ + 4 ≤ s.cycle ∧ e.cmd.f = 3 ∧ (s.tile e.core e.cmd.tt).stat.getLsbD 63 = false ∧ mmaCause e.cmd src.cmd = none ∧
      ∃ z ∈ (s.core e.core).mxq, z.id = e.cmd.id) →
    Steps .hoopStart s fun t => t.mem = s.mem ∧ t.hoopAt s.focus.n s.focus.m = [] ∧ ∀ e ∈ es, startsWith s t e.core e.cmd src.cmd) ∧
  (∀ (s : State) (e : HoopEnt), (s.hoopAt (coreGang s.focus.n).1 s.focus.m).find? (fun z => z.core == s.focus.n) = some e →
    gangComplete (s.hoopAt (coreGang s.focus.n).1 s.focus.m) = false →
    (s.cycle < e.at_ + 65536 → exec .hoopTimeout s = .fault .notEnabled) ∧
    (e.at_ + 65536 ≤ s.cycle → (s.tile s.focus.n s.focus.m).stat.getLsbD 63 = false → e.cmd.ten ∉ (s.core s.focus.n).dbgStop → Calm s → Steps .hoopTimeout s fun t =>
      (∀ z ∈ (t.core s.focus.n).mxq, z.id ≠ e.cmd.id) ∧ (t.tile s.focus.n s.focus.m).elts = (s.tile s.focus.n s.focus.m).elts ∧
      (t.tile s.focus.n s.focus.m).stat.toNat / 2 ^ 59 = 16 + 4)) ∧
  (∀ (s : State) (h : Here) (a w1 : Word) (pa : Nat) (l : List (Nat × Word)), s.here = some h → h.e.insn.row = .mst → h.e.phase = .sent → (s.core h.c).paired = false →
    (∀ m ∈ (s.core h.c).mxq, m.id ∉ h.e.want) → h.a = some a → (h.ea a).toNat % 65536 + 4096 ≤ 65536 → h.e.words = (pa, w1) :: l → pa % 8 = 0 →
    Steps .mstRead s fun t => t.mem = s.mem ∧ ∃ b ws, (t.slot h.c h.k).blk = some b ∧ b.stores = h.b.stores ++ [(h.lsid, false, ws)] ∧
      (b.body[h.i]?).map Entry.phase = some .done ∧ ws.length = 1024 ∧ ∀ i < 1024, ∃ w : Wr, ws[i]? = some w ∧ w.word = pa / 8 + i / 2 ∧
        w.mask = 0xF <<< (4 * (i % 2)) ∧ (w.data >>> (32 * (i % 2))).truncate 32 =
          if (s.tile h.c (h.fn % 4)).stat.getLsbD 63 then 0x7FC00000 else (s.tile h.c (h.fn % 4)).elt i) ∧
  (∀ (s : State) (y : Ctx) (tt raised pa dom : Nat), Seated s s.focus.c s.focus.k y → (s.slot s.focus.c s.focus.k).trap = none →
    y.hold = .firstUse tt raised → tt < 4 → s.focus.k < 16 →
    ((∃ m ∈ (s.core s.focus.c).mxq, m.tt = tt) → exec .firstUseTrapEnd s = .fault .notEnabled) ∧
    ((∀ m ∈ (s.core s.focus.c).mxq, m.tt ≠ tt) → bitAt (s.core s.focus.c).accown (16 * tt + 15) = false →
      s.place y.ten (s.tstatVa s.focus.c y.ten tt) .load = some (pa, dom) → s.verdict y.ten (8 * (pa / 8)) dom = .ok →
      (s.word (pa / 8)).getLsbD 58 = false → Steps .firstUseTrapEnd s fun t => t.mem = s.mem ∧
        (t.core s.focus.c).accown.toNat / 2 ^ (16 * tt) % 2 ^ 16 = 0x8000 + y.ten * 1024 + s.focus.k * 64 ∧
        (∀ i, (t.tile s.focus.c tt).elt i = 0) ∧ (t.tile s.focus.c tt).stat = 0 ∧ (t.slot s.focus.c s.focus.k).ctx = some { y with hold := .run } ∧
        (t.slot s.focus.c s.focus.k).trap = some raised ∧ (t.slot s.focus.c s.focus.k).blk = (s.slot s.focus.c s.focus.k).blk.map fun b =>
          { b with accown := (t.core s.focus.c).accown, start := max b.start (s.cycle + 1) })) ∧
  (∀ (s : State) (y : Ctx) (raised : Nat), Seated s s.focus.c s.focus.k y → (s.slot s.focus.c s.focus.k).trap = some raised →
    (s.cycle < raised + 2048 → exec .firstUseTrapEnd s = .fault .notEnabled) ∧
    (raised + 2048 ≤ s.cycle → Steps .firstUseTrapEnd s fun t => t.mem = s.mem ∧ Seated t s.focus.c s.focus.k y ∧
      (t.slot s.focus.c s.focus.k).trap = none ∧ (t.slot s.focus.c s.focus.k).blk = (s.slot s.focus.c s.focus.k).blk.map fun b =>
        if b.ponr then b else { b with start := s.cycle, began := s.cycle }))

/-- The copy, collective and compression engines and their queues (R306, R315 to R319, R332 to R336): an ego is appended at TAILW,
or sent back where the ring is full; the arbiter starts the entry at HEAD of the queue of highest credit; copy, reduce-add and
multicast do their next word; compress 128 bytes; a command that is done fills its completion word with its TAG, and one that failed
halts its queue, once what the engines have written to replicated lines is performed; ecfg SET installs
its image in a queue that is idle and RESUME clears HALT, both filling CWA with 0; ecancel halts the queue, empties it and fills CWA
with the number of its entries. A started entry whose access is dropped leaves an alarm's record (R368). What the spec leaves open here is
the model's (log entries 28, 29, 34).
Completes: egoFrontEnd, tailwFill, arbiterStart, copy, reduceAdd, multicast, compress, engineCommandComplete, ecfgSet, ecfgResume,
ecancelRequest. -/
def Obligations.EngineSteps : Prop :=
  let plain (s : State) (t pa dom : Nat) : Prop := s.verdict t (8 * (pa / 8)) dom = .ok
  let nonePending (s : State) (e : Nat) : Prop := ∀ q ∈ (s.engine e).vqs, q.2.pend = false
  let desc (s : State) (key : Nat) (w : Nat × Nat) : Prop := ∀ i < 8, s.verdict (key / 16) (8 * (w.1 + i)) w.2 = .ok
  let filled (s t : State) (w : Nat) (v : Word) : Prop := t.word w = v ∧ ((∀ x ∈ s.waits, x.word ≠ w) → t.full w = true)
  (∀ (s : State) (tag eng vq t0 rm w wd pa dom : Nat) (pas : List Nat) (rec_ fmt scale : Word) (ctag : BitVec 16) (c k rid i : Nat), s.sound = true →
    Arrives s tag (.ego eng vq pas rec_ t0 fmt scale rm ctag (.entry c k rid i)) → s.whoDrained (.entry c k rid i) = true → tag = s.partOf t0 →
    s.vqWord eng (vqKey t0 vq) = some (w, wd) → desc s (vqKey t0 vq) (w, wd) → (s.vq eng (vqKey t0 vq)).bound = true → vqIsDirect (s.vq eng (vqKey t0 vq)).img = false →
    let img := (s.vq eng (vqKey t0 vq)).img
    (s.vqCount eng (vqKey t0 vq) (w, wd) < 2 ^ vqSize img →
      s.engXl (s.blankCmd (vqKey t0 vq) img) (vqSlotVa img (s.word (w + 2)).toNat) .store = .inl (pa, dom) →
      plain s (vqKey t0 vq / 16) pa dom → pa / 8 ≠ w + 2 → Steps .egoFrontEnd s fun t =>
        t.word (pa / 8) = rec_ ∧ filled s t (w + 2) (s.word (w + 2) + 1) ∧ SameBut s t [pa / 8, w + 2] ∧
        (t.vq eng (vqKey t0 vq)).args.length = (s.vq eng (vqKey t0 vq)).args.length + 1 ∧ .reply c k rid i (.result .null .null) none false ∈ t.pkts) ∧
    (2 ^ vqSize img ≤ s.vqCount eng (vqKey t0 vq) (w, wd) → Steps .egoFrontEnd s fun t => t.mem = s.mem ∧
      ∃ r, t.reqs[s.focus.n]? = some r ∧ r.nacked = true ∧ r.at_ = s.cycle + 256)) ∧
  (∀ (s : State) (tag t0 eng vq : Nat), Arrives s tag (.tailw t0 eng vq) →
    ((s.vq eng (vqKey t0 vq)).bound = true → Steps .tailwFill s fun t => t.mem = s.mem ∧ t.pkts = s.rest ∧ t.engines = s.engines) ∧
    (∀ img n w, (s.vq eng (vqKey t0 vq)).bound = false → s.vqWord eng (vqKey t0 vq) = some w → desc s (vqKey t0 vq) w → s.goodDesc eng (vqKey t0 vq) = some img → (s.engine eng).freeSlot = some n → Steps .tailwFill s fun t =>
      t.pkts = s.rest ∧ let q := t.vq eng (vqKey t0 vq)
      q.bound = true ∧ q.slot = n ∧ q.credit = 0 ∧ q.pend = false ∧ q.img = img ∧ q.head = (img.getD 3 0).toNat)) ∧
  (∀ (s u : State) (key : Nat) (q : VQ), (s.engine s.focus.n).shadows.length < 4 → s.choose s.focus.n = some (u, key, q) →
    ((s.engine s.focus.n).vqs.map Prod.fst).Nodup → nonePending s s.focus.n →
    (∀ r ∈ (s.engine s.focus.n).vqs, s.contends s.focus.n r = true → r.2.credit + vqWeight r.2.img ≤ q.credit) ∧
    Steps .arbiterStart s fun t => (t.vq s.focus.n key).head = q.head + 1 ∧ (t.vq s.focus.n key).args = q.args.tail ∧
      (t.vq s.focus.n key).credit = q.credit - (((s.engine s.focus.n).vqs.filter (s.contends s.focus.n)).map fun r => (vqWeight r.2.img : Int)).sum ∧
      ((t.vq s.focus.n key).halt = true ∨ s.lid.seq < t.lid.seq ∨ ∃ m x, tget? (s.engine s.focus.n).shadows m = none ∧ tget? (t.engine s.focus.n).shadows m = some x ∧ vqKey x.ten x.vq = vqKey (key / 16) (key % 16))) ∧
  (∀ (s : State) (x : EngCmd) (p0 d0 pa dom : Nat), s.sound = true → s.working 0 s.focus.m [1] = some x → x.pos < x.len →
    let a : Word := x.src + BitVec.ofNat 64 x.pos
    let d : Word := x.dst + BitVec.ofNat 64 x.pos
    s.engWaits x d = false → s.engXl x a .load = .inl (p0, d0) → plain s x.ten p0 d0 → s.engXl x d .store = .inl (pa, dom) → plain s x.ten pa dom →
    (∀ w ∈ s.waits, w.word ≠ pa / 8) → x.opt ≤ 1 → Steps .copy s fun t => t.word (pa / 8) = s.word (p0 / 8) ∧ SameBut s t [pa / 8] ∧
      t.full (pa / 8) = (if x.opt = 1 then s.full (p0 / 8) else s.full (pa / 8)) ∧ tget? (t.engine 0).shadows s.focus.m = some { x with pos := x.pos + 8 }) ∧
  (∀ (s : State) (x : EngCmd) (p0 d0 pa dom : Nat), let i : Nat := s.focus.k
    let a : Word := x.src + BitVec.ofNat 64 (8 * i)
    let d : Word := x.dst + BitVec.ofNat 64 (8 * i)
    s.sound = true → 8 * i < x.len → i ∉ x.did → s.engXl x a .load = .inl (p0, d0) → plain s x.ten p0 d0 →
    (s.working 1 s.focus.m [2] = some x → x.opt = 3 → s.engWaits x d = false → a.toNat % 8 = 0 → pa % 8 = 0 → s.engXl x d .both = .inl (pa, dom) →
      s.engXl x d .load = .inl (pa, dom) → plain s x.ten pa dom → Steps .reduceAdd s fun t => t.word (pa / 8) = s.word (pa / 8) + s.word (p0 / 8) ∧ SameBut s t [pa / 8] ∧
        ∃ y, tget? (t.engine 1).shadows s.focus.m = some y ∧ y.did = linsert x.did i) ∧
    (s.working 1 s.focus.m [3] = some x → s.engXl x d .store = .inl (pa, dom) → plain s x.ten pa dom → Steps .multicast s fun t => t.word (pa / 8) = s.word (p0 / 8) ∧
      SameBut s t [pa / 8] ∧ tget? (t.engine 1).shadows s.focus.m = some { x with did := linsert x.did i })) ∧
  (∀ (s u v : State) (x : EngCmd) (ws : List Word), s.working 2 s.focus.m [5] = some x → x.pos < x.len → s.engWaits x (x.dst + BitVec.ofNat 64 (x.pos / 2)) = false →
    State.engWords x ((List.range 16).map fun i => x.src + BitVec.ofNat 64 x.pos + BitVec.ofNat 64 (8 * i)) s = (u, .inl ws) →
    let e := efpEncode ((ws.flatMap fun w => [w.toNat % 2 ^ 32, w.toNat / 2 ^ 32]).map fp32.value)
    State.engWriteAll x ((List.range 8).map fun i => (x.dst + BitVec.ofNat 64 (x.pos / 2) + BitVec.ofNat 64 (8 * i), BitVec.ofNat 64 (e.1 / 2 ^ (64 * i)))) u = (v, none) →
    Steps .compress s fun t => t.mem = v.mem ∧ ∃ y, tget? (t.engine 2).shadows s.focus.m = some y ∧ y.pos = x.pos + 128 ∧ y.ovc = x.ovc + e.2.2) ∧
  (∀ (s : State) (x : EngCmd) (c : Nat) (va : Word), tget? (s.engine s.focus.n).shadows s.focus.m = some x → x.fail = some (c, va) → c < 256 →
    x.ten ∉ (s.core x.core).dbgStop → nonePending s s.focus.n → (s.vq s.focus.n (vqKey x.ten x.vq)).cancel = [] →
    let told : State := if x.told then s else s.cmdError s.focus.n x c va x.bytesDone x.failAt
    (told.agentsDone = true → Steps .engineCommandComplete s fun t =>
      tget? (t.engine s.focus.n).shadows s.focus.m = none ∧ (t.vq s.focus.n (vqKey x.ten x.vq)).halt = true) ∧
    (told.agentsDone = false → x.told = false → Steps .engineCommandComplete s fun t => tget? (t.engine s.focus.n).shadows s.focus.m = some { x with told := true }) ∧
    (told.agentsDone = false → x.told = true → exec .engineCommandComplete s = .fault .notEnabled)) ∧
  (∀ (s : State) (x : EngCmd), tget? (s.engine s.focus.n).shadows s.focus.m = some x → x.fail = none → s.agentsDone = false →
    exec .engineCommandComplete s = .fault .notEnabled) ∧
  (∀ (s : State) (x : EngCmd), s.sound = true → tget? (s.engine s.focus.n).shadows s.focus.m = some x → x.fail = none → x.len ≤ x.bytesDone →
    x.ten ∉ (s.core x.core).dbgStop → s.agentsDone = true → s.verdict x.ten (8 * x.cwa) x.cwaDom = .ok →
    nonePending s s.focus.n → (s.vq s.focus.n (vqKey x.ten x.vq)).cancel = [] → Steps .engineCommandComplete s fun t =>
      tget? (t.engine s.focus.n).shadows s.focus.m = none ∧ filled s t x.cwa (BitVec.ofNat 64 (x.tg.toNat + x.flg.toNat * 2 ^ 32 + min 65535 x.ovc * 2 ^ 40)) ∧
      SameBut s t [x.cwa]) ∧
  (∀ (s : State) (tag c sq t0 eng vq : Nat) (cwa : Nat × Nat) (img : List Word), s.sound = true → Arrives s tag (.ecfg c sq t0 eng vq false img cwa) →
    tag = s.partOf t0 → plain s t0 cwa.1 cwa.2 → nonePending s eng →
    (∀ w wd, s.vqWord eng (vqKey t0 vq) = some (w, wd) → desc s (vqKey t0 vq) (w, wd) →
      (s.vqRunning eng (vqKey t0 vq) = true ∨ s.vqCount eng (vqKey t0 vq) (w, wd) ≠ 0 → Steps .ecfgSet s fun t =>
        filled s t (cwa.1 / 8) 0x8000000000000001 ∧ SameBut s t [cwa.1 / 8]) ∧
      (s.vqRunning eng (vqKey t0 vq) = false → s.vqCount eng (vqKey t0 vq) (w, wd) = 0 → (cwa.1 / 8 < w ∨ w + 7 < cwa.1 / 8) → Steps .ecfgSet s fun t =>
        filled s t (cwa.1 / 8) 0 ∧ t.word w = img.getD 0 0 ∧ t.word (w + 1) = (img.getD 1 0 &&& 0x8FFFF) ∧ t.word (w + 2) = 0 ∧ t.word (w + 3) = 0 ∧
        t.word (w + 4) = img.getD 4 0 ∧ t.word (w + 5) = img.getD 5 0 ∧ t.word (w + 6) = img.getD 6 0 ∧ (t.vq eng (vqKey t0 vq)).bound = false))) ∧
  (∀ (s : State) (tag c sq t0 eng vq : Nat) (cwa : Nat × Nat) (img : List Word), s.sound = true → Arrives s tag (.ecfg c sq t0 eng vq true img cwa) →
    tag = s.partOf t0 → plain s t0 cwa.1 cwa.2 → (∀ w, s.vqWord eng (vqKey t0 vq) = some w → desc s (vqKey t0 vq) w) → (s.vq eng (vqKey t0 vq)).bound = true →
    Steps .ecfgResume s fun t => filled s t (cwa.1 / 8) 0 ∧ (t.vq eng (vqKey t0 vq)).halt = false ∧ (t.vq eng (vqKey t0 vq)).bound = true) ∧
  (∀ (s : State) (tag c sq t0 eng vq w wd : Nat) (cwa : Nat × Nat), s.sound = true → Arrives s tag (.ecancel c sq t0 eng vq cwa) → tag = s.partOf t0 →
    plain s (vqKey t0 vq / 16) cwa.1 cwa.2 → tget s.lid.levels 5 1 < 3 → tget s.lid.levels 6 1 < 3 → nonePending s eng →
    s.vqWord eng (vqKey t0 vq) = some (w, wd) → desc s (vqKey t0 vq) (w, wd) →
    s.vqRunning eng (vqKey t0 vq) = false → Steps .ecancelRequest s fun t =>
      filled s t (cwa.1 / 8) (BitVec.ofNat 64 (s.vqCount eng (vqKey t0 vq) (w, wd))) ∧
      (t.vq eng (vqKey t0 vq)).halt = true ∧ (t.vq eng (vqKey t0 vq)).args = [] ∧
      (s.vqCount eng (vqKey t0 vq) (w, wd) = 0 → (t.vq eng (vqKey t0 vq)).head = (s.word (w + 2)).toNat))

/-! ## The Weave, the package and the Lid -/

/-- Slot edges, handover, donation, frames, quotas and power (R38, R254, R371, R375 to R378, R381, R382, R385, R386, R404): an edge
gives each core to the owner of the slot, with a new epoch where the owner changes, and applies the settings; an abortable block of
the outgoing side is discarded, one past its point of no return drains until 2,048 clk later it overruns; a context whose migration was
NACKed goes to the context cache; an owner idle for 256 clk
donates; at a frame boundary rate quotas restart, every tenant gets a usage record, the chain is sealed and a pending Weave or
firmware takes over; a seal goes to the log ring; of its core's share of the power limit the owner may issue 15/16, a draining block 1/16 and
tenants in pool or donated time equal parts, and one that exceeds its budget is gated until the window of 256 clk ends. What the spec leaves open here is the model's (log entries 7, 42, 66).
Completes: slotEdge, slotHandover, overrun, donation, frameBoundary, logSeal, rateQuotaCrossed, powerWindow, pmbusLimit. -/
def Obligations.WeaveSteps : Prop :=
  (∀ s : State, s.cycle % 16384 = 0 → s.lid.edgeAt ≠ some s.cycle → s.lid.stage ≠ none → Calm s → Steps .slotEdge s fun t => t.lid.edgeAt = some s.cycle ∧ t.lid.sets = [] ∧
    (s.lid.weaveNext = none → ∀ c ∈ s.edgeCores, (t.core c).side = some (s.coreOwner c) ∧ (t.core c).donated = false ∧ (t.core c).idle = 0 ∧
      (t.core c).epoch = (s.core c).epoch + if s.sideBefore c = s.coreOwner c then 0 else 1) ∧
    (∀ p t0 row vs x, s.lid.sets = [(p, t0, row, vs)] → s.dirs = [] → s.engines = [] → s.ten? t0 = some x → ∃ y, t.ten? t0 = some y ∧
      (row = 4 → y.msgBase = vs.getD 0 0) ∧ (row = 11 → y.don = (vs.getD 0 0).toNat ∧ y.donee = (vs.getD 1 0).toNat) ∧
      (row = 12 → tget y.limits (vs.getD 0 0).toNat 0 = (vs.getD 1 0).toNat))) ∧
  (∀ (s : State) (y : Ctx) (e : Nat), let c := s.focus.c
    let k := s.focus.k
    Seated s c k y → (s.slot c k).handed = some e → (s.slot c k).overrun = false → (s.core c).paired = false →
    (∀ b, (s.slot c k).blk = some b → (s.slot c k).drain = false →
      (b.ponr = false → Quiet s b → Steps .slotHandover s fun t => (b.taken = none → t.mem = s.mem) ∧ (t.slot c k).blk = none ∧ (t.slot c k).ctx.map Ctx.id = some y.id ∧ (t.slot c k).handed = some e) ∧
      (b.ponr = true → Steps .slotHandover s fun t => t.mem = s.mem ∧ t.slot c k = { s.slot c k with drain := true })) ∧
    ((s.slot c k).blk = none → (s.slot c k).drain = false → y.hold = .migrating → s.migrationNacked y.id = true → s.cacheRoom c y.ten = true → Steps .slotHandover s fun t => t.mem = s.mem ∧
      (t.slot c k).ctx = none ∧ (t.core c).cache = (s.core c).cache ++ [y]) ∧
    (∀ b, (s.slot c k).blk = some b → (s.slot c k).drain = true →
      (s.cycle < e + 2048 → exec .overrun s = .fault .notEnabled) ∧
      (e + 2048 ≤ s.cycle → Steps .overrun s fun t => t.mem = s.mem ∧ (t.slot c k).overrun = true ∧ (t.slot c k).blk = some b ∧ (t.slot c k).charge = some ((s.slot c k).charge.getD (e + 2048)) ∧
        ∀ x, s.ten? y.ten = some x → ∃ z, t.ten? y.ten = some z ∧ z.overruns = x.overruns + 1))) ∧
  (∀ (s : State) (o : Nat) (x : Tenant), s.sideNow s.focus.n = some o → s.ten? o = some x → x.don ≠ 0 → (s.core s.focus.n).donated = false →
    ((s.core s.focus.n).idle < 256 → exec .donation s = .fault .notEnabled) ∧
    (256 ≤ (s.core s.focus.n).idle → Steps .donation s fun t => t.mem = s.mem ∧ (t.core s.focus.n).donated = true ∧
      (t.core s.focus.n).side = some (if x.don = 2 then some x.donee else none))) ∧
  (∀ s : State, s.sound = true → s.cycle % 1048576 = 0 → s.lid.frameAt ≠ some s.cycle → s.lid.edgeAt = some s.cycle → Steps .frameBoundary s fun t =>
    SameButLog s t [] ∧
    t.lid.frameAt = some s.cycle ∧ t.lid.sinceSeal = 0 ∧
    (∃ x : Seal, t.lid.seals = s.lid.seals ++ [x] ∧ x.seq = t.lid.seq ∧ x.boot = s.lid.boot ∧ x.frame = s.cycle / 1048576 ∧ x.head = t.lid.head ∧
      x.sig = (List.range 4627).map (Config.signature x.covered)) ∧
    t.lid.limit = s.lid.limitNext.getD s.lid.limit ∧
    (∀ w, s.lid.weaveNext = some w → t.lid.weave = w ∧ t.lid.weaveNext = none) ∧ (s.lid.weaveNext = none → t.lid.weave = s.lid.weave) ∧
    (∀ n, s.lid.switching = some n → t.lid.active = 1 - s.lid.active ∧ t.lid.silent = true) ∧
    (s.lid.weaveNext = none → s.lid.switching = none → t.lid.seq = s.lid.seq + s.tenants.length) ∧
    ∀ t0 x, s.ten? t0 = some x → ∃ y, t.ten? t0 = some y ∧ y.held = [] ∧ y.spawns = 0 ∧ y.overruns = 0 ∧ y.secev = 0 ∧
      ∀ q, tget y.counts q 0 = if q = 0 ∨ q = 6 ∨ q = 7 ∨ q = 8 then 0 else tget x.counts q 0) ∧
  (∀ s : State, s.sound = true → 4096 ≤ s.lid.sinceSeal → Steps .logSeal s fun t => SameButLog s t [] ∧ t.lid.seq = s.lid.seq ∧ t.lid.sinceSeal = 0 ∧
    ∃ x : Seal, t.lid.seals = s.lid.seals ++ [x] ∧ x.seq = s.lid.seq ∧ x.boot = s.lid.boot ∧ x.frame = s.cycle / 1048576 ∧ x.head = s.lid.head ∧
      x.sig = (List.range 4627).map (Config.signature x.covered) ∧
      ∀ base size, s.lid.ring = some (base, size) → base % 8 = 0 → size % 8 = 0 → s.lid.ringAt % 8 = 0 → 4728 ≤ size →
        (∀ n < size, s.domainOk (base + n) 0 = true) → t.lid.ringAt = (s.lid.ringAt + 4728) % size ∧
          ∀ n < 4728, memGet t.mem (base + (s.lid.ringAt + n) % size) = (x.covered ++ x.sig).getD n 0) ∧
  (∀ (s : State) (x : Tenant), let q := s.focus.m
    s.sound = true → s.ten? s.focus.n = some x → q = 0 ∨ q = 6 ∨ q = 7 ∨ q = 8 → x.limit q ≠ 2 ^ 64 - 1 → x.limit q < tget x.counts q 0 → q ∉ x.crossed →
    Steps .rateQuotaCrossed s fun t => SameButLog s t [] ∧ t.lid.seq = s.lid.seq + 1 ∧
      (t.lid.log.getLast?).map (fun u => (u.ten, u.kind, u.detail)) = some (s.focus.n, 1, q) ∧ ∃ y, t.ten? s.focus.n = some y ∧ q ∈ y.held ∧ q ∈ y.crossed ∧ y.counts = x.counts) ∧
  (∀ s : State, let q := s.core s.focus.n
    (q.winAt + 256 ≤ s.cycle → Steps .powerWindow s fun t => t.mem = s.mem ∧ (t.core s.focus.n).winAt = s.cycle ∧ (t.core s.focus.n).gated = []) ∧
    let share : Nat := Config.coreShare s.lid.limit
    let budget : Nat := if s.focus.m = 32 then share / 16 else if (s.sideNow s.focus.n).isSome = true ∧ q.donated = false then share * 15 / 16
      else share * 15 / 16 / max 1 (q.winIssue.filter fun x => x.1 != 32).length
    let exceeds : Prop := 0 < tget q.winIssue s.focus.m 0 ∧ s.focus.m ∉ q.gated ∧ budget < tget q.winIssue s.focus.m 0
    (s.cycle < q.winAt + 256 → exceeds → Steps .powerWindow s fun t => t.mem = s.mem ∧
      s.focus.m ∈ (t.core s.focus.n).gated ∧ (t.core s.focus.n).winAt = q.winAt) ∧
    (s.cycle < q.winAt + 256 → ¬exceeds → exec .powerWindow s = .fault .notEnabled)) ∧
  (∀ s : State, s.focus.n < s.lid.limit → Steps .pmbusLimit s fun t => t.mem = s.mem ∧ t.lid.limitNext = some s.focus.n ∧ t.lid.limit = s.lid.limit)

/-- The package (R80, R367, R383, R386, R388, R390, R393 to R397, R399): start through its stages, heartbeats and the death of a die or of
another package, alarms, containment, what the host and a remote package read, write and add, Rim ports, and the Lid's own steps:
partitions, tenants, frames, the ring of the log and signed images. Whether a signature verifies is left open (log entry 6): each clause
says what follows either way. What the spec leaves open here is the model's (log entries 17, 24, 58, 61, 64, 74).
Completes: powerGood, stageReached, heartbeat, dieDead, tamperMeshBreak, voltageGlitch, clockGlitch, uncorrectableError, backInService,
firmwareSwitched, rimPortFail, rimPortUp, handleRead, handleWrite, handleFill, rimAccess, signedImageLoad, frameAssign, tenantCreate,
partitionCreate. -/
def Obligations.PackageSteps : Prop :=
  (∀ (s : State) (a b : Fw) (rest : List Byte), s.lid.power = false → fwFrom s.focus.bytes = (a, rest) → (fwFrom rest).1 = b →
    Steps .powerGood s fun t => t.lid.power = true ∧ t.lid.boot = s.lid.boot + 1 ∧ t.lid.imgs = [a, b] ∧
    let told (d : Nat) : Prop := t.lid.events = s.lid.events ++ [⟨s.cycle, 3, 0, 0, d⟩]
    (a.verifies = true → t.lid.stage = some 0 ∧ t.lid.active = 0 ∧ t.lid.head = headAt (s.lid.boot + 1) ∧ told 0) ∧
    (a.verifies = false → b.verifies = true → t.lid.stage = some 0 ∧ t.lid.active = 1 ∧ told 0) ∧
    (a.verifies = false → b.verifies = false → t.lid.stage = s.lid.stage ∧ t.lid.stageFail = some 1 ∧ told 1)) ∧
  (∀ s : State, s.focus.n = 1 ∨ s.focus.n = 2 → s.lid.stage = some (s.focus.n - 1) → s.lid.stageFail = none →
    (s.focus.m = 0 → Steps .stageReached s fun t => t.lid.stage = some s.focus.n ∧ t.lid.stageFail = none ∧ t.lid.events = s.lid.events ++ [⟨s.cycle, 3, 0, 0, 0⟩]) ∧
    (s.focus.m ≠ 0 → Steps .stageReached s fun t => t.lid.stage = s.lid.stage ∧ t.lid.stageFail = some s.focus.m ∧
      t.lid.events = s.lid.events ++ [⟨s.cycle, 3, 0, 0, s.focus.m⟩])) ∧
  (∀ (s : State) (b : Nat), tget? s.lid.beats s.focus.n = some b → s.focus.n ∉ s.lid.deadDies → s.focus.n ∉ s.lid.fencedDies →
    (b + 4096 ≤ s.cycle → Steps .heartbeat s fun t => t.mem = s.mem ∧ tget? t.lid.beats s.focus.n = some s.cycle) ∧
    (s.focus.m ≠ 1 → s.focus.m ≠ 2 → s.cycle < b + 16384 → exec .dieDead s = .fault .notEnabled) ∧
    (s.focus.m ≠ 1 → s.focus.m ≠ 2 → b + 16384 ≤ s.cycle → Steps .dieDead s fun t => s.focus.n ∈ t.lid.deadDies ∧
      (∀ c, coreDie c = s.focus.n → (∀ k, (t.slot c k).ctx = none) ∧ (t.core c).sq = [] ∧ (t.core c).l1 = []) ∧
      ((∀ d ∈ s.dirs, ∀ m ∈ d.sharers, sharerOn s.focus.n m = false) → ∀ d ∈ t.dirs, homeOf (128 * d.line) / 256 ≠ s.focus.n))) ∧
  (∀ s : State, s.focus.m = 1 → s.lid.stage = some 2 → s.focus.n < 65536 → s.dieHere s.focus.n = none → s.focus.n ∉ s.lid.farDead →
    Steps .dieDead s fun t => s.focus.n ∈ t.lid.farDead ∧ t.lid.deadDies = s.lid.deadDies) ∧
  (∀ s : State, s.focus.m = 2 → s.lid.stage = some 2 → s.focus.n < 16384 → s.focus.n ≠ s.lid.package → s.focus.n ∉ s.lid.farGone →
    Steps .dieDead s fun t => s.focus.n ∈ t.lid.farGone ∧ (∀ d < 4, 4 * s.focus.n + d ∈ t.lid.farDead) ∧ t.lid.deadDies = s.lid.deadDies ∧
      t.lid.events = s.lid.events ++ [⟨s.cycle, 1, 255, 0, s.focus.n⟩] ∧
      ∀ (pa n : Nat), regionOf pa = .rim n → (∃ w ∈ s.lid.windows, w.kind = 1 ∧ w.n = n ∧ w.remote = s.focus.n) → t.homeFenced pa = true) ∧
  (∀ q ∈ [(Instr.tamperMeshBreak, 0), (.voltageGlitch, 1), (.clockGlitch, 2)], ∀ s : State, s.sound = true → s.lid.stage ≠ none →
    let lv : Nat := tget s.lid.levels q.2 1
    Steps q.1 s fun t => t.lid.highest = max s.lid.highest lv ∧ t.lid.seq = s.lid.seq + 1 ∧ (lv = 1 → SameButLog s t [] ∧ t.tenants = s.tenants) ∧
      (2 ≤ lv → ∀ n x, t.ten? n = some x → x.fenced = true) ∧ (3 ≤ lv → ∀ n x, t.ten? n = some x → x.erased = true) ∧ (4 ≤ lv → t.lid.held = true ∧ ∀ c k, (t.slot c k).ctx = none)) ∧
  (∀ (s : State) (p : Nat × Part), s.sound = true → s.focus.n < 1024 → s.focus.n ∉ s.lid.contained → s.parts.find? (fun p => (p.2.quadsOn (s.focus.n / 256)).contains s.focus.n) = some p →
    Steps .uncorrectableError s fun t => s.focus.n ∈ t.lid.contained ∧ (∀ c k, coreQuad c = s.focus.n → (t.slot c k).ctx = none) ∧
      ∀ a, 0x10000000000 + s.focus.n * 0x100000 ≤ a → a < 0x10000000000 + (s.focus.n + 1) * 0x100000 → memGet t.mem a = 0) ∧
  (∀ s : State, (s.focus.m ≠ 1 → s.focus.n ∈ s.lid.joining → Steps .backInService s fun t => s.focus.n ∉ t.lid.joining ∧ s.focus.n ∉ t.lid.fencedDies ∧ s.focus.n ∉ t.lid.deadDies) ∧
    (s.focus.m = 1 → s.focus.n ∈ s.lid.downChans → Steps .backInService s fun t => s.focus.n ∉ t.lid.downChans ∧ t.lid.fencedDies = s.lid.fencedDies) ∧
    (s.lid.silent = true → Steps .firmwareSwitched s fun t => t.lid.silent = false) ∧
    (s.focus.n < 12 → s.focus.n ∉ s.lid.ports → s.lid.stage = some 2 → Steps .rimPortFail s fun t => s.focus.n ∈ t.lid.ports) ∧
    (s.focus.n ∈ s.lid.ports → Steps .rimPortUp s fun t => s.focus.n ∉ t.lid.ports)) ∧
  (∀ (s : State) (w : Window) (x : Tenant) (pa hint dom : Nat), s.sound = true → s.hostWindow s.focus.n = some (w, x) → x.fenced = false → s.sendHeld w.ten 7 = false →
    let va : Nat := w.base.toNat + s.focus.x.toNat
    va % 8 = 0 → s.focus.x.toNat + 8 ≤ 0x40000000 → s.verdict w.ten pa dom = .ok → pa % 8 = 0 →
    (s.focus.y = 8 → s.xlateNow w.ten (BitVec.ofNat 64 va) .load = .ok pa hint dom → Steps .handleRead s fun t => t.mem = s.mem ∧
      tget? t.lid.answers (s.focus.n / 32) = some (some [(s.word (pa / 8), s.full (pa / 8))])) ∧
    (s.focus.bytes.length = 8 → s.xlateNow w.ten (BitVec.ofNat 64 va) .store = .ok pa hint dom → Steps .handleWrite s fun t => SameBut s t [pa / 8] ∧
      (∀ j b, s.focus.bytes[j]? = some b → memGet t.mem (pa + j) = b) ∧ tget? t.lid.answers (s.focus.n / 32) = some (some [])) ∧
    (s.xlateNow w.ten (BitVec.ofNat 64 va) .both = .ok pa hint dom → (∀ z ∈ s.waits, z.word ≠ pa / 8) → s.agentsDone = true → Steps .handleFill s fun t => SameBut s t [pa / 8] ∧
      t.word (pa / 8) = s.focus.y ∧ t.full (pa / 8) = true ∧ tget? t.lid.answers (s.focus.n / 32) = some (some [])) ∧
    (s.agentsDone = false → exec .handleFill s = .fault .notEnabled)) ∧
  (∀ (s : State) (w : Window) (x : Tenant), s.hostWindow s.focus.n = some (w, x) → x.fenced = false → (w.base.toNat + s.focus.x.toNat) % 8 ≠ 0 →
    Steps .handleFill s fun t => t.mem = s.mem ∧ t.feFlip = s.feFlip ∧ tget? t.lid.answers (s.focus.n / 32) = some none) ∧
  (∀ (s : State) (x : Tenant), s.lid.stage = some 2 → s.ten? s.focus.m = some x → s.focus.i = 8 → s.focus.x.toNat % 8 = 0 → s.focus.n ∈ s.lid.farGone →
    Steps .rimAccess s fun t => t = s) ∧
  (∀ (s : State) (x : Tenant) (pa hint dom : Nat), s.sound = true → s.lid.stage = some 2 → s.ten? s.focus.m = some x → x.fenced = false → s.focus.i = 8 → s.focus.x.toNat % 8 = 0 →
    s.focus.n ∉ s.lid.farGone →
    (∃ w ∈ s.lid.windows, w.kind = 3 ∧ w.remote = s.focus.n ∧ w.ten = s.focus.m) → s.verdict s.focus.m pa dom = .ok → pa % 8 = 0 →
    (s.focus.k = 0 → s.xlateNow s.focus.m s.focus.x .load = .ok pa hint dom → Steps .rimAccess s fun t => t.mem = s.mem ∧
      tget? t.lid.answers 2 = some (some [(s.word (pa / 8), true)])) ∧
    (s.focus.k = 1 → s.xlateNow s.focus.m s.focus.x .store = .ok pa hint dom → Steps .rimAccess s fun t => SameBut s t [pa / 8] ∧ t.word (pa / 8) = s.focus.y ∧
      tget? t.lid.answers 2 = some (some [])) ∧
    (s.focus.k = 21 → s.focus.ns[0]? = some 3 → s.xlateNow s.focus.m s.focus.x .both = .ok pa hint dom → Steps .rimAccess s fun t => SameBut s t [pa / 8] ∧
      t.word (pa / 8) = s.word (pa / 8) + s.focus.y ∧ tget? t.lid.answers 2 = some (some [(0, true)]))) ∧
  (∀ (s : State) (x : Tenant), let f := s.focus.bytes
    s.sound = true → s.lid.stage ≠ none → s.ten? s.focus.n = some x →
    (imageSigned s.focus.n f = false → Steps .signedImageLoad s fun t => t.lid.highest = max s.lid.highest (tget s.lid.levels 4 1) ∧
      (tget s.lid.levels 4 1 = 1 → SameButLog s t [] ∧ t.lid.seq = s.lid.seq + 1)) ∧
    (imageSigned s.focus.n f = true → (isImage f = false ∨ s.loadImage s.focus.n f = none) → Steps .signedImageLoad s fun t => t = s) ∧
    ∀ (y note : Section) (b : Byte) (pa hint dom : Nat), imageSigned s.focus.n f = true → isImage f = true → sectionsOf f = [y, note] → y.type = 1 →
      y.flags % 2 = 1 → note.type = 6 → y.bytes f = [b] → s.xlateNow s.focus.n (BitVec.ofNat 64 y.addr) .rdOrX = .ok pa hint dom →
      s.verdict s.focus.n pa dom = .ok → (∀ w ∈ s.waits, w.word ≠ pa / 8) → Steps .signedImageLoad s fun t =>
        memGet t.mem pa = b ∧ t.full (pa / 8) = true ∧ SameBut s t [pa / 8]) ∧
  (∀ s : State, let f := s.focus.n
    let clear (t : State) : Prop := ∀ a, a / 65536 = f → memGet t.mem a = 0 ∧ t.full (a / 8) = true
    let free (s : State) (f : Nat) : Prop := isStack (65536 * f) = true ∧ (∀ d ∈ s.dirs, d.line / 512 ≠ f) ∧ frameChan f ∉ s.lid.downChans ∧
      ∀ x ∈ s.tenants, ∀ a ∈ x.2.arena, ¬(a.2.first ≤ 512 * f ∧ 512 * f < a.2.first + a.2.lines)
    (∀ u, s.sound = true → s.focus.m = 0 → 0 < s.focus.k → (∀ i < s.focus.k, free s (f + i)) → s.lid.stage = some 2 → frameChan f = frameChan (f + s.focus.k - 1) →
      s.lid.held = false → s.lid.log = [u] → s.lid.seals = [] → Steps .frameAssign s fun t => t.lid.ring = some (65536 * f, 65536 * s.focus.k) ∧
        (∀ i < s.focus.k, tget t.frames (f + i) (0, false) = (0, false)) ∧ t.lid.ringAt = 128 ∧ ∀ i < 128, memGet t.mem (65536 * f + i) = u.bytes.getD i 0) ∧
    (s.sound = true → free s f →
    (s.focus.m = 0 → s.focus.k = 0 → Steps .frameAssign s fun t => tget t.frames f (0, false) = (0, false) ∧ clear t) ∧
    (∀ x, s.focus.m ≠ 0 → s.ten? s.focus.m = some x → x.erased = false → s.frameOf x.part f = true → x.atLimit 1 = false → x.atLimit 2 = false →
      Steps .frameAssign s fun t => tget? t.frames f = some (s.focus.m, false) ∧ clear t))) ∧
  (∀ s : State, 0 < s.focus.n → s.focus.n < 32 → (tget? s.parts s.focus.m).isSome = true → (∀ p ∈ s.parts, p.2.svten = s.focus.n → p.1 = s.focus.m) →
    let session := s.focus.ns.zip s.focus.ms
    (s.ten? s.focus.n = none → Steps .tenantCreate s fun t => (∃ x, t.ten? s.focus.n = some x ∧ x.part = s.focus.m ∧ x.session = session) ∧
      ((∀ c, (s.core c).cache = []) → t.ten? s.focus.n = some { part := s.focus.m, session := session } ∧
        (s.sound = true → s.focus.k ≠ 1 → SameButLog s t [])) ∧
      (s.focus.k = 1 → ∃ e x, tget? s.parts s.focus.m = some e ∧ tget? t.parts s.focus.m = some x ∧ x.evcount = e.evcount + 1)) ∧
    (∀ x, s.ten? s.focus.n = some x → x.erased = true → x.part = s.focus.m → s.focus.k ≠ 1 → s.sound = true → Steps .tenantCreate s fun t => SameButLog s t [] ∧
      t.ten? s.focus.n = some { x with erased := false, session := session })) ∧
  (∀ s : State, 0 < s.focus.n → s.focus.n < 256 → tget? s.parts s.focus.n = none → 0 < s.focus.m → s.focus.m < 32 → s.ten? s.focus.m = none →
    (∀ p ∈ s.parts, p.2.svten ≠ s.focus.m) → s.focus.ns.Nodup → s.focus.ms.Nodup → wholePairs s.focus.ms = true →
    (∀ c ∈ s.focus.ns, s.coreIdle c = true ∧ s.dieUsable (coreDie c) = true ∧ coreQuad c ∉ s.lid.contained) →
    (∀ x ∈ s.focus.ms, s.sliceIdle x = true ∧ s.vaultIdle x = true ∧ s.dieUsable (x / 256) = true ∧ x ∉ s.lid.contained) →
    Steps .partitionCreate s fun t => (s.lid.events = [] → t.mem = s.mem) ∧
      tget? t.parts s.focus.n = some { cores := s.focus.ns, slices := s.focus.ms, vaults := s.focus.ms, svten := s.focus.m, evcount := s.lid.events.length } ∧
      ∀ (i c : Nat), s.focus.ns[i]? = some c → t.core c = { tag := s.focus.n, logical := i })

/-- The commands of the mailbox (R246, R248 to R250, R369 to R371, R375, R387 to R389, R397 to R401): each empties CMD and fills STATUS with
0 when it is done, or with the code of what is wrong, changing nothing else; SET and REMAP wait for a slot edge, where a remapped
core, vault or slice pair stands in its partition's table in the place of the old one. The encodings of rows and arguments are
the model's (log entries 17, 18); whether a signature verifies is left open (log entry 6). What a fill of STATUS does where nobody or a
parked load waits, MemoryWords says.
Completes: set, remapCore, remapVault, remapSlice, range, weave, policy, unfence, attest, window, diefence, diejoin, chanrecal, fwstage,
fwswitch, pair, rect, debugSetBreakpoint, debugClearBreakpoint, debugStop, debugResume, debugReadRegisters, debugWriteRegisters, trace,
ptloadLidAnswer. -/
def Obligations.LidSteps : Prop :=
  let remapped (s : State) (table p l ph : Nat) : Prop := s.focus.m = 1 ∧ s.lid.remaps[s.focus.n]? = some (p, table, l, ph) ∧ s.lid.edgeAt = some s.cycle
  let undue (s : State) : State := { s with lid := { s.lid with remaps := removeAt s.lid.remaps s.focus.n } }
  let debugs (s : State) (a c : Nat) : Prop := s.focus.m ≠ 1 ∧ Commanded s 16 ∧ (s.arg s.focus.n 1).toNat = a ∧ s.physCore s.focus.n (s.arg s.focus.n 0).toNat = some c
  (∀ s : State, let p := s.focus.n
    let row : Nat := (s.arg p 0).toNat
    let t0 : Nat := if row ≤ 1 then s.svten p else (s.arg p 1).toNat
    let v (i : Nat) : Word := s.arg p (2 + i)
    let set (u : State) : Prop := u.lid.sets = s.lid.sets ++ [(p, t0, row, [v 0, v 1, v 2])]
    (Commanded s 1 → s.holdsTenant p t0 = true → s.settingStatus p t0 row v = 0 →
      (row ≠ 4 → row ≠ 5 → Answers .set s fun u => set u ∧ u.mem = s.mem) ∧
      (row = 4 → Answers .set s set) ∧
      (row = 5 → ∃ u : State, exec .set s = .next (u.fillWord (mbox p + 8) 0) ∧ set u)) ∧
    (Commanded s 1 → s.holdsTenant p t0 = true → s.settingStatus p t0 row v ≠ 0 → Refuses .set s (s.settingStatus p t0 row v)) ∧
    (Commanded s 1 → s.holdsTenant p t0 = false → Refuses .set s 1) ∧
    (∀ o, o = 0 ∨ 17 < o → Commanded s o → Refuses .set s 4)) ∧
  (∀ (s : State) (x : Part), let p := s.focus.n
    let l : Nat := (s.arg p 1).toNat
    let ph : Nat := (s.arg p 2).toNat
    let waits (table : Nat) (u : State) : Prop := u.lid.remaps = s.lid.remaps ++ [(p, table, l, ph)] ∧ u.mem = s.mem ∧ u.parts = s.parts
    s.focus.m ≠ 1 → Commanded s 2 → tget? s.parts p = some x →
    (2 < (s.arg p 0).toNat → Refuses .remapCore s 1) ∧
    ((s.arg p 0).toNat = 0 → (x.cores.length ≤ l → Refuses .remapCore s 1) ∧
      (l < x.cores.length → (s.coreIdle ph = true → Answers .remapCore s (waits 0)) ∧ (s.coreIdle ph = false → Refuses .remapCore s 3))) ∧
    ((s.arg p 0).toNat = 2 → (x.vaults.length ≤ l → Refuses .remapVault s 1) ∧
      (l < x.vaults.length → (s.vaultIdle ph = true → Answers .remapVault s (waits 2)) ∧ (s.vaultIdle ph = false → Refuses .remapVault s 3))) ∧
    ((s.arg p 0).toNat = 1 → (x.slices.length ≤ l → Refuses .remapSlice s 1) ∧
      (l < x.slices.length → (s.pairMovable p x l ph = true → Answers .remapSlice s (waits 1)) ∧ (s.pairMovable p x l ph = false → Refuses .remapSlice s 3)))) ∧
  (∀ (s : State) (p l ph old : Nat) (x : Part), tget? s.parts p = some x →
    (remapped s 0 p l ph → x.cores[l]? = some old → (s.core old).movable = true → s.coreIdle ph = true →
      ((s.core old).contexts = [] ∨ ((undue s).moveCore p l ph).isSome = true) → Steps .remapCore s fun t =>
      (∃ y, tget? t.parts p = some y ∧ y.cores = x.cores.set l ph ∧ y.slices = x.slices ∧ y.vaults = x.vaults) ∧
      (t.core ph).tag = p ∧ (t.core ph).logical = l ∧ (t.core old).slots = [] ∧ t.lid.remaps = removeAt s.lid.remaps s.focus.n) ∧
    (remapped s 2 p l ph → x.vaults[l]? = some old → s.vaultIdle ph = true → s.sound = true → Steps .remapVault s fun t =>
      tget? t.parts p = some { x with vaults := x.vaults.set l ph } ∧ t.lid.remaps = removeAt s.lid.remaps s.focus.n ∧
      (∀ o < 0x100000, memGet t.mem (0x10000000000 + ph * 0x100000 + o) = memGet s.mem (0x10000000000 + old * 0x100000 + o) ∧
        memGet t.mem (0x10000000000 + old * 0x100000 + o) = 0)) ∧
    (remapped s 1 p l ph → s.pairMovable p x l ph = true → Steps .remapSlice s fun t => t.lid.remaps = removeAt s.lid.remaps s.focus.n ∧
      tget? t.parts p = some { x with slices := (x.slices.set (l / 2 * 2) (ph / 2 * 2)).set (l / 2 * 2 + 1) (ph / 2 * 2 + 1) })) ∧
  (∀ s : State, let p := s.focus.n
    (∀ n r, Commanded s 3 → s.rangeRequest p (s.arg p) = (0, n, r) → Steps .range s fun t => t.draining = s.draining ++ [(n, p, r, true)] ∧ t.ranges = s.ranges ∧
      t.mem = s.mem ∧ t.full (mbox p) = false ∧ (∀ d ∈ s.dirs, r.covers d.line = true → ownEv 4 d.line ∈ t.peq)) ∧
    (∀ c n r, Commanded s 3 → s.rangeRequest p (s.arg p) = (c, n, r) → c ≠ 0 → Refuses .range s c) ∧
    (∀ n r b, s.draining.find? (fun d => d.2.1 == p) = some (n, p, r, b) →
      (∀ d ∈ s.dirs, r.covers d.line = false ∧ ∀ q, tget? s.ranges n = some q → q.covers d.line = false) →
      ∃ u : State, tget? u.ranges n = (if r.size = 0 then none else some r) ∧ (∀ d ∈ u.draining, d.1 ≠ n) ∧ u.mem = s.mem ∧
        exec .range s = .next (if b then u.fillWord (mbox p + 8) 0 else u)) ∧
    (∀ n r b d, s.draining.find? (fun d => d.2.1 == p) = some (n, p, r, b) → d ∈ s.dirs → r.covers d.line = true → exec .range s = .fault .notEnabled)) ∧
  (∀ (s : State) (bs sig : List Byte), let p := s.focus.n
    let ok : Bool := Config.sigOk s.lid.opkey (sha3 bs) sig
    (Commanded s 4 → (s.objectAt p (s.arg p 0) 3138 = none → Refuses .weave s 1) ∧
      (s.objectAt p (s.arg p 0) 3138 = some (s, bs, sig) → (ok = false → Refuses .weave s 2) ∧ (ok = true → (bs.take 16384).all patOk = false → Refuses .weave s 1) ∧
        (ok = true → (bs.take 16384).all patOk = true → Answers .weave s fun u => u.lid.weaveNext = some (weaveOf bs) ∧ u.lid.weave = s.lid.weave ∧ u.mem = s.mem))) ∧
    (bs.length = 25104 → (∀ m < 256, ∀ i < 64, (tget (weaveOf bs).pats m []).getD i 0 = bs.getD (64 * m + i) 0) ∧
      (∀ c < 4096, tget (weaveOf bs).core c 0 = (bs.getD (16384 + c) 0).toNat ∧ tget (weaveOf bs).group c 0 = (bs.getD (20480 + c) 0).toNat) ∧
      ∀ i, (i < 512 → tget (weaveOf bs).chan i 0 = (bs.getD (24576 + i) 0).toNat) ∧ (i < 12 → tget (weaveOf bs).port i 0 = (bs.getD (25088 + i) 0).toNat) ∧
        (i < 2 → tget (weaveOf bs).link i 0 = (bs.getD (25100 + i) 0).toNat)) ∧
    (Commanded s 5 → (s.objectAt p (s.arg p 0) 2 = none → Refuses .policy s 1) ∧
      (s.objectAt p (s.arg p 0) 2 = some (s, bs, sig) → (ok = false → Refuses .policy s 2) ∧
        (ok = true → (∃ i < 7, (bs.getD i 0).toNat = 0 ∨ 4 < (bs.getD i 0).toNat) → Refuses .policy s 1) ∧
        (ok = true → (∀ i < 7, 1 ≤ (bs.getD i 0).toNat ∧ (bs.getD i 0).toNat ≤ 4) → Answers .policy s fun u =>
          (∀ i < 7, tget u.lid.levels i 1 = (bs.getD i 0).toNat) ∧ u.lid.opkey = (bs.drop 8).foldr (fun b a => b.toNat + 256 * a) 0 ∧ (s.sound = true → SameButLog s u []) ∧ u.lid.seq = s.lid.seq + 1))) ∧
    (∀ x, Commanded s 6 → s.objectAt p (s.arg p 0) 1 = some (s, bs, sig) → s.ten? (s.arg p 1).toNat = some x →
      let named : Prop := bs.foldr (fun b a => b.toNat + 256 * a) 0 = (s.arg p 1).toNat ∧ x.part = p
      (ok = false → Refuses .unfence s 2) ∧ (ok = true → ¬named → Refuses .unfence s 1) ∧ (ok = true → named → (x.fenced = false ∨ x.erased = true) → Refuses .unfence s 3) ∧
      (ok = true → named → x.fenced = true → x.erased = false → Answers .unfence s fun u => u.mem = s.mem ∧ u.ten? (s.arg p 1).toNat = some { x with fenced := false })) ∧
    (let staged (img : Fw) (u : State) : Prop := u.lid.imgs = s.lid.imgs.set (1 - s.lid.active) img ∧ u.lid.staged = true ∧ u.lid.active = s.lid.active ∧ u.mem = s.mem
     let kept (u : State) : Prop := u.lid.imgs = s.lid.imgs ∧ u.lid.staged = s.lid.staged ∧ u.lid.highest = max s.lid.highest (tget s.lid.levels 3 1)
     (s.focus.m ≠ 1 → Commanded s 12 → (s.fwAt p (s.arg p 0) = none → Refuses .fwstage s 1) ∧ ∀ img, s.fwAt p (s.arg p 0) = some (s, img) →
      (img.verifies = true → Answers .fwstage s (staged img)) ∧
      (img.verifies = false → ∃ u : State, exec .fwstage s = .next (u.fillWord (mbox p + 8) 2) ∧ kept u)) ∧
     (s.focus.m = 1 → s.managed = true → ∀ img, (fwFrom s.focus.bytes).1 = img →
      (img.verifies = true → Steps .fwstage s fun t => staged img t ∧ tget? t.lid.answers 4 = some (some [(0, true)])) ∧
      (img.verifies = false → Steps .fwstage s fun t => kept t ∧ tget? t.lid.answers 4 = some (some [(2, true)]))))) ∧
  (∀ s : State, s.focus.m = 1 → s.managed = true → Steps .attest s fun t => t.mem = s.mem ∧
    tget? t.lid.answers 4 = some (some ((s.report (packWords 8 s.focus.bytes)).map fun w => (w, true)))) ∧
  (∀ (s : State) (nonce : List Word) (pa : Nat), let p := s.focus.n
    let ws := s.reportWords nonce
    let all := ws ++ packWords 579 (signed (ws.flatMap wordBytes))
    s.sound = true → s.focus.m ≠ 1 → Commanded s 7 → (s.readVa (s.svten p) (s.arg p 0) 8 = none → Refuses .attest s 1) ∧
    (s.readVa (s.svten p) (s.arg p 0) 8 = some (s, nonce) → pa % 8 = 0 → pa + 8 * all.length ≤ 0x20000000000 →
      (∀ i < all.length, inVaultWindow (s.arg p 1 + BitVec.ofNat 64 (8 * i)) = true ∧
        ∃ dom, s.vaultUse (s.svten p) (s.arg p 1 + BitVec.ofNat 64 (8 * i)) = .ok (pa + 8 * i) 0 dom ∧ s.verdict (s.svten p) (pa + 8 * i) dom = .ok) →
      Answers .attest s fun u => (∀ i w, all[i]? = some w → u.word (pa / 8 + i) = w) ∧ SameBut s u ((List.range all.length).map fun i => pa / 8 + i))) ∧
  (∀ s : State, let p := s.focus.n
    let a (i : Nat) : Nat := (s.arg p i).toNat
    let legal : Prop := a 1 < (if a 0 = 0 then 2 ^ 22 else if a 0 = 1 then 512 else if a 0 = 2 then 64 else if a 0 = 3 then 4096 else 0) ∧ a 3 < 16384 ∧ a 4 % 2 ^ 30 = 0
    Commanded s 8 → (¬legal → Refuses .window s 1) ∧
    (∀ x, legal → s.ten? (a 2) = some x → x.part = p → a 2 ≠ 0 → (∀ w ∈ s.lid.windows, w.kind = a 0 → w.n ≠ a 1) →
      (tget x.counts 1 0 + windowFrames (a 0) ≤ x.limit 1 → Answers .window s fun u => (s.sound = true → SameButLog s u []) ∧
        u.lid.windows = s.lid.windows ++ [{ kind := a 0, n := a 1, ten := a 2, remote := a 3, base := s.arg p 4 }]) ∧
      (x.limit 1 < tget x.counts 1 0 + windowFrames (a 0) → Refuses .window s 3)) ∧
    (legal → a 2 = 0 → (∀ w ∈ s.lid.windows, w.kind = a 0 → w.n = a 1 → s.partOf w.ten = p) → Answers .window s fun u => u.mem = s.mem ∧
      ∀ w, w ∈ u.lid.windows ↔ w ∈ s.lid.windows ∧ ¬(w.kind = a 0 ∧ w.n = a 1))) ∧
  (∀ s : State, let p := s.focus.n
    let n : Nat := (s.arg p 0).toNat
    (Commanded s 9 → (4 ≤ n → Refuses .diefence s 1) ∧ (n < 4 → s.dieHeld n = true → Refuses .diefence s 3) ∧
      (n < 4 → s.dieHeld n = false → Answers .diefence s fun u => n ∈ u.lid.fencedDies ∧ u.mem = s.mem ∧ ∀ c k, coreDie c = n → (u.slot c k).ctx = none)) ∧
    (Commanded s 10 → (4 ≤ n → Refuses .diejoin s 1) ∧ (n < 4 → (s.dieHeld n = true ∨ n ∉ s.lid.fencedDies) → Refuses .diejoin s 3) ∧
      (n < 4 → s.dieHeld n = false → n ∈ s.lid.fencedDies → Answers .diejoin s fun u => n ∈ u.lid.joining ∧ u.lid.fencedDies = s.lid.fencedDies ∧ u.mem = s.mem)) ∧
    (Commanded s 11 → (512 ≤ n → Refuses .chanrecal s 1) ∧ (n < 512 → (s.channelFree n fun _ => false) = false → Refuses .chanrecal s 3) ∧
      (n < 512 → (s.channelFree n fun _ => false) = true → Answers .chanrecal s fun u => n ∈ u.lid.downChans ∧ u.mem = s.mem)) ∧
    (Commanded s 13 → (s.lid.staged = false → Refuses .fwswitch s 3) ∧
      (s.lid.staged = true → Answers .fwswitch s fun u => u.lid.switching = some (s.cycle / 1048576 + 1) ∧ u.lid.active = s.lid.active ∧ u.mem = s.mem)) ∧
    (Commanded s 14 → (s.physCore p n = none → Refuses .pair s 1) ∧ ∀ c, s.physCore p n = some c → (1 < (s.arg p 1).toNat → Refuses .pair s 1) ∧
      ((s.arg p 1).toNat < 2 → (s.core c).paired = false → (∃ k ∈ (s.core c).slots, 8 ≤ k.1 ∧ k.2.ctx ≠ none) → Refuses .pair s 3) ∧
      ((s.arg p 1).toNat < 2 → ((s.core c).paired = true ∨ ∀ k ∈ (s.core c).slots, 8 ≤ k.1 → k.2.ctx = none) →
        Answers .pair s fun u => (u.core c).pairNext = some (decide ((s.arg p 1).toNat = 1)) ∧ (u.core c).paired = (s.core c).paired ∧ u.mem = s.mem)) ∧
    (∀ x, Commanded s 15 → tget? s.parts p = some x → let r := (n, (s.arg p 1).toNat, (s.arg p 2).toNat, (s.arg p 3).toNat, (s.arg p 4).toNat)
      let legal : Prop := n < 4 ∧ r.2.1 + r.2.2.2.1 ≤ 16 ∧ r.2.2.1 + r.2.2.2.2 ≤ 16 ∧ (∃ q ∈ rectQuads r, q ∈ x.quadsOn n) ∧
        ∀ z ∈ x.rects, z.1 = n → ∀ q ∈ rectQuads z, q ∉ rectQuads r
      (¬legal → Refuses .rect s 1) ∧ (legal → Answers .rect s fun u => tget? u.parts p = some { x with rects := x.rects ++ [r] } ∧ u.mem = s.mem)) ∧
    (Commanded s 17 → (s.physCore p n = none → Refuses .trace s 1) ∧ ∀ c, s.physCore p n = some c →
      (s.arg p 3 = 0 → Answers .trace s fun u => (u.core c).trace = none ∧ u.mem = s.mem) ∧
      (s.arg p 3 ≠ 0 → s.holdsTenant p (s.arg p 1).toNat = false → Refuses .trace s 1) ∧
      (s.arg p 3 ≠ 0 → s.areaOk (s.svten p) (s.arg p 2) (s.arg p 3).toNat = false → Refuses .trace s 1) ∧
      (s.arg p 3 ≠ 0 → s.holdsTenant p (s.arg p 1).toNat = true → (s.arg p 2).toNat % 16 = 0 → (s.arg p 3).toNat % 16 = 0 →
        s.areaOk (s.svten p) (s.arg p 2) (s.arg p 3).toNat = true →
        Answers .trace s fun u => (u.core c).trace = some ((s.arg p 1).toNat, s.arg p 2, (s.arg p 3).toNat / 16, 0) ∧ u.mem = s.mem))) ∧
  (∀ (s : State) (c : Nat), let x := s.arg s.focus.n 2
    let k : Nat := x.toNat % 16
    let r : Nat := x.toNat / 16
    (debugs s 0 c → (x ∈ (s.core c).brks → Answers .debugSetBreakpoint s fun u => (u.core c).brks = (s.core c).brks ∧ u.mem = s.mem) ∧
      (x ∉ (s.core c).brks → (s.core c).brks.length < 4 → Answers .debugSetBreakpoint s fun u => (u.core c).brks = (s.core c).brks ++ [x] ∧ u.mem = s.mem) ∧
      (x ∉ (s.core c).brks → 4 ≤ (s.core c).brks.length → Refuses .debugSetBreakpoint s 3)) ∧
    (debugs s 1 c → Answers .debugClearBreakpoint s fun u => u.mem = s.mem ∧ ∀ z, z ∈ (u.core c).brks ↔ z ∈ (s.core c).brks ∧ z ≠ x) ∧
    (debugs s 2 c → Answers .debugStop s fun u => x.toNat ∈ (u.core c).dbgStop ∧ u.mem = s.mem) ∧
    (debugs s 3 c → Answers .debugResume s fun u => x.toNat ∉ (u.core c).dbgStop ∧ u.mem = s.mem ∧
      ∀ m y at_, Seated s c m y → y.ten = x.toNat → y.hold = .paused at_ → Seated u c m { y with hold := .run }) ∧
    (debugs s 4 c → (∀ y, (s.slot c k).ctx = some y → y.ten ∉ (s.core c).dbgStop) → Refuses .debugReadRegisters s 3) ∧
    (debugs s 5 c → (∀ y, (s.slot c k).ctx = some y → y.ten ∉ (s.core c).dbgStop) → Refuses .debugWriteRegisters s 3) ∧
    (∀ y, Seated s c k y → y.ten ∈ (s.core c).dbgStop →
      (∀ v, s.sound = true → debugs s 4 c → y.debugGet r = some v → Answers .debugReadRegisters s fun u => u.word (mbox s.focus.n + 9) = v ∧ SameBut s u [mbox s.focus.n + 9] ∧
        (u.slot c k).ctx = some y) ∧
      (debugs s 5 c → r = 89 ∨ 92 < r → Refuses .debugWriteRegisters s 1) ∧
      (debugs s 5 c → r < 93 → r ≠ 89 → Answers .debugWriteRegisters s fun u => u.mem = s.mem ∧ Seated u c k (y.debugSet r (s.arg s.focus.n 3))) ∧
      (debugs s 5 c → r < 16 → Answers .debugWriteRegisters s fun u => ∃ z, Seated u c k z ∧ z.w = y.w ∧ z.pc = y.pc ∧
        ∀ j < 16, z.greg (BitVec.ofNat 4 j) = if j = r then s.arg s.focus.n 3 else y.greg (BitVec.ofNat 4 j)))) ∧
  (∀ s : State, s.focus.m = 1 → s.focus.n < 4096 →
    Steps .debugStop s (fun t => s.focus.x.toNat ∈ (t.core s.focus.n).dbgStop ∧ t.mem = s.mem) ∧
    Steps .debugResume s (fun t => s.focus.x.toNat ∉ (t.core s.focus.n).dbgStop ∧ t.mem = s.mem) ∧
    Steps .debugClearBreakpoint s (fun t => s.focus.x ∉ (t.core s.focus.n).brks ∧ t.mem = s.mem) ∧
    Steps .debugSetBreakpoint s (fun t => ((s.core s.focus.n).brks.length < 4 → s.focus.x ∈ (t.core s.focus.n).brks) ∧ t.mem = s.mem) ∧
    (∀ y, Seated s s.focus.n (s.focus.x.toNat % 16) y → y.ten ∈ (s.core s.focus.n).dbgStop →
      (∀ v, y.debugGet (s.focus.x.toNat / 16) = some v → Steps .debugReadRegisters s fun t => t.mem = s.mem ∧ tget? t.lid.answers 3 = some (some [(v, true)])) ∧
      (s.focus.x.toNat / 16 < 93 → s.focus.x.toNat / 16 ≠ 89 → Steps .debugWriteRegisters s fun t => t.mem = s.mem ∧
        Seated t s.focus.n (s.focus.x.toNat % 16) (y.debugSet (s.focus.x.toNat / 16) s.focus.y)))) ∧
  (∀ (s : State) (tag c k p idx : Nat) (words : List Nat) (y : Ctx) (a : Act) (as : List Act), Arrives s tag (.ptload c k p idx words) → Seated s c k y →
    y.hold = .settle (a :: as) true → 6 ≤ idx →
    let m := imageFrom (words.map s.word)
    let inUse : Bool := s.ranges.any fun r => r.2.part == p && r.2.proto == idx
    ((s.imageOf p idx).map Image.words = some (words.map s.word) → Steps .ptloadLidAnswer s fun t => t.mem = s.mem ∧ t.images = s.images ∧ (t.slot c k).ctx = some { y with hold := .settle as false }) ∧
    ((s.imageOf p idx).map Image.words ≠ some (words.map s.word) →
      (m.refused (words.map s.word) inUse = none → Steps .ptloadLidAnswer s fun t => t.mem = s.mem ∧ t.imageOf p idx = some m ∧
        (t.slot c k).ctx = some { y with hold := .settle as false }) ∧
      (∀ code, m.refused (words.map s.word) inUse = some code → Steps .ptloadLidAnswer s fun t => t.mem = s.mem ∧ t.images = s.images ∧
        (t.slot c k).ctx = some { y with hold := .settle (as.map (Act.addStop ⟨17, BitVec.ofNat 64 code⟩)) false })))

/-- Words written out field by field from Tables 3.2 to 3.8 (a head is OP, TN, PM, FN; a target byte IDX, SLOT; an LSID parcel LSID, OFF),
one or two of each family, decode to the instruction they stand for. -/
def Obligations.DecodedWords : Prop :=
  let rp (a b : Option Tgt) : RP := ⟨a, b⟩
  decodeOne 0b0010000_01_10_00001 [0b00001001_00000100] 0 = .ok ⟨.sub, ⟨1, .ifTrue, 0, 0, 0, 0, [rp (some ⟨1, .a⟩) (some ⟨2, .b⟩)], 0⟩⟩ ∧
  decodeOne 0b0000010_10_00_00000 [0x8001, 0b11111111_00001110] 0 = .ok ⟨.movi, ⟨0, .always, 0x8001, 0, 0, 0, [rp (some ⟨3, .p⟩) none], 0⟩⟩ ∧
  decodeOne 0b0000010_10_00_00001 [0x5678, 0x1234] 0 = .ok ⟨.moviL, ⟨1, .always, 0x12345678, 0, 0, 0, [], 0⟩⟩ ∧
  decodeOne 0b0000111_10_11_00010 [0xFFFE, 0xFFFF] 0 = .ok ⟨.br, ⟨2, .ifFalse, 0xFFFFFFFE, 0, 0, 0, [], 0⟩⟩ ∧
  decodeOne 0b0000011_00_00_01000 [] 0x0123456789ABCDEF = .ok ⟨.movl, ⟨8, .always, 0, 0, 0, 0, [], 0x0123456789ABCDEF⟩⟩ ∧
  decodeOne 0b0011100_00_00_00110 [] 0 = .ok ⟨.cmp, ⟨6, .always, 0, 0, 0, 0, [], 0⟩⟩ ∧
  decodeOne 0b0110011_01_11_01001 [0b00010101_00010000] 0 = .ok ⟨.fcvt, ⟨9, .ifFalse, 0, 0, 0, 0, [rp (some ⟨4, .a⟩) (some ⟨5, .b⟩)], 0⟩⟩ ∧
  decodeOne 0b1000010_00_00_01001 [] 0 = .ok ⟨.vmul, ⟨9, .always, 0, 0, 0, 0, [], 0⟩⟩ ∧
  decodeOne 0b1001111_00_00_00100 [] 0 = .ok ⟨.vsin, ⟨4, .always, 0, 0, 0, 0, [], 0⟩⟩ ∧
  decodeOne 0b1100000_10_00_00100 [0b0011_111111111000, 0b11111111_00000100] 0 = .ok ⟨.ldW, ⟨4, .always, 0, 3, 0xFF8, 0, [rp (some ⟨1, .a⟩) none], 0⟩⟩ ∧
  decodeOne 0b1100011_01_00_10101 [0b0010_000000010000] 0 = .ok ⟨.strelD, ⟨21, .always, 0, 2, 0x010, 0, [], 0⟩⟩ ∧
  decodeOne 0b1100110_11_00_00010 [0b0000_000000000000, 0xFFFF, 0b00001010_11111111] 0 =
    .ok ⟨.ldfn, ⟨2, .always, 0, 0, 0, 0, [rp none none, rp none (some ⟨2, .p⟩)], 0⟩⟩ ∧
  decodeOne 0b1101000_01_00_10101 [0b0001_000000000000] 0 = .ok ⟨.amoMinS, ⟨21, .always, 0, 1, 0, 0, [], 0⟩⟩ ∧
  decodeOne 0b1110110_10_00_00000 [0b0000_000000000000, 0b0100_0011_0010_0001] 0 = .ok ⟨.send, ⟨0, .always, 0, 0, 0, 0x4321, [], 0⟩⟩ ∧
  decodeOne 0b1110100_01_00_00011 [0xC003] 0 = .ok ⟨.migr, ⟨3, .always, 0xC003, 0, 0, 0, [], 0⟩⟩ ∧
  decodeOne 0b1111001_00_00_01110 [] 0 = .ok ⟨.mmaI8, ⟨14, .always, 0, 0, 0, 0, [], 0⟩⟩ ∧
  decodeOne 0b1111011_01_00_00001 [0b0101_000000000000] 0 = .ok ⟨.ego, ⟨1, .always, 0, 5, 0, 0, [], 0⟩⟩ ∧
  decodeOne 0b1111101_01_00_00101 [0x0042] 0 = .ok ⟨.trap, ⟨5, .always, 0x0042, 0, 0, 0, [], 0⟩⟩ ∧
  decodeOne 0b1111110_00_00_10010 [] 0 = .ok ⟨.srwr, ⟨18, .always, 0, 0, 0, 0, [], 0⟩⟩ ∧
  (∀ ts, (decodeOne 0b0010000_00_01_00000 ts 0).toOption = none) ∧ (∀ ts, (decodeOne 0b1111111_00_00_00000 ts 0).toOption = none) ∧
  (∀ ts, (decodeOne 0b0010000_00_00_01001 ts 0).toOption = none)
end

