-- ==== Sys2Proof/Laws/State.lean ====
section
/-!
SUPPORT. Laws/State: what each named update leaves of each field, so that no proof unfolds a record update.
-/
namespace Sys2Proof.Machine

@[simp] theorem setCore_cycle (s : State) (c : Nat) (k : Core) : (s.setCore c k).cycle = s.cycle := rfl
@[simp] theorem setCore_fresh (s : State) (c : Nat) (k : Core) : (s.setCore c k).fresh = s.fresh := rfl
@[simp] theorem setCore_nextId (s : State) (c : Nat) (k : Core) : (s.setCore c k).nextId = s.nextId := rfl
@[simp] theorem setCore_agenda (s : State) (c : Nat) (k : Core) : (s.setCore c k).agenda = s.agenda := rfl
@[simp] theorem setCore_focus (s : State) (c : Nat) (k : Core) : (s.setCore c k).focus = s.focus := rfl
@[simp] theorem setCore_mem (s : State) (c : Nat) (k : Core) : (s.setCore c k).mem = s.mem := rfl
@[simp] theorem setCore_feFlip (s : State) (c : Nat) (k : Core) : (s.setCore c k).feFlip = s.feFlip := rfl
@[simp] theorem setCore_dirty (s : State) (c : Nat) (k : Core) : (s.setCore c k).dirty = s.dirty := rfl
@[simp] theorem setCore_frames (s : State) (c : Nat) (k : Core) : (s.setCore c k).frames = s.frames := rfl
@[simp] theorem setCore_waits (s : State) (c : Nat) (k : Core) : (s.setCore c k).waits = s.waits := rfl
@[simp] theorem setCore_dirs (s : State) (c : Nat) (k : Core) : (s.setCore c k).dirs = s.dirs := rfl
@[simp] theorem setCore_replicas (s : State) (c : Nat) (k : Core) : (s.setCore c k).replicas = s.replicas := rfl
@[simp] theorem setCore_releases (s : State) (c : Nat) (k : Core) : (s.setCore c k).releases = s.releases := rfl
@[simp] theorem setCore_widen (s : State) (c : Nat) (k : Core) : (s.setCore c k).widen = s.widen := rfl
@[simp] theorem setCore_fulls (s : State) (c : Nat) (k : Core) : (s.setCore c k).fulls = s.fulls := rfl
@[simp] theorem setCore_peq (s : State) (c : Nat) (k : Core) : (s.setCore c k).peq = s.peq := rfl
@[simp] theorem setCore_reqs (s : State) (c : Nat) (k : Core) : (s.setCore c k).reqs = s.reqs := rfl
@[simp] theorem setCore_walks (s : State) (c : Nat) (k : Core) : (s.setCore c k).walks = s.walks := rfl
@[simp] theorem setCore_ranges (s : State) (c : Nat) (k : Core) : (s.setCore c k).ranges = s.ranges := rfl
@[simp] theorem setCore_draining (s : State) (c : Nat) (k : Core) : (s.setCore c k).draining = s.draining := rfl
@[simp] theorem setCore_images (s : State) (c : Nat) (k : Core) : (s.setCore c k).images = s.images := rfl
@[simp] theorem setCore_mismatch (s : State) (c : Nat) (k : Core) : (s.setCore c k).mismatch = s.mismatch := rfl
@[simp] theorem setCore_sliceCtr (s : State) (c : Nat) (k : Core) : (s.setCore c k).sliceCtr = s.sliceCtr := rfl
@[simp] theorem setCore_parts (s : State) (c : Nat) (k : Core) : (s.setCore c k).parts = s.parts := rfl
@[simp] theorem setCore_tenants (s : State) (c : Nat) (k : Core) : (s.setCore c k).tenants = s.tenants := rfl
@[simp] theorem setCore_launches (s : State) (c : Nat) (k : Core) : (s.setCore c k).launches = s.launches := rfl
@[simp] theorem setCore_engines (s : State) (c : Nat) (k : Core) : (s.setCore c k).engines = s.engines := rfl
@[simp] theorem setCore_hoop (s : State) (c : Nat) (k : Core) : (s.setCore c k).hoop = s.hoop := rfl
@[simp] theorem setCore_lid (s : State) (c : Nat) (k : Core) : (s.setCore c k).lid = s.lid := rfl

@[simp] theorem setSlot_cycle (s : State) (c k : Nat) (x : Slot) : (s.setSlot c k x).cycle = s.cycle := rfl
@[simp] theorem setSlot_fresh (s : State) (c k : Nat) (x : Slot) : (s.setSlot c k x).fresh = s.fresh := rfl
@[simp] theorem setSlot_nextId (s : State) (c k : Nat) (x : Slot) : (s.setSlot c k x).nextId = s.nextId := rfl
@[simp] theorem setSlot_agenda (s : State) (c k : Nat) (x : Slot) : (s.setSlot c k x).agenda = s.agenda := rfl
@[simp] theorem setSlot_focus (s : State) (c k : Nat) (x : Slot) : (s.setSlot c k x).focus = s.focus := rfl
@[simp] theorem setSlot_mem (s : State) (c k : Nat) (x : Slot) : (s.setSlot c k x).mem = s.mem := rfl
@[simp] theorem setSlot_feFlip (s : State) (c k : Nat) (x : Slot) : (s.setSlot c k x).feFlip = s.feFlip := rfl
@[simp] theorem setSlot_dirty (s : State) (c k : Nat) (x : Slot) : (s.setSlot c k x).dirty = s.dirty := rfl
@[simp] theorem setSlot_frames (s : State) (c k : Nat) (x : Slot) : (s.setSlot c k x).frames = s.frames := rfl
@[simp] theorem setSlot_waits (s : State) (c k : Nat) (x : Slot) : (s.setSlot c k x).waits = s.waits := rfl
@[simp] theorem setSlot_dirs (s : State) (c k : Nat) (x : Slot) : (s.setSlot c k x).dirs = s.dirs := rfl
@[simp] theorem setSlot_replicas (s : State) (c k : Nat) (x : Slot) : (s.setSlot c k x).replicas = s.replicas := rfl
@[simp] theorem setSlot_releases (s : State) (c k : Nat) (x : Slot) : (s.setSlot c k x).releases = s.releases := rfl
@[simp] theorem setSlot_widen (s : State) (c k : Nat) (x : Slot) : (s.setSlot c k x).widen = s.widen := rfl
@[simp] theorem setSlot_fulls (s : State) (c k : Nat) (x : Slot) : (s.setSlot c k x).fulls = s.fulls := rfl
@[simp] theorem setSlot_peq (s : State) (c k : Nat) (x : Slot) : (s.setSlot c k x).peq = s.peq := rfl
@[simp] theorem setSlot_reqs (s : State) (c k : Nat) (x : Slot) : (s.setSlot c k x).reqs = s.reqs := rfl
@[simp] theorem setSlot_walks (s : State) (c k : Nat) (x : Slot) : (s.setSlot c k x).walks = s.walks := rfl
@[simp] theorem setSlot_ranges (s : State) (c k : Nat) (x : Slot) : (s.setSlot c k x).ranges = s.ranges := rfl
@[simp] theorem setSlot_draining (s : State) (c k : Nat) (x : Slot) : (s.setSlot c k x).draining = s.draining := rfl
@[simp] theorem setSlot_images (s : State) (c k : Nat) (x : Slot) : (s.setSlot c k x).images = s.images := rfl
@[simp] theorem setSlot_mismatch (s : State) (c k : Nat) (x : Slot) : (s.setSlot c k x).mismatch = s.mismatch := rfl
@[simp] theorem setSlot_sliceCtr (s : State) (c k : Nat) (x : Slot) : (s.setSlot c k x).sliceCtr = s.sliceCtr := rfl
@[simp] theorem setSlot_parts (s : State) (c k : Nat) (x : Slot) : (s.setSlot c k x).parts = s.parts := rfl
@[simp] theorem setSlot_tenants (s : State) (c k : Nat) (x : Slot) : (s.setSlot c k x).tenants = s.tenants := rfl
@[simp] theorem setSlot_launches (s : State) (c k : Nat) (x : Slot) : (s.setSlot c k x).launches = s.launches := rfl
@[simp] theorem setSlot_engines (s : State) (c k : Nat) (x : Slot) : (s.setSlot c k x).engines = s.engines := rfl
@[simp] theorem setSlot_hoop (s : State) (c k : Nat) (x : Slot) : (s.setSlot c k x).hoop = s.hoop := rfl
@[simp] theorem setSlot_lid (s : State) (c k : Nat) (x : Slot) : (s.setSlot c k x).lid = s.lid := rfl

@[simp] theorem modCore_cycle (s : State) (c : Nat) (f : Core → Core) : (s.modCore c f).cycle = s.cycle := rfl
@[simp] theorem modCore_fresh (s : State) (c : Nat) (f : Core → Core) : (s.modCore c f).fresh = s.fresh := rfl
@[simp] theorem modCore_nextId (s : State) (c : Nat) (f : Core → Core) : (s.modCore c f).nextId = s.nextId := rfl
@[simp] theorem modCore_agenda (s : State) (c : Nat) (f : Core → Core) : (s.modCore c f).agenda = s.agenda := rfl
@[simp] theorem modCore_focus (s : State) (c : Nat) (f : Core → Core) : (s.modCore c f).focus = s.focus := rfl
@[simp] theorem modCore_mem (s : State) (c : Nat) (f : Core → Core) : (s.modCore c f).mem = s.mem := rfl
@[simp] theorem modCore_feFlip (s : State) (c : Nat) (f : Core → Core) : (s.modCore c f).feFlip = s.feFlip := rfl
@[simp] theorem modCore_dirty (s : State) (c : Nat) (f : Core → Core) : (s.modCore c f).dirty = s.dirty := rfl
@[simp] theorem modCore_frames (s : State) (c : Nat) (f : Core → Core) : (s.modCore c f).frames = s.frames := rfl
@[simp] theorem modCore_waits (s : State) (c : Nat) (f : Core → Core) : (s.modCore c f).waits = s.waits := rfl
@[simp] theorem modCore_dirs (s : State) (c : Nat) (f : Core → Core) : (s.modCore c f).dirs = s.dirs := rfl
@[simp] theorem modCore_replicas (s : State) (c : Nat) (f : Core → Core) : (s.modCore c f).replicas = s.replicas := rfl
@[simp] theorem modCore_releases (s : State) (c : Nat) (f : Core → Core) : (s.modCore c f).releases = s.releases := rfl
@[simp] theorem modCore_widen (s : State) (c : Nat) (f : Core → Core) : (s.modCore c f).widen = s.widen := rfl
@[simp] theorem modCore_fulls (s : State) (c : Nat) (f : Core → Core) : (s.modCore c f).fulls = s.fulls := rfl
@[simp] theorem modCore_peq (s : State) (c : Nat) (f : Core → Core) : (s.modCore c f).peq = s.peq := rfl
@[simp] theorem modCore_reqs (s : State) (c : Nat) (f : Core → Core) : (s.modCore c f).reqs = s.reqs := rfl
@[simp] theorem modCore_walks (s : State) (c : Nat) (f : Core → Core) : (s.modCore c f).walks = s.walks := rfl
@[simp] theorem modCore_ranges (s : State) (c : Nat) (f : Core → Core) : (s.modCore c f).ranges = s.ranges := rfl
@[simp] theorem modCore_draining (s : State) (c : Nat) (f : Core → Core) : (s.modCore c f).draining = s.draining := rfl
@[simp] theorem modCore_images (s : State) (c : Nat) (f : Core → Core) : (s.modCore c f).images = s.images := rfl
@[simp] theorem modCore_mismatch (s : State) (c : Nat) (f : Core → Core) : (s.modCore c f).mismatch = s.mismatch := rfl
@[simp] theorem modCore_sliceCtr (s : State) (c : Nat) (f : Core → Core) : (s.modCore c f).sliceCtr = s.sliceCtr := rfl
@[simp] theorem modCore_parts (s : State) (c : Nat) (f : Core → Core) : (s.modCore c f).parts = s.parts := rfl
@[simp] theorem modCore_tenants (s : State) (c : Nat) (f : Core → Core) : (s.modCore c f).tenants = s.tenants := rfl
@[simp] theorem modCore_launches (s : State) (c : Nat) (f : Core → Core) : (s.modCore c f).launches = s.launches := rfl
@[simp] theorem modCore_engines (s : State) (c : Nat) (f : Core → Core) : (s.modCore c f).engines = s.engines := rfl
@[simp] theorem modCore_hoop (s : State) (c : Nat) (f : Core → Core) : (s.modCore c f).hoop = s.hoop := rfl
@[simp] theorem modCore_lid (s : State) (c : Nat) (f : Core → Core) : (s.modCore c f).lid = s.lid := rfl

@[simp] theorem modCtx_cycle (s : State) (c k : Nat) (f : Ctx → Ctx) : (s.modCtx c k f).cycle = s.cycle := rfl
@[simp] theorem modCtx_fresh (s : State) (c k : Nat) (f : Ctx → Ctx) : (s.modCtx c k f).fresh = s.fresh := rfl
@[simp] theorem modCtx_nextId (s : State) (c k : Nat) (f : Ctx → Ctx) : (s.modCtx c k f).nextId = s.nextId := rfl
@[simp] theorem modCtx_agenda (s : State) (c k : Nat) (f : Ctx → Ctx) : (s.modCtx c k f).agenda = s.agenda := rfl
@[simp] theorem modCtx_focus (s : State) (c k : Nat) (f : Ctx → Ctx) : (s.modCtx c k f).focus = s.focus := rfl
@[simp] theorem modCtx_mem (s : State) (c k : Nat) (f : Ctx → Ctx) : (s.modCtx c k f).mem = s.mem := rfl
@[simp] theorem modCtx_feFlip (s : State) (c k : Nat) (f : Ctx → Ctx) : (s.modCtx c k f).feFlip = s.feFlip := rfl
@[simp] theorem modCtx_dirty (s : State) (c k : Nat) (f : Ctx → Ctx) : (s.modCtx c k f).dirty = s.dirty := rfl
@[simp] theorem modCtx_frames (s : State) (c k : Nat) (f : Ctx → Ctx) : (s.modCtx c k f).frames = s.frames := rfl
@[simp] theorem modCtx_waits (s : State) (c k : Nat) (f : Ctx → Ctx) : (s.modCtx c k f).waits = s.waits := rfl
@[simp] theorem modCtx_dirs (s : State) (c k : Nat) (f : Ctx → Ctx) : (s.modCtx c k f).dirs = s.dirs := rfl
@[simp] theorem modCtx_replicas (s : State) (c k : Nat) (f : Ctx → Ctx) : (s.modCtx c k f).replicas = s.replicas := rfl
@[simp] theorem modCtx_releases (s : State) (c k : Nat) (f : Ctx → Ctx) : (s.modCtx c k f).releases = s.releases := rfl
@[simp] theorem modCtx_widen (s : State) (c k : Nat) (f : Ctx → Ctx) : (s.modCtx c k f).widen = s.widen := rfl
@[simp] theorem modCtx_fulls (s : State) (c k : Nat) (f : Ctx → Ctx) : (s.modCtx c k f).fulls = s.fulls := rfl
@[simp] theorem modCtx_peq (s : State) (c k : Nat) (f : Ctx → Ctx) : (s.modCtx c k f).peq = s.peq := rfl
@[simp] theorem modCtx_reqs (s : State) (c k : Nat) (f : Ctx → Ctx) : (s.modCtx c k f).reqs = s.reqs := rfl
@[simp] theorem modCtx_walks (s : State) (c k : Nat) (f : Ctx → Ctx) : (s.modCtx c k f).walks = s.walks := rfl
@[simp] theorem modCtx_ranges (s : State) (c k : Nat) (f : Ctx → Ctx) : (s.modCtx c k f).ranges = s.ranges := rfl
@[simp] theorem modCtx_draining (s : State) (c k : Nat) (f : Ctx → Ctx) : (s.modCtx c k f).draining = s.draining := rfl
@[simp] theorem modCtx_images (s : State) (c k : Nat) (f : Ctx → Ctx) : (s.modCtx c k f).images = s.images := rfl
@[simp] theorem modCtx_mismatch (s : State) (c k : Nat) (f : Ctx → Ctx) : (s.modCtx c k f).mismatch = s.mismatch := rfl
@[simp] theorem modCtx_sliceCtr (s : State) (c k : Nat) (f : Ctx → Ctx) : (s.modCtx c k f).sliceCtr = s.sliceCtr := rfl
@[simp] theorem modCtx_parts (s : State) (c k : Nat) (f : Ctx → Ctx) : (s.modCtx c k f).parts = s.parts := rfl
@[simp] theorem modCtx_tenants (s : State) (c k : Nat) (f : Ctx → Ctx) : (s.modCtx c k f).tenants = s.tenants := rfl
@[simp] theorem modCtx_launches (s : State) (c k : Nat) (f : Ctx → Ctx) : (s.modCtx c k f).launches = s.launches := rfl
@[simp] theorem modCtx_engines (s : State) (c k : Nat) (f : Ctx → Ctx) : (s.modCtx c k f).engines = s.engines := rfl
@[simp] theorem modCtx_hoop (s : State) (c k : Nat) (f : Ctx → Ctx) : (s.modCtx c k f).hoop = s.hoop := rfl
@[simp] theorem modCtx_lid (s : State) (c k : Nat) (f : Ctx → Ctx) : (s.modCtx c k f).lid = s.lid := rfl

@[simp] theorem modBlk_cycle (s : State) (c k : Nat) (f : Block → Block) : (s.modBlk c k f).cycle = s.cycle := rfl
@[simp] theorem modBlk_fresh (s : State) (c k : Nat) (f : Block → Block) : (s.modBlk c k f).fresh = s.fresh := rfl
@[simp] theorem modBlk_nextId (s : State) (c k : Nat) (f : Block → Block) : (s.modBlk c k f).nextId = s.nextId := rfl
@[simp] theorem modBlk_agenda (s : State) (c k : Nat) (f : Block → Block) : (s.modBlk c k f).agenda = s.agenda := rfl
@[simp] theorem modBlk_focus (s : State) (c k : Nat) (f : Block → Block) : (s.modBlk c k f).focus = s.focus := rfl
@[simp] theorem modBlk_mem (s : State) (c k : Nat) (f : Block → Block) : (s.modBlk c k f).mem = s.mem := rfl
@[simp] theorem modBlk_feFlip (s : State) (c k : Nat) (f : Block → Block) : (s.modBlk c k f).feFlip = s.feFlip := rfl
@[simp] theorem modBlk_dirty (s : State) (c k : Nat) (f : Block → Block) : (s.modBlk c k f).dirty = s.dirty := rfl
@[simp] theorem modBlk_frames (s : State) (c k : Nat) (f : Block → Block) : (s.modBlk c k f).frames = s.frames := rfl
@[simp] theorem modBlk_waits (s : State) (c k : Nat) (f : Block → Block) : (s.modBlk c k f).waits = s.waits := rfl
@[simp] theorem modBlk_dirs (s : State) (c k : Nat) (f : Block → Block) : (s.modBlk c k f).dirs = s.dirs := rfl
@[simp] theorem modBlk_replicas (s : State) (c k : Nat) (f : Block → Block) : (s.modBlk c k f).replicas = s.replicas := rfl
@[simp] theorem modBlk_releases (s : State) (c k : Nat) (f : Block → Block) : (s.modBlk c k f).releases = s.releases := rfl
@[simp] theorem modBlk_widen (s : State) (c k : Nat) (f : Block → Block) : (s.modBlk c k f).widen = s.widen := rfl
@[simp] theorem modBlk_fulls (s : State) (c k : Nat) (f : Block → Block) : (s.modBlk c k f).fulls = s.fulls := rfl
@[simp] theorem modBlk_peq (s : State) (c k : Nat) (f : Block → Block) : (s.modBlk c k f).peq = s.peq := rfl
@[simp] theorem modBlk_reqs (s : State) (c k : Nat) (f : Block → Block) : (s.modBlk c k f).reqs = s.reqs := rfl
@[simp] theorem modBlk_walks (s : State) (c k : Nat) (f : Block → Block) : (s.modBlk c k f).walks = s.walks := rfl
@[simp] theorem modBlk_ranges (s : State) (c k : Nat) (f : Block → Block) : (s.modBlk c k f).ranges = s.ranges := rfl
@[simp] theorem modBlk_draining (s : State) (c k : Nat) (f : Block → Block) : (s.modBlk c k f).draining = s.draining := rfl
@[simp] theorem modBlk_images (s : State) (c k : Nat) (f : Block → Block) : (s.modBlk c k f).images = s.images := rfl
@[simp] theorem modBlk_mismatch (s : State) (c k : Nat) (f : Block → Block) : (s.modBlk c k f).mismatch = s.mismatch := rfl
@[simp] theorem modBlk_sliceCtr (s : State) (c k : Nat) (f : Block → Block) : (s.modBlk c k f).sliceCtr = s.sliceCtr := rfl
@[simp] theorem modBlk_parts (s : State) (c k : Nat) (f : Block → Block) : (s.modBlk c k f).parts = s.parts := rfl
@[simp] theorem modBlk_tenants (s : State) (c k : Nat) (f : Block → Block) : (s.modBlk c k f).tenants = s.tenants := rfl
@[simp] theorem modBlk_launches (s : State) (c k : Nat) (f : Block → Block) : (s.modBlk c k f).launches = s.launches := rfl
@[simp] theorem modBlk_engines (s : State) (c k : Nat) (f : Block → Block) : (s.modBlk c k f).engines = s.engines := rfl
@[simp] theorem modBlk_hoop (s : State) (c k : Nat) (f : Block → Block) : (s.modBlk c k f).hoop = s.hoop := rfl
@[simp] theorem modBlk_lid (s : State) (c k : Nat) (f : Block → Block) : (s.modBlk c k f).lid = s.lid := rfl

@[simp] theorem result_cycle (s : State) (h : Here) (p t : Tok) (n : Nat) : (s.result h p t n).cycle = s.cycle := rfl
@[simp] theorem result_fresh (s : State) (h : Here) (p t : Tok) (n : Nat) : (s.result h p t n).fresh = s.fresh := rfl
@[simp] theorem result_nextId (s : State) (h : Here) (p t : Tok) (n : Nat) : (s.result h p t n).nextId = s.nextId := rfl
@[simp] theorem result_agenda (s : State) (h : Here) (p t : Tok) (n : Nat) : (s.result h p t n).agenda = s.agenda := rfl
@[simp] theorem result_focus (s : State) (h : Here) (p t : Tok) (n : Nat) : (s.result h p t n).focus = s.focus := rfl
@[simp] theorem result_mem (s : State) (h : Here) (p t : Tok) (n : Nat) : (s.result h p t n).mem = s.mem := rfl
@[simp] theorem result_feFlip (s : State) (h : Here) (p t : Tok) (n : Nat) : (s.result h p t n).feFlip = s.feFlip := rfl
@[simp] theorem result_dirty (s : State) (h : Here) (p t : Tok) (n : Nat) : (s.result h p t n).dirty = s.dirty := rfl
@[simp] theorem result_frames (s : State) (h : Here) (p t : Tok) (n : Nat) : (s.result h p t n).frames = s.frames := rfl
@[simp] theorem result_waits (s : State) (h : Here) (p t : Tok) (n : Nat) : (s.result h p t n).waits = s.waits := rfl
@[simp] theorem result_dirs (s : State) (h : Here) (p t : Tok) (n : Nat) : (s.result h p t n).dirs = s.dirs := rfl
@[simp] theorem result_replicas (s : State) (h : Here) (p t : Tok) (n : Nat) : (s.result h p t n).replicas = s.replicas := rfl
@[simp] theorem result_releases (s : State) (h : Here) (p t : Tok) (n : Nat) : (s.result h p t n).releases = s.releases := rfl
@[simp] theorem result_widen (s : State) (h : Here) (p t : Tok) (n : Nat) : (s.result h p t n).widen = s.widen := rfl
@[simp] theorem result_fulls (s : State) (h : Here) (p t : Tok) (n : Nat) : (s.result h p t n).fulls = s.fulls := rfl
@[simp] theorem result_peq (s : State) (h : Here) (p t : Tok) (n : Nat) : (s.result h p t n).peq = s.peq := rfl
@[simp] theorem result_reqs (s : State) (h : Here) (p t : Tok) (n : Nat) : (s.result h p t n).reqs = s.reqs := rfl
@[simp] theorem result_walks (s : State) (h : Here) (p t : Tok) (n : Nat) : (s.result h p t n).walks = s.walks := rfl
@[simp] theorem result_ranges (s : State) (h : Here) (p t : Tok) (n : Nat) : (s.result h p t n).ranges = s.ranges := rfl
@[simp] theorem result_draining (s : State) (h : Here) (p t : Tok) (n : Nat) : (s.result h p t n).draining = s.draining := rfl
@[simp] theorem result_images (s : State) (h : Here) (p t : Tok) (n : Nat) : (s.result h p t n).images = s.images := rfl
@[simp] theorem result_mismatch (s : State) (h : Here) (p t : Tok) (n : Nat) : (s.result h p t n).mismatch = s.mismatch := rfl
@[simp] theorem result_sliceCtr (s : State) (h : Here) (p t : Tok) (n : Nat) : (s.result h p t n).sliceCtr = s.sliceCtr := rfl
@[simp] theorem result_parts (s : State) (h : Here) (p t : Tok) (n : Nat) : (s.result h p t n).parts = s.parts := rfl
@[simp] theorem result_tenants (s : State) (h : Here) (p t : Tok) (n : Nat) : (s.result h p t n).tenants = s.tenants := rfl
@[simp] theorem result_launches (s : State) (h : Here) (p t : Tok) (n : Nat) : (s.result h p t n).launches = s.launches := rfl
@[simp] theorem result_engines (s : State) (h : Here) (p t : Tok) (n : Nat) : (s.result h p t n).engines = s.engines := rfl
@[simp] theorem result_hoop (s : State) (h : Here) (p t : Tok) (n : Nat) : (s.result h p t n).hoop = s.hoop := rfl
@[simp] theorem result_lid (s : State) (h : Here) (p t : Tok) (n : Nat) : (s.result h p t n).lid = s.lid := rfl

@[simp] theorem act_cycle (s : State) (h : Here) (a : Act) : (s.act h a).cycle = s.cycle := rfl
@[simp] theorem act_fresh (s : State) (h : Here) (a : Act) : (s.act h a).fresh = s.fresh := rfl
@[simp] theorem act_nextId (s : State) (h : Here) (a : Act) : (s.act h a).nextId = s.nextId := rfl
@[simp] theorem act_agenda (s : State) (h : Here) (a : Act) : (s.act h a).agenda = s.agenda := rfl
@[simp] theorem act_focus (s : State) (h : Here) (a : Act) : (s.act h a).focus = s.focus := rfl
@[simp] theorem act_mem (s : State) (h : Here) (a : Act) : (s.act h a).mem = s.mem := rfl
@[simp] theorem act_feFlip (s : State) (h : Here) (a : Act) : (s.act h a).feFlip = s.feFlip := rfl
@[simp] theorem act_dirty (s : State) (h : Here) (a : Act) : (s.act h a).dirty = s.dirty := rfl
@[simp] theorem act_frames (s : State) (h : Here) (a : Act) : (s.act h a).frames = s.frames := rfl
@[simp] theorem act_waits (s : State) (h : Here) (a : Act) : (s.act h a).waits = s.waits := rfl
@[simp] theorem act_dirs (s : State) (h : Here) (a : Act) : (s.act h a).dirs = s.dirs := rfl
@[simp] theorem act_replicas (s : State) (h : Here) (a : Act) : (s.act h a).replicas = s.replicas := rfl
@[simp] theorem act_releases (s : State) (h : Here) (a : Act) : (s.act h a).releases = s.releases := rfl
@[simp] theorem act_widen (s : State) (h : Here) (a : Act) : (s.act h a).widen = s.widen := rfl
@[simp] theorem act_fulls (s : State) (h : Here) (a : Act) : (s.act h a).fulls = s.fulls := rfl
@[simp] theorem act_peq (s : State) (h : Here) (a : Act) : (s.act h a).peq = s.peq := rfl
@[simp] theorem act_reqs (s : State) (h : Here) (a : Act) : (s.act h a).reqs = s.reqs := rfl
@[simp] theorem act_walks (s : State) (h : Here) (a : Act) : (s.act h a).walks = s.walks := rfl
@[simp] theorem act_ranges (s : State) (h : Here) (a : Act) : (s.act h a).ranges = s.ranges := rfl
@[simp] theorem act_draining (s : State) (h : Here) (a : Act) : (s.act h a).draining = s.draining := rfl
@[simp] theorem act_images (s : State) (h : Here) (a : Act) : (s.act h a).images = s.images := rfl
@[simp] theorem act_mismatch (s : State) (h : Here) (a : Act) : (s.act h a).mismatch = s.mismatch := rfl
@[simp] theorem act_sliceCtr (s : State) (h : Here) (a : Act) : (s.act h a).sliceCtr = s.sliceCtr := rfl
@[simp] theorem act_parts (s : State) (h : Here) (a : Act) : (s.act h a).parts = s.parts := rfl
@[simp] theorem act_tenants (s : State) (h : Here) (a : Act) : (s.act h a).tenants = s.tenants := rfl
@[simp] theorem act_launches (s : State) (h : Here) (a : Act) : (s.act h a).launches = s.launches := rfl
@[simp] theorem act_engines (s : State) (h : Here) (a : Act) : (s.act h a).engines = s.engines := rfl
@[simp] theorem act_hoop (s : State) (h : Here) (a : Act) : (s.act h a).hoop = s.hoop := rfl
@[simp] theorem act_lid (s : State) (h : Here) (a : Act) : (s.act h a).lid = s.lid := rfl

@[simp] theorem phase_cycle (s : State) (h : Here) (f : Entry → Entry) : (s.phase h f).cycle = s.cycle := rfl
@[simp] theorem phase_fresh (s : State) (h : Here) (f : Entry → Entry) : (s.phase h f).fresh = s.fresh := rfl
@[simp] theorem phase_nextId (s : State) (h : Here) (f : Entry → Entry) : (s.phase h f).nextId = s.nextId := rfl
@[simp] theorem phase_agenda (s : State) (h : Here) (f : Entry → Entry) : (s.phase h f).agenda = s.agenda := rfl
@[simp] theorem phase_focus (s : State) (h : Here) (f : Entry → Entry) : (s.phase h f).focus = s.focus := rfl
@[simp] theorem phase_mem (s : State) (h : Here) (f : Entry → Entry) : (s.phase h f).mem = s.mem := rfl
@[simp] theorem phase_feFlip (s : State) (h : Here) (f : Entry → Entry) : (s.phase h f).feFlip = s.feFlip := rfl
@[simp] theorem phase_dirty (s : State) (h : Here) (f : Entry → Entry) : (s.phase h f).dirty = s.dirty := rfl
@[simp] theorem phase_frames (s : State) (h : Here) (f : Entry → Entry) : (s.phase h f).frames = s.frames := rfl
@[simp] theorem phase_waits (s : State) (h : Here) (f : Entry → Entry) : (s.phase h f).waits = s.waits := rfl
@[simp] theorem phase_dirs (s : State) (h : Here) (f : Entry → Entry) : (s.phase h f).dirs = s.dirs := rfl
@[simp] theorem phase_replicas (s : State) (h : Here) (f : Entry → Entry) : (s.phase h f).replicas = s.replicas := rfl
@[simp] theorem phase_releases (s : State) (h : Here) (f : Entry → Entry) : (s.phase h f).releases = s.releases := rfl
@[simp] theorem phase_widen (s : State) (h : Here) (f : Entry → Entry) : (s.phase h f).widen = s.widen := rfl
@[simp] theorem phase_fulls (s : State) (h : Here) (f : Entry → Entry) : (s.phase h f).fulls = s.fulls := rfl
@[simp] theorem phase_peq (s : State) (h : Here) (f : Entry → Entry) : (s.phase h f).peq = s.peq := rfl
@[simp] theorem phase_reqs (s : State) (h : Here) (f : Entry → Entry) : (s.phase h f).reqs = s.reqs := rfl
@[simp] theorem phase_walks (s : State) (h : Here) (f : Entry → Entry) : (s.phase h f).walks = s.walks := rfl
@[simp] theorem phase_ranges (s : State) (h : Here) (f : Entry → Entry) : (s.phase h f).ranges = s.ranges := rfl
@[simp] theorem phase_draining (s : State) (h : Here) (f : Entry → Entry) : (s.phase h f).draining = s.draining := rfl
@[simp] theorem phase_images (s : State) (h : Here) (f : Entry → Entry) : (s.phase h f).images = s.images := rfl
@[simp] theorem phase_mismatch (s : State) (h : Here) (f : Entry → Entry) : (s.phase h f).mismatch = s.mismatch := rfl
@[simp] theorem phase_sliceCtr (s : State) (h : Here) (f : Entry → Entry) : (s.phase h f).sliceCtr = s.sliceCtr := rfl
@[simp] theorem phase_parts (s : State) (h : Here) (f : Entry → Entry) : (s.phase h f).parts = s.parts := rfl
@[simp] theorem phase_tenants (s : State) (h : Here) (f : Entry → Entry) : (s.phase h f).tenants = s.tenants := rfl
@[simp] theorem phase_launches (s : State) (h : Here) (f : Entry → Entry) : (s.phase h f).launches = s.launches := rfl
@[simp] theorem phase_engines (s : State) (h : Here) (f : Entry → Entry) : (s.phase h f).engines = s.engines := rfl
@[simp] theorem phase_hoop (s : State) (h : Here) (f : Entry → Entry) : (s.phase h f).hoop = s.hoop := rfl
@[simp] theorem phase_lid (s : State) (h : Here) (f : Entry → Entry) : (s.phase h f).lid = s.lid := rfl

@[simp] theorem putWord_cycle (s : State) (w : Nat) (v : Word) (m : Byte) : (s.putWord w v m).cycle = s.cycle := rfl
@[simp] theorem putWord_fresh (s : State) (w : Nat) (v : Word) (m : Byte) : (s.putWord w v m).fresh = s.fresh := rfl
@[simp] theorem putWord_nextId (s : State) (w : Nat) (v : Word) (m : Byte) : (s.putWord w v m).nextId = s.nextId := rfl
@[simp] theorem putWord_agenda (s : State) (w : Nat) (v : Word) (m : Byte) : (s.putWord w v m).agenda = s.agenda := rfl
@[simp] theorem putWord_focus (s : State) (w : Nat) (v : Word) (m : Byte) : (s.putWord w v m).focus = s.focus := rfl
@[simp] theorem putWord_feFlip (s : State) (w : Nat) (v : Word) (m : Byte) : (s.putWord w v m).feFlip = s.feFlip := rfl
@[simp] theorem putWord_dirty (s : State) (w : Nat) (v : Word) (m : Byte) : (s.putWord w v m).dirty = s.dirty := rfl
@[simp] theorem putWord_frames (s : State) (w : Nat) (v : Word) (m : Byte) : (s.putWord w v m).frames = s.frames := rfl
@[simp] theorem putWord_waits (s : State) (w : Nat) (v : Word) (m : Byte) : (s.putWord w v m).waits = s.waits := rfl
@[simp] theorem putWord_dirs (s : State) (w : Nat) (v : Word) (m : Byte) : (s.putWord w v m).dirs = s.dirs := rfl
@[simp] theorem putWord_replicas (s : State) (w : Nat) (v : Word) (m : Byte) : (s.putWord w v m).replicas = s.replicas := rfl
@[simp] theorem putWord_releases (s : State) (w : Nat) (v : Word) (m : Byte) : (s.putWord w v m).releases = s.releases := rfl
@[simp] theorem putWord_widen (s : State) (w : Nat) (v : Word) (m : Byte) : (s.putWord w v m).widen = s.widen := rfl
@[simp] theorem putWord_fulls (s : State) (w : Nat) (v : Word) (m : Byte) : (s.putWord w v m).fulls = s.fulls := rfl
@[simp] theorem putWord_peq (s : State) (w : Nat) (v : Word) (m : Byte) : (s.putWord w v m).peq = s.peq := rfl
@[simp] theorem putWord_reqs (s : State) (w : Nat) (v : Word) (m : Byte) : (s.putWord w v m).reqs = s.reqs := rfl
@[simp] theorem putWord_walks (s : State) (w : Nat) (v : Word) (m : Byte) : (s.putWord w v m).walks = s.walks := rfl
@[simp] theorem putWord_ranges (s : State) (w : Nat) (v : Word) (m : Byte) : (s.putWord w v m).ranges = s.ranges := rfl
@[simp] theorem putWord_draining (s : State) (w : Nat) (v : Word) (m : Byte) : (s.putWord w v m).draining = s.draining := rfl
@[simp] theorem putWord_images (s : State) (w : Nat) (v : Word) (m : Byte) : (s.putWord w v m).images = s.images := rfl
@[simp] theorem putWord_mismatch (s : State) (w : Nat) (v : Word) (m : Byte) : (s.putWord w v m).mismatch = s.mismatch := rfl
@[simp] theorem putWord_sliceCtr (s : State) (w : Nat) (v : Word) (m : Byte) : (s.putWord w v m).sliceCtr = s.sliceCtr := rfl
@[simp] theorem putWord_cores (s : State) (w : Nat) (v : Word) (m : Byte) : (s.putWord w v m).cores = s.cores := rfl
@[simp] theorem putWord_parts (s : State) (w : Nat) (v : Word) (m : Byte) : (s.putWord w v m).parts = s.parts := rfl
@[simp] theorem putWord_tenants (s : State) (w : Nat) (v : Word) (m : Byte) : (s.putWord w v m).tenants = s.tenants := rfl
@[simp] theorem putWord_launches (s : State) (w : Nat) (v : Word) (m : Byte) : (s.putWord w v m).launches = s.launches := rfl
@[simp] theorem putWord_engines (s : State) (w : Nat) (v : Word) (m : Byte) : (s.putWord w v m).engines = s.engines := rfl
@[simp] theorem putWord_hoop (s : State) (w : Nat) (v : Word) (m : Byte) : (s.putWord w v m).hoop = s.hoop := rfl
@[simp] theorem putWord_lid (s : State) (w : Nat) (v : Word) (m : Byte) : (s.putWord w v m).lid = s.lid := rfl

@[simp] theorem setFull_cycle (s : State) (w : Nat) (b : Bool) : (s.setFull w b).cycle = s.cycle := rfl
@[simp] theorem setFull_fresh (s : State) (w : Nat) (b : Bool) : (s.setFull w b).fresh = s.fresh := rfl
@[simp] theorem setFull_nextId (s : State) (w : Nat) (b : Bool) : (s.setFull w b).nextId = s.nextId := rfl
@[simp] theorem setFull_agenda (s : State) (w : Nat) (b : Bool) : (s.setFull w b).agenda = s.agenda := rfl
@[simp] theorem setFull_focus (s : State) (w : Nat) (b : Bool) : (s.setFull w b).focus = s.focus := rfl
@[simp] theorem setFull_mem (s : State) (w : Nat) (b : Bool) : (s.setFull w b).mem = s.mem := rfl
@[simp] theorem setFull_dirty (s : State) (w : Nat) (b : Bool) : (s.setFull w b).dirty = s.dirty := rfl
@[simp] theorem setFull_frames (s : State) (w : Nat) (b : Bool) : (s.setFull w b).frames = s.frames := rfl
@[simp] theorem setFull_waits (s : State) (w : Nat) (b : Bool) : (s.setFull w b).waits = s.waits := rfl
@[simp] theorem setFull_dirs (s : State) (w : Nat) (b : Bool) : (s.setFull w b).dirs = s.dirs := rfl
@[simp] theorem setFull_replicas (s : State) (w : Nat) (b : Bool) : (s.setFull w b).replicas = s.replicas := rfl
@[simp] theorem setFull_releases (s : State) (w : Nat) (b : Bool) : (s.setFull w b).releases = s.releases := rfl
@[simp] theorem setFull_widen (s : State) (w : Nat) (b : Bool) : (s.setFull w b).widen = s.widen := rfl
@[simp] theorem setFull_fulls (s : State) (w : Nat) (b : Bool) : (s.setFull w b).fulls = s.fulls := rfl
@[simp] theorem setFull_peq (s : State) (w : Nat) (b : Bool) : (s.setFull w b).peq = s.peq := rfl
@[simp] theorem setFull_reqs (s : State) (w : Nat) (b : Bool) : (s.setFull w b).reqs = s.reqs := rfl
@[simp] theorem setFull_walks (s : State) (w : Nat) (b : Bool) : (s.setFull w b).walks = s.walks := rfl
@[simp] theorem setFull_ranges (s : State) (w : Nat) (b : Bool) : (s.setFull w b).ranges = s.ranges := rfl
@[simp] theorem setFull_draining (s : State) (w : Nat) (b : Bool) : (s.setFull w b).draining = s.draining := rfl
@[simp] theorem setFull_images (s : State) (w : Nat) (b : Bool) : (s.setFull w b).images = s.images := rfl
@[simp] theorem setFull_mismatch (s : State) (w : Nat) (b : Bool) : (s.setFull w b).mismatch = s.mismatch := rfl
@[simp] theorem setFull_sliceCtr (s : State) (w : Nat) (b : Bool) : (s.setFull w b).sliceCtr = s.sliceCtr := rfl
@[simp] theorem setFull_cores (s : State) (w : Nat) (b : Bool) : (s.setFull w b).cores = s.cores := rfl
@[simp] theorem setFull_parts (s : State) (w : Nat) (b : Bool) : (s.setFull w b).parts = s.parts := rfl
@[simp] theorem setFull_tenants (s : State) (w : Nat) (b : Bool) : (s.setFull w b).tenants = s.tenants := rfl
@[simp] theorem setFull_launches (s : State) (w : Nat) (b : Bool) : (s.setFull w b).launches = s.launches := rfl
@[simp] theorem setFull_engines (s : State) (w : Nat) (b : Bool) : (s.setFull w b).engines = s.engines := rfl
@[simp] theorem setFull_hoop (s : State) (w : Nat) (b : Bool) : (s.setFull w b).hoop = s.hoop := rfl
@[simp] theorem setFull_lid (s : State) (w : Nat) (b : Bool) : (s.setFull w b).lid = s.lid := rfl

@[simp] theorem sendPkt_cycle (s : State) (n : Nat) (p : Pkt) : (s.sendPkt n p).cycle = s.cycle := rfl
@[simp] theorem sendPkt_fresh (s : State) (n : Nat) (p : Pkt) : (s.sendPkt n p).fresh = s.fresh := rfl
@[simp] theorem sendPkt_agenda (s : State) (n : Nat) (p : Pkt) : (s.sendPkt n p).agenda = s.agenda := rfl
@[simp] theorem sendPkt_focus (s : State) (n : Nat) (p : Pkt) : (s.sendPkt n p).focus = s.focus := rfl
@[simp] theorem sendPkt_mem (s : State) (n : Nat) (p : Pkt) : (s.sendPkt n p).mem = s.mem := rfl
@[simp] theorem sendPkt_feFlip (s : State) (n : Nat) (p : Pkt) : (s.sendPkt n p).feFlip = s.feFlip := rfl
@[simp] theorem sendPkt_dirty (s : State) (n : Nat) (p : Pkt) : (s.sendPkt n p).dirty = s.dirty := rfl
@[simp] theorem sendPkt_frames (s : State) (n : Nat) (p : Pkt) : (s.sendPkt n p).frames = s.frames := rfl
@[simp] theorem sendPkt_waits (s : State) (n : Nat) (p : Pkt) : (s.sendPkt n p).waits = s.waits := rfl
@[simp] theorem sendPkt_dirs (s : State) (n : Nat) (p : Pkt) : (s.sendPkt n p).dirs = s.dirs := rfl
@[simp] theorem sendPkt_replicas (s : State) (n : Nat) (p : Pkt) : (s.sendPkt n p).replicas = s.replicas := rfl
@[simp] theorem sendPkt_releases (s : State) (n : Nat) (p : Pkt) : (s.sendPkt n p).releases = s.releases := rfl
@[simp] theorem sendPkt_widen (s : State) (n : Nat) (p : Pkt) : (s.sendPkt n p).widen = s.widen := rfl
@[simp] theorem sendPkt_fulls (s : State) (n : Nat) (p : Pkt) : (s.sendPkt n p).fulls = s.fulls := rfl
@[simp] theorem sendPkt_peq (s : State) (n : Nat) (p : Pkt) : (s.sendPkt n p).peq = s.peq := rfl
@[simp] theorem sendPkt_walks (s : State) (n : Nat) (p : Pkt) : (s.sendPkt n p).walks = s.walks := rfl
@[simp] theorem sendPkt_ranges (s : State) (n : Nat) (p : Pkt) : (s.sendPkt n p).ranges = s.ranges := rfl
@[simp] theorem sendPkt_draining (s : State) (n : Nat) (p : Pkt) : (s.sendPkt n p).draining = s.draining := rfl
@[simp] theorem sendPkt_images (s : State) (n : Nat) (p : Pkt) : (s.sendPkt n p).images = s.images := rfl
@[simp] theorem sendPkt_mismatch (s : State) (n : Nat) (p : Pkt) : (s.sendPkt n p).mismatch = s.mismatch := rfl
@[simp] theorem sendPkt_sliceCtr (s : State) (n : Nat) (p : Pkt) : (s.sendPkt n p).sliceCtr = s.sliceCtr := rfl
@[simp] theorem sendPkt_cores (s : State) (n : Nat) (p : Pkt) : (s.sendPkt n p).cores = s.cores := rfl
@[simp] theorem sendPkt_parts (s : State) (n : Nat) (p : Pkt) : (s.sendPkt n p).parts = s.parts := rfl
@[simp] theorem sendPkt_tenants (s : State) (n : Nat) (p : Pkt) : (s.sendPkt n p).tenants = s.tenants := rfl
@[simp] theorem sendPkt_launches (s : State) (n : Nat) (p : Pkt) : (s.sendPkt n p).launches = s.launches := rfl
@[simp] theorem sendPkt_engines (s : State) (n : Nat) (p : Pkt) : (s.sendPkt n p).engines = s.engines := rfl
@[simp] theorem sendPkt_hoop (s : State) (n : Nat) (p : Pkt) : (s.sendPkt n p).hoop = s.hoop := rfl
@[simp] theorem sendPkt_lid (s : State) (n : Nat) (p : Pkt) : (s.sendPkt n p).lid = s.lid := rfl

@[simp] theorem dropReq_cycle (s : State) (n : Nat) : (s.dropReq n).cycle = s.cycle := rfl
@[simp] theorem dropReq_fresh (s : State) (n : Nat) : (s.dropReq n).fresh = s.fresh := rfl
@[simp] theorem dropReq_nextId (s : State) (n : Nat) : (s.dropReq n).nextId = s.nextId := rfl
@[simp] theorem dropReq_agenda (s : State) (n : Nat) : (s.dropReq n).agenda = s.agenda := rfl
@[simp] theorem dropReq_focus (s : State) (n : Nat) : (s.dropReq n).focus = s.focus := rfl
@[simp] theorem dropReq_mem (s : State) (n : Nat) : (s.dropReq n).mem = s.mem := rfl
@[simp] theorem dropReq_feFlip (s : State) (n : Nat) : (s.dropReq n).feFlip = s.feFlip := rfl
@[simp] theorem dropReq_dirty (s : State) (n : Nat) : (s.dropReq n).dirty = s.dirty := rfl
@[simp] theorem dropReq_frames (s : State) (n : Nat) : (s.dropReq n).frames = s.frames := rfl
@[simp] theorem dropReq_waits (s : State) (n : Nat) : (s.dropReq n).waits = s.waits := rfl
@[simp] theorem dropReq_dirs (s : State) (n : Nat) : (s.dropReq n).dirs = s.dirs := rfl
@[simp] theorem dropReq_replicas (s : State) (n : Nat) : (s.dropReq n).replicas = s.replicas := rfl
@[simp] theorem dropReq_releases (s : State) (n : Nat) : (s.dropReq n).releases = s.releases := rfl
@[simp] theorem dropReq_widen (s : State) (n : Nat) : (s.dropReq n).widen = s.widen := rfl
@[simp] theorem dropReq_fulls (s : State) (n : Nat) : (s.dropReq n).fulls = s.fulls := rfl
@[simp] theorem dropReq_peq (s : State) (n : Nat) : (s.dropReq n).peq = s.peq := rfl
@[simp] theorem dropReq_walks (s : State) (n : Nat) : (s.dropReq n).walks = s.walks := rfl
@[simp] theorem dropReq_ranges (s : State) (n : Nat) : (s.dropReq n).ranges = s.ranges := rfl
@[simp] theorem dropReq_draining (s : State) (n : Nat) : (s.dropReq n).draining = s.draining := rfl
@[simp] theorem dropReq_images (s : State) (n : Nat) : (s.dropReq n).images = s.images := rfl
@[simp] theorem dropReq_mismatch (s : State) (n : Nat) : (s.dropReq n).mismatch = s.mismatch := rfl
@[simp] theorem dropReq_sliceCtr (s : State) (n : Nat) : (s.dropReq n).sliceCtr = s.sliceCtr := rfl
@[simp] theorem dropReq_cores (s : State) (n : Nat) : (s.dropReq n).cores = s.cores := rfl
@[simp] theorem dropReq_parts (s : State) (n : Nat) : (s.dropReq n).parts = s.parts := rfl
@[simp] theorem dropReq_tenants (s : State) (n : Nat) : (s.dropReq n).tenants = s.tenants := rfl
@[simp] theorem dropReq_launches (s : State) (n : Nat) : (s.dropReq n).launches = s.launches := rfl
@[simp] theorem dropReq_engines (s : State) (n : Nat) : (s.dropReq n).engines = s.engines := rfl
@[simp] theorem dropReq_hoop (s : State) (n : Nat) : (s.dropReq n).hoop = s.hoop := rfl
@[simp] theorem dropReq_lid (s : State) (n : Nat) : (s.dropReq n).lid = s.lid := rfl

@[simp] theorem nack_cycle (s : State) (n d : Nat) : (s.nack n d).cycle = s.cycle := rfl
@[simp] theorem nack_fresh (s : State) (n d : Nat) : (s.nack n d).fresh = s.fresh := rfl
@[simp] theorem nack_nextId (s : State) (n d : Nat) : (s.nack n d).nextId = s.nextId := rfl
@[simp] theorem nack_agenda (s : State) (n d : Nat) : (s.nack n d).agenda = s.agenda := rfl
@[simp] theorem nack_focus (s : State) (n d : Nat) : (s.nack n d).focus = s.focus := rfl
@[simp] theorem nack_mem (s : State) (n d : Nat) : (s.nack n d).mem = s.mem := rfl
@[simp] theorem nack_feFlip (s : State) (n d : Nat) : (s.nack n d).feFlip = s.feFlip := rfl
@[simp] theorem nack_dirty (s : State) (n d : Nat) : (s.nack n d).dirty = s.dirty := rfl
@[simp] theorem nack_frames (s : State) (n d : Nat) : (s.nack n d).frames = s.frames := rfl
@[simp] theorem nack_waits (s : State) (n d : Nat) : (s.nack n d).waits = s.waits := rfl
@[simp] theorem nack_dirs (s : State) (n d : Nat) : (s.nack n d).dirs = s.dirs := rfl
@[simp] theorem nack_replicas (s : State) (n d : Nat) : (s.nack n d).replicas = s.replicas := rfl
@[simp] theorem nack_releases (s : State) (n d : Nat) : (s.nack n d).releases = s.releases := rfl
@[simp] theorem nack_widen (s : State) (n d : Nat) : (s.nack n d).widen = s.widen := rfl
@[simp] theorem nack_fulls (s : State) (n d : Nat) : (s.nack n d).fulls = s.fulls := rfl
@[simp] theorem nack_peq (s : State) (n d : Nat) : (s.nack n d).peq = s.peq := rfl
@[simp] theorem nack_walks (s : State) (n d : Nat) : (s.nack n d).walks = s.walks := rfl
@[simp] theorem nack_ranges (s : State) (n d : Nat) : (s.nack n d).ranges = s.ranges := rfl
@[simp] theorem nack_draining (s : State) (n d : Nat) : (s.nack n d).draining = s.draining := rfl
@[simp] theorem nack_images (s : State) (n d : Nat) : (s.nack n d).images = s.images := rfl
@[simp] theorem nack_mismatch (s : State) (n d : Nat) : (s.nack n d).mismatch = s.mismatch := rfl
@[simp] theorem nack_sliceCtr (s : State) (n d : Nat) : (s.nack n d).sliceCtr = s.sliceCtr := rfl
@[simp] theorem nack_cores (s : State) (n d : Nat) : (s.nack n d).cores = s.cores := rfl
@[simp] theorem nack_parts (s : State) (n d : Nat) : (s.nack n d).parts = s.parts := rfl
@[simp] theorem nack_tenants (s : State) (n d : Nat) : (s.nack n d).tenants = s.tenants := rfl
@[simp] theorem nack_launches (s : State) (n d : Nat) : (s.nack n d).launches = s.launches := rfl
@[simp] theorem nack_engines (s : State) (n d : Nat) : (s.nack n d).engines = s.engines := rfl
@[simp] theorem nack_hoop (s : State) (n d : Nat) : (s.nack n d).hoop = s.hoop := rfl
@[simp] theorem nack_lid (s : State) (n d : Nat) : (s.nack n d).lid = s.lid := rfl

/-- What putting a packet in flight adds. -/
@[simp] theorem sendPkt_reqs (s : State) (n : Nat) (p : Pkt) :
    (s.sendPkt n p).reqs = s.reqs ++ [{ id := s.nextId, tag := n, pkt := p }] := rfl
@[simp] theorem sendPkt_nextId (s : State) (n : Nat) (p : Pkt) : (s.sendPkt n p).nextId = s.nextId + 1 := rfl

/-- A context's registers after one was written. -/
@[simp] theorem Ctx.greg_setG (x : Ctx) (r : BitVec 4) (v : Word) : (x.setG r v).greg r = v := by
  simp [Ctx.greg, Ctx.setG]
theorem Ctx.greg_setG_ne (x : Ctx) (r q : BitVec 4) (v : Word) (h : q ≠ r) : (x.setG r v).greg q = x.greg q := by
  have h' : r.toNat ≠ q.toNat := fun e => h (BitVec.eq_of_toNat_eq e.symm)
  simp [Ctx.greg, Ctx.setG, Vector.getElem_set, h']
@[simp] theorem Ctx.vreg_setW (x : Ctx) (r : BitVec 3) (v : Vec) : (x.setW r v).vreg r = v := by
  simp [Ctx.vreg, Ctx.setW]
theorem Ctx.vreg_setW_ne (x : Ctx) (r q : BitVec 3) (v : Vec) (h : q ≠ r) : (x.setW r v).vreg q = x.vreg q := by
  have h' : r.toNat ≠ q.toNat := fun e => h (BitVec.eq_of_toNat_eq e.symm)
  simp [Ctx.vreg, Ctx.setW, Vector.getElem_set, h']

@[simp] theorem modTen_cycle (s : State) (n : Nat) (f : Tenant → Tenant) : (s.modTen n f).cycle = s.cycle := by
  unfold State.modTen; split <;> rfl
@[simp] theorem modTen_fresh (s : State) (n : Nat) (f : Tenant → Tenant) : (s.modTen n f).fresh = s.fresh := by
  unfold State.modTen; split <;> rfl
@[simp] theorem modTen_nextId (s : State) (n : Nat) (f : Tenant → Tenant) : (s.modTen n f).nextId = s.nextId := by
  unfold State.modTen; split <;> rfl
@[simp] theorem modTen_agenda (s : State) (n : Nat) (f : Tenant → Tenant) : (s.modTen n f).agenda = s.agenda := by
  unfold State.modTen; split <;> rfl
@[simp] theorem modTen_focus (s : State) (n : Nat) (f : Tenant → Tenant) : (s.modTen n f).focus = s.focus := by
  unfold State.modTen; split <;> rfl
@[simp] theorem modTen_mem (s : State) (n : Nat) (f : Tenant → Tenant) : (s.modTen n f).mem = s.mem := by
  unfold State.modTen; split <;> rfl
@[simp] theorem modTen_feFlip (s : State) (n : Nat) (f : Tenant → Tenant) : (s.modTen n f).feFlip = s.feFlip := by
  unfold State.modTen; split <;> rfl
@[simp] theorem modTen_dirty (s : State) (n : Nat) (f : Tenant → Tenant) : (s.modTen n f).dirty = s.dirty := by
  unfold State.modTen; split <;> rfl
@[simp] theorem modTen_frames (s : State) (n : Nat) (f : Tenant → Tenant) : (s.modTen n f).frames = s.frames := by
  unfold State.modTen; split <;> rfl
@[simp] theorem modTen_waits (s : State) (n : Nat) (f : Tenant → Tenant) : (s.modTen n f).waits = s.waits := by
  unfold State.modTen; split <;> rfl
@[simp] theorem modTen_dirs (s : State) (n : Nat) (f : Tenant → Tenant) : (s.modTen n f).dirs = s.dirs := by
  unfold State.modTen; split <;> rfl
@[simp] theorem modTen_replicas (s : State) (n : Nat) (f : Tenant → Tenant) : (s.modTen n f).replicas = s.replicas := by
  unfold State.modTen; split <;> rfl
@[simp] theorem modTen_releases (s : State) (n : Nat) (f : Tenant → Tenant) : (s.modTen n f).releases = s.releases := by
  unfold State.modTen; split <;> rfl
@[simp] theorem modTen_widen (s : State) (n : Nat) (f : Tenant → Tenant) : (s.modTen n f).widen = s.widen := by
  unfold State.modTen; split <;> rfl
@[simp] theorem modTen_fulls (s : State) (n : Nat) (f : Tenant → Tenant) : (s.modTen n f).fulls = s.fulls := by
  unfold State.modTen; split <;> rfl
@[simp] theorem modTen_peq (s : State) (n : Nat) (f : Tenant → Tenant) : (s.modTen n f).peq = s.peq := by
  unfold State.modTen; split <;> rfl
@[simp] theorem modTen_reqs (s : State) (n : Nat) (f : Tenant → Tenant) : (s.modTen n f).reqs = s.reqs := by
  unfold State.modTen; split <;> rfl
@[simp] theorem modTen_walks (s : State) (n : Nat) (f : Tenant → Tenant) : (s.modTen n f).walks = s.walks := by
  unfold State.modTen; split <;> rfl
@[simp] theorem modTen_ranges (s : State) (n : Nat) (f : Tenant → Tenant) : (s.modTen n f).ranges = s.ranges := by
  unfold State.modTen; split <;> rfl
@[simp] theorem modTen_draining (s : State) (n : Nat) (f : Tenant → Tenant) : (s.modTen n f).draining = s.draining := by
  unfold State.modTen; split <;> rfl
@[simp] theorem modTen_images (s : State) (n : Nat) (f : Tenant → Tenant) : (s.modTen n f).images = s.images := by
  unfold State.modTen; split <;> rfl
@[simp] theorem modTen_mismatch (s : State) (n : Nat) (f : Tenant → Tenant) : (s.modTen n f).mismatch = s.mismatch := by
  unfold State.modTen; split <;> rfl
@[simp] theorem modTen_sliceCtr (s : State) (n : Nat) (f : Tenant → Tenant) : (s.modTen n f).sliceCtr = s.sliceCtr := by
  unfold State.modTen; split <;> rfl
@[simp] theorem modTen_cores (s : State) (n : Nat) (f : Tenant → Tenant) : (s.modTen n f).cores = s.cores := by
  unfold State.modTen; split <;> rfl
@[simp] theorem modTen_parts (s : State) (n : Nat) (f : Tenant → Tenant) : (s.modTen n f).parts = s.parts := by
  unfold State.modTen; split <;> rfl
@[simp] theorem modTen_launches (s : State) (n : Nat) (f : Tenant → Tenant) : (s.modTen n f).launches = s.launches := by
  unfold State.modTen; split <;> rfl
@[simp] theorem modTen_engines (s : State) (n : Nat) (f : Tenant → Tenant) : (s.modTen n f).engines = s.engines := by
  unfold State.modTen; split <;> rfl
@[simp] theorem modTen_hoop (s : State) (n : Nat) (f : Tenant → Tenant) : (s.modTen n f).hoop = s.hoop := by
  unfold State.modTen; split <;> rfl
@[simp] theorem modTen_lid (s : State) (n : Nat) (f : Tenant → Tenant) : (s.modTen n f).lid = s.lid := by
  unfold State.modTen; split <;> rfl

@[simp] theorem modPart_cycle (s : State) (n : Nat) (f : Part → Part) : (s.modPart n f).cycle = s.cycle := by
  unfold State.modPart; split <;> rfl
@[simp] theorem modPart_fresh (s : State) (n : Nat) (f : Part → Part) : (s.modPart n f).fresh = s.fresh := by
  unfold State.modPart; split <;> rfl
@[simp] theorem modPart_nextId (s : State) (n : Nat) (f : Part → Part) : (s.modPart n f).nextId = s.nextId := by
  unfold State.modPart; split <;> rfl
@[simp] theorem modPart_agenda (s : State) (n : Nat) (f : Part → Part) : (s.modPart n f).agenda = s.agenda := by
  unfold State.modPart; split <;> rfl
@[simp] theorem modPart_focus (s : State) (n : Nat) (f : Part → Part) : (s.modPart n f).focus = s.focus := by
  unfold State.modPart; split <;> rfl
@[simp] theorem modPart_mem (s : State) (n : Nat) (f : Part → Part) : (s.modPart n f).mem = s.mem := by
  unfold State.modPart; split <;> rfl
@[simp] theorem modPart_feFlip (s : State) (n : Nat) (f : Part → Part) : (s.modPart n f).feFlip = s.feFlip := by
  unfold State.modPart; split <;> rfl
@[simp] theorem modPart_dirty (s : State) (n : Nat) (f : Part → Part) : (s.modPart n f).dirty = s.dirty := by
  unfold State.modPart; split <;> rfl
@[simp] theorem modPart_frames (s : State) (n : Nat) (f : Part → Part) : (s.modPart n f).frames = s.frames := by
  unfold State.modPart; split <;> rfl
@[simp] theorem modPart_waits (s : State) (n : Nat) (f : Part → Part) : (s.modPart n f).waits = s.waits := by
  unfold State.modPart; split <;> rfl
@[simp] theorem modPart_dirs (s : State) (n : Nat) (f : Part → Part) : (s.modPart n f).dirs = s.dirs := by
  unfold State.modPart; split <;> rfl
@[simp] theorem modPart_replicas (s : State) (n : Nat) (f : Part → Part) : (s.modPart n f).replicas = s.replicas := by
  unfold State.modPart; split <;> rfl
@[simp] theorem modPart_releases (s : State) (n : Nat) (f : Part → Part) : (s.modPart n f).releases = s.releases := by
  unfold State.modPart; split <;> rfl
@[simp] theorem modPart_widen (s : State) (n : Nat) (f : Part → Part) : (s.modPart n f).widen = s.widen := by
  unfold State.modPart; split <;> rfl
@[simp] theorem modPart_fulls (s : State) (n : Nat) (f : Part → Part) : (s.modPart n f).fulls = s.fulls := by
  unfold State.modPart; split <;> rfl
@[simp] theorem modPart_peq (s : State) (n : Nat) (f : Part → Part) : (s.modPart n f).peq = s.peq := by
  unfold State.modPart; split <;> rfl
@[simp] theorem modPart_reqs (s : State) (n : Nat) (f : Part → Part) : (s.modPart n f).reqs = s.reqs := by
  unfold State.modPart; split <;> rfl
@[simp] theorem modPart_walks (s : State) (n : Nat) (f : Part → Part) : (s.modPart n f).walks = s.walks := by
  unfold State.modPart; split <;> rfl
@[simp] theorem modPart_ranges (s : State) (n : Nat) (f : Part → Part) : (s.modPart n f).ranges = s.ranges := by
  unfold State.modPart; split <;> rfl
@[simp] theorem modPart_draining (s : State) (n : Nat) (f : Part → Part) : (s.modPart n f).draining = s.draining := by
  unfold State.modPart; split <;> rfl
@[simp] theorem modPart_images (s : State) (n : Nat) (f : Part → Part) : (s.modPart n f).images = s.images := by
  unfold State.modPart; split <;> rfl
@[simp] theorem modPart_mismatch (s : State) (n : Nat) (f : Part → Part) : (s.modPart n f).mismatch = s.mismatch := by
  unfold State.modPart; split <;> rfl
@[simp] theorem modPart_sliceCtr (s : State) (n : Nat) (f : Part → Part) : (s.modPart n f).sliceCtr = s.sliceCtr := by
  unfold State.modPart; split <;> rfl
@[simp] theorem modPart_cores (s : State) (n : Nat) (f : Part → Part) : (s.modPart n f).cores = s.cores := by
  unfold State.modPart; split <;> rfl
@[simp] theorem modPart_tenants (s : State) (n : Nat) (f : Part → Part) : (s.modPart n f).tenants = s.tenants := by
  unfold State.modPart; split <;> rfl
@[simp] theorem modPart_launches (s : State) (n : Nat) (f : Part → Part) : (s.modPart n f).launches = s.launches := by
  unfold State.modPart; split <;> rfl
@[simp] theorem modPart_engines (s : State) (n : Nat) (f : Part → Part) : (s.modPart n f).engines = s.engines := by
  unfold State.modPart; split <;> rfl
@[simp] theorem modPart_hoop (s : State) (n : Nat) (f : Part → Part) : (s.modPart n f).hoop = s.hoop := by
  unfold State.modPart; split <;> rfl
@[simp] theorem modPart_lid (s : State) (n : Nat) (f : Part → Part) : (s.modPart n f).lid = s.lid := by
  unfold State.modPart; split <;> rfl

end Sys2Proof.Machine
end

