-- ==== Sys2Proof/Laws/Tables.lean ====
section
/-!
SUPPORT. Laws/Tables: reading a table, a core, a slot after it was set.
-/
namespace Sys2Proof.Machine

/-- Reading a number after setting one: the new value there, the old one elsewhere. -/
theorem tget?_tset {α : Type} (t : Tab α) (m n : Nat) (x : α) :
    tget? (tset t m x) n = if n = m then some x else tget? t n := by
  induction t with
  | nil =>
    by_cases h : n = m
    · simp [tset, tget?, h]
    · simp [tset, tget?, h, Ne.symm h]
  | cons p t ih =>
    obtain ⟨k, y⟩ := p
    simp only [tset]
    split
    · by_cases h : n = m
      · simp [tget?, h]
      · simp [tget?, h, Ne.symm h]
    · split
      · next h =>
        subst h
        by_cases h : n = m
        · simp [tget?, h]
        · simp [tget?, h, Ne.symm h]
      · next h1 h2 =>
        simp only [tget?, ih]
        by_cases h : n = m
        · subst h; simp [Ne.symm h2]
        · simp [h]

@[simp] theorem tget?_tset_self {α : Type} (t : Tab α) (m : Nat) (x : α) : tget? (tset t m x) m = some x := by
  simp [tget?_tset]

/-- Reading with a default after setting a number. -/
theorem tget_tset {α : Type} (t : Tab α) (m n : Nat) (x d : α) :
    tget (tset t m x) n d = if n = m then x else tget t n d := by
  unfold tget; rw [tget?_tset]; split <;> rfl

@[simp] theorem tget_tset_self {α : Type} (t : Tab α) (m : Nat) (x d : α) : tget (tset t m x) m d = x := by
  simp [tget_tset]

/-- A core after one was replaced. -/
theorem core_setCore (s : State) (c n : Nat) (k : Core) : (s.setCore c k).core n = if n = c then k else s.core n := by
  simp [State.core, State.setCore, tget_tset]

@[simp] theorem core_setCore_self (s : State) (c : Nat) (k : Core) : (s.setCore c k).core c = k := by
  simp [core_setCore]

/-- A slot of a core after one was replaced. -/
theorem Core.slot_setSlot (q : Core) (k n : Nat) (x : Slot) : (q.setSlot k x).slot n = if n = k then x else q.slot n := by
  simp [Core.slot, Core.setSlot, tget_tset]

@[simp] theorem Core.slot_setSlot_self (q : Core) (k : Nat) (x : Slot) : (q.setSlot k x).slot k = x := by
  simp [Core.slot_setSlot]

/-- A slot after one was replaced. -/
theorem slot_setSlot (s : State) (c k d n : Nat) (x : Slot) :
    (s.setSlot c k x).slot d n = if d = c ∧ n = k then x else s.slot d n := by
  unfold State.slot State.setSlot
  rw [core_setCore]
  by_cases h : d = c
  · subst h; simp [Core.slot_setSlot]
  · simp [h]

@[simp] theorem slot_setSlot_self (s : State) (c k : Nat) (x : Slot) : (s.setSlot c k x).slot c k = x := by
  simp [slot_setSlot]

/-- A core after its own function was applied to one. -/
theorem core_modCore (s : State) (c n : Nat) (f : Core → Core) :
    (s.modCore c f).core n = if n = c then f (s.core c) else s.core n := core_setCore s c n _

/-- Changing a core in a way that keeps its slots keeps every slot. -/
theorem slot_modCore (s : State) (c d n : Nat) (f : Core → Core) (hf : ∀ q : Core, (f q).slots = q.slots) :
    (s.modCore c f).slot d n = s.slot d n := by
  unfold State.slot
  rw [core_modCore]
  split
  · next h => subst h; simp [Core.slot, hf]
  · rfl

/-- The slots after one block was changed. -/
theorem slot_modBlk (s : State) (c k d n : Nat) (f : Block → Block) :
    (s.modBlk c k f).slot d n =
      if d = c ∧ n = k then { s.slot c k with blk := (s.slot c k).blk.map f } else s.slot d n := by
  simp only [State.modBlk, slot_setSlot]

/-- The slots after one context was changed. -/
theorem slot_modCtx (s : State) (c k d n : Nat) (f : Ctx → Ctx) :
    (s.modCtx c k f).slot d n =
      if d = c ∧ n = k then { s.slot c k with ctx := (s.slot c k).ctx.map f } else s.slot d n := by
  simp only [State.modCtx, slot_setSlot]

/-- A tenant after one was changed. -/
theorem ten?_modTen (s : State) (t n : Nat) (f : Tenant → Tenant) :
    (s.modTen t f).ten? n = if n = t then (s.ten? t).map f else s.ten? n := by
  unfold State.modTen State.ten?
  split
  · next x h => simp only [tget?_tset, h]; split <;> simp
  · next h => split
              · next e => subst e; simp [h]
              · rfl

end Sys2Proof.Machine
end

