-- ==== Sys2Proof/Laws/Fire.lean ====
section
/-!
SUPPORT. Laws/Fire: what the firing of an instruction is (R17, R36), and what its issue leaves unchanged.
-/
namespace Sys2Proof.Machine

/-- An instruction that stands at the focus, may fire and meets its form's condition issues and has its effect. -/
theorem fires_next (s : State) (h : Here) (row : Instr) (ok : Here → State → Bool) (f : Here → State → State)
    (h1 : s.here = some h) (h2 : h.e.insn.row = row) (h3 : s.mayFire h = true) (h4 : ok h s = true) :
    s.fires row ok f = .next (f h (s.issue h)) := by
  simp [State.fires, h1, h2, h3, h4]

/-- Nothing else fires: a next state comes from such an instruction. -/
theorem fires_inv (s t : State) (row : Instr) (ok : Here → State → Bool) (f : Here → State → State)
    (hn : s.fires row ok f = .next t) :
    ∃ h, s.here = some h ∧ h.e.insn.row = row ∧ s.mayFire h = true ∧ ok h s = true ∧ t = f h (s.issue h) := by
  unfold State.fires at hn
  split at hn
  · cases hn
  · next h hh =>
    split at hn
    · next hc =>
      simp only [Bool.and_eq_true, decide_eq_true_eq] at hc
      cases hn
      exact ⟨h, hh, hc.1.1, hc.1.2, hc.2, rfl⟩
    · cases hn

/-- A firing never refuses, and faults only as a step that is not enabled. -/
theorem fires_fault (s : State) (row : Instr) (ok : Here → State → Bool) (f : Here → State → State) :
    (∃ t, s.fires row ok f = .next t) ∨ s.fires row ok f = .fault .notEnabled := by
  unfold State.fires
  split
  · exact .inr rfl
  · split
    · exact .inl ⟨_, rfl⟩
    · exact .inr rfl

/-- Adding to a rate quota only counts. -/
theorem quotaAdd_rate (s : State) (t q d : Nat) (hq : rateQuota q = true) :
    s.quotaAdd t q d = s.modTen t fun x => { x with
      counts := tset x.counts q (tget x.counts q 0 + d),
      peaks := tset x.peaks q (max (tget x.counts q 0 + d) (tget x.peaks q 0)) } := by
  unfold State.quotaAdd
  split
  · next hn => unfold State.modTen; unfold State.ten? at hn; rw [hn]
  · next x hx =>
    simp only [hq]
    unfold State.modTen
    unfold State.ten? at hx
    simp [hx]

/-- The issue of an instruction: nothing, or the core's part and perhaps one issue cycle of the block (R35, R36). -/
theorem issue_cases (s : State) (h : Here) :
    s.issue h = s ∨ ∃ w : Core → Tab Nat,
      let t := s.modCore h.c fun k => { k with s := h.k, issuedAt := some s.cycle, ctr := tadd k.ctr 0x100 1, winIssue := w k }
      s.issue h = t ∨ s.issue h = t.modBlk h.c h.k fun b => { b with issues := b.issues + 1 } := by
  unfold State.issue
  split
  · right
    exact ⟨fun k => tadd k.winIssue (if h.x.drain then 32 else h.ten) 1, (ite_eq_or_eq _ _ _).symm⟩
  · exact .inl rfl

/-- An issue changes nothing but its core. -/
theorem issue_eq (s : State) (h : Here) : ∃ cs, s.issue h = { s with cores := cs } := by
  rcases issue_cases s h with e | ⟨w, e | e⟩ <;> rw [e]
  exacts [⟨_, rfl⟩, ⟨_, rfl⟩, ⟨_, rfl⟩]

@[simp] theorem issue_cycle (s : State) (h : Here) : (s.issue h).cycle = s.cycle := by
  obtain ⟨_, e⟩ := issue_eq s h; rw [e]
@[simp] theorem issue_fresh (s : State) (h : Here) : (s.issue h).fresh = s.fresh := by
  obtain ⟨_, e⟩ := issue_eq s h; rw [e]
@[simp] theorem issue_nextId (s : State) (h : Here) : (s.issue h).nextId = s.nextId := by
  obtain ⟨_, e⟩ := issue_eq s h; rw [e]
@[simp] theorem issue_agenda (s : State) (h : Here) : (s.issue h).agenda = s.agenda := by
  obtain ⟨_, e⟩ := issue_eq s h; rw [e]
@[simp] theorem issue_focus (s : State) (h : Here) : (s.issue h).focus = s.focus := by
  obtain ⟨_, e⟩ := issue_eq s h; rw [e]
@[simp] theorem issue_mem (s : State) (h : Here) : (s.issue h).mem = s.mem := by
  obtain ⟨_, e⟩ := issue_eq s h; rw [e]
@[simp] theorem issue_feFlip (s : State) (h : Here) : (s.issue h).feFlip = s.feFlip := by
  obtain ⟨_, e⟩ := issue_eq s h; rw [e]
@[simp] theorem issue_dirty (s : State) (h : Here) : (s.issue h).dirty = s.dirty := by
  obtain ⟨_, e⟩ := issue_eq s h; rw [e]
@[simp] theorem issue_frames (s : State) (h : Here) : (s.issue h).frames = s.frames := by
  obtain ⟨_, e⟩ := issue_eq s h; rw [e]
@[simp] theorem issue_waits (s : State) (h : Here) : (s.issue h).waits = s.waits := by
  obtain ⟨_, e⟩ := issue_eq s h; rw [e]
@[simp] theorem issue_dirs (s : State) (h : Here) : (s.issue h).dirs = s.dirs := by
  obtain ⟨_, e⟩ := issue_eq s h; rw [e]
@[simp] theorem issue_replicas (s : State) (h : Here) : (s.issue h).replicas = s.replicas := by
  obtain ⟨_, e⟩ := issue_eq s h; rw [e]
@[simp] theorem issue_releases (s : State) (h : Here) : (s.issue h).releases = s.releases := by
  obtain ⟨_, e⟩ := issue_eq s h; rw [e]
@[simp] theorem issue_widen (s : State) (h : Here) : (s.issue h).widen = s.widen := by
  obtain ⟨_, e⟩ := issue_eq s h; rw [e]
@[simp] theorem issue_fulls (s : State) (h : Here) : (s.issue h).fulls = s.fulls := by
  obtain ⟨_, e⟩ := issue_eq s h; rw [e]
@[simp] theorem issue_peq (s : State) (h : Here) : (s.issue h).peq = s.peq := by
  obtain ⟨_, e⟩ := issue_eq s h; rw [e]
@[simp] theorem issue_reqs (s : State) (h : Here) : (s.issue h).reqs = s.reqs := by
  obtain ⟨_, e⟩ := issue_eq s h; rw [e]
@[simp] theorem issue_walks (s : State) (h : Here) : (s.issue h).walks = s.walks := by
  obtain ⟨_, e⟩ := issue_eq s h; rw [e]
@[simp] theorem issue_ranges (s : State) (h : Here) : (s.issue h).ranges = s.ranges := by
  obtain ⟨_, e⟩ := issue_eq s h; rw [e]
@[simp] theorem issue_draining (s : State) (h : Here) : (s.issue h).draining = s.draining := by
  obtain ⟨_, e⟩ := issue_eq s h; rw [e]
@[simp] theorem issue_images (s : State) (h : Here) : (s.issue h).images = s.images := by
  obtain ⟨_, e⟩ := issue_eq s h; rw [e]
@[simp] theorem issue_mismatch (s : State) (h : Here) : (s.issue h).mismatch = s.mismatch := by
  obtain ⟨_, e⟩ := issue_eq s h; rw [e]
@[simp] theorem issue_sliceCtr (s : State) (h : Here) : (s.issue h).sliceCtr = s.sliceCtr := by
  obtain ⟨_, e⟩ := issue_eq s h; rw [e]
@[simp] theorem issue_parts (s : State) (h : Here) : (s.issue h).parts = s.parts := by
  obtain ⟨_, e⟩ := issue_eq s h; rw [e]
@[simp] theorem issue_tenants (s : State) (h : Here) : (s.issue h).tenants = s.tenants := by
  obtain ⟨_, e⟩ := issue_eq s h; rw [e]
@[simp] theorem issue_launches (s : State) (h : Here) : (s.issue h).launches = s.launches := by
  obtain ⟨_, e⟩ := issue_eq s h; rw [e]
@[simp] theorem issue_engines (s : State) (h : Here) : (s.issue h).engines = s.engines := by
  obtain ⟨_, e⟩ := issue_eq s h; rw [e]
@[simp] theorem issue_hoop (s : State) (h : Here) : (s.issue h).hoop = s.hoop := by
  obtain ⟨_, e⟩ := issue_eq s h; rw [e]
@[simp] theorem issue_lid (s : State) (h : Here) : (s.issue h).lid = s.lid := by
  obtain ⟨_, e⟩ := issue_eq s h; rw [e]

/-- What an issue changes of a core outside its slots: the search pointer, the clk of the last issue, the issue count and the power
window. -/
theorem core_issue (s : State) (h : Here) (c : Nat) :
    ∃ sl sp at_ ctr w, (s.issue h).core c = { s.core c with slots := sl, s := sp, issuedAt := at_, ctr := ctr, winIssue := w } := by
  rcases issue_cases s h with e | ⟨w, e | e⟩ <;> rw [e]
  · exact ⟨_, _, _, _, _, rfl⟩
  · rw [core_modCore]
    split
    · next hc => subst hc; exact ⟨_, _, _, _, _, rfl⟩
    · exact ⟨_, _, _, _, _, rfl⟩
  · unfold State.modBlk State.setSlot
    rw [core_setCore]
    split
    · next hc => subst hc; rw [core_modCore, if_pos rfl]; exact ⟨_, _, _, _, _, rfl⟩
    · next hc => rw [core_modCore, if_neg hc]; exact ⟨_, _, _, _, _, rfl⟩

/-- An issue keeps every slot, but for the count of issue cycles of the block in its own. -/
theorem slot_issue (s : State) (h : Here) (c k : Nat) :
    ∃ f : Block → Nat, (s.issue h).slot c k = { s.slot c k with blk := (s.slot c k).blk.map fun b => { b with issues := f b } } := by
  have id_ : s.slot c k = { s.slot c k with blk := (s.slot c k).blk.map fun b => { b with issues := b.issues } } := by
    cases s.slot c k with | mk _ b => cases b <;> rfl
  have key : ∀ f : Core → Core, (∀ q : Core, (f q).slots = q.slots) → (s.modCore h.c f).slot c k = s.slot c k := slot_modCore s h.c c k
  rcases issue_cases s h with e | ⟨w, e | e⟩ <;> rw [e]
  · exact ⟨Block.issues, id_⟩
  · rw [key]
    · exact ⟨Block.issues, id_⟩
    · intro q; rfl
  · rw [slot_modBlk]
    split
    · next hc =>
      obtain ⟨rfl, rfl⟩ := hc
      rw [key]
      · exact ⟨fun b => b.issues + 1, rfl⟩
      · intro q; rfl
    · rw [key]
      · exact ⟨Block.issues, id_⟩
      · intro q; rfl

@[simp] theorem ctx_issue (s : State) (h : Here) (c k : Nat) : ((s.issue h).slot c k).ctx = (s.slot c k).ctx := by
  obtain ⟨_, e⟩ := slot_issue s h c k; rw [e]

@[simp] theorem ten?_issue (s : State) (h : Here) (t : Nat) : (s.issue h).ten? t = s.ten? t := by
  simp [State.ten?]

@[simp] theorem partOf_issue (s : State) (h : Here) (t : Nat) : (s.issue h).partOf t = s.partOf t := by
  simp [State.partOf]

@[simp] theorem svten_issue (s : State) (h : Here) (p : Nat) : (s.issue h).svten p = s.svten p := by
  simp [State.svten]

@[simp] theorem privileged_issue (s : State) (h : Here) (t : Nat) : (s.issue h).privileged t = s.privileged t := by
  simp [State.privileged]

@[simp] theorem walk_issue (s : State) (h : Here) (t : Nat) (va : Word) : (s.issue h).walk t va = s.walk t va := by
  simp [State.walk]

@[simp] theorem homeFenced_issue (s : State) (h : Here) (pa : Nat) : (s.issue h).homeFenced pa = s.homeFenced pa := by
  simp [State.homeFenced]

@[simp] theorem reach_issue (s : State) (h : Here) (pa x d : Nat) : (s.issue h).reach pa x d = s.reach pa x d := by
  simp [State.reach]

@[simp] theorem misplaced_issue (s : State) (h : Here) (t : Nat) (e : Word) (pa : Nat) : (s.issue h).misplaced t e pa = s.misplaced t e pa := by
  simp [State.misplaced, State.windowOther]

@[simp] theorem leafUse_issue (s : State) (h : Here) (t : Nat) (va : Word) (a : Acc) (n : Nat) (e : Word) :
    (s.issue h).leafUse t va a n e = s.leafUse t va a n e := by
  simp [State.leafUse]

@[simp] theorem vaultUse_issue (s : State) (h : Here) (t : Nat) (va : Word) : (s.issue h).vaultUse t va = s.vaultUse t va := by
  simp [State.vaultUse]

@[simp] theorem tlbHit_issue (s : State) (h : Here) (c t : Nat) (va : Word) : (s.issue h).tlbHit c t va = s.tlbHit c t va := by
  obtain ⟨_, _, _, _, _, e⟩ := core_issue s h c
  simp [State.tlbHit, e]

/-- Translation at a core does not see an issue. -/
@[simp] theorem xlate_issue (s : State) (h : Here) (c t : Nat) (bad : List (Nat × Word)) (va : Word) (a : Acc) :
    (s.issue h).xlate c t bad va a = s.xlate c t bad va a := by
  simp [State.xlate]

@[simp] theorem paNow_issue (s : State) (h : Here) (t : Nat) (va : Word) (a : Acc) :
    (s.issue h).paNow t va a = s.paNow t va a := by
  simp [State.paNow, State.xlateNow]

@[simp] theorem place_issue (s : State) (h : Here) (t : Nat) (va : Word) (a : Acc) : (s.issue h).place t va a = s.place t va a := by
  simp [State.place, State.xlateNow]

end Sys2Proof.Machine
end

