-- ==== Sys2Proof/Laws/Memory.lean ====
section
/-!
SUPPORT. Laws/Memory: a byte read after a write (R4, R178), and the canonical form, which every memory operation keeps.
-/
namespace Sys2Proof.Machine

/-- Below the first listed address, memory reads as an unlisted address does. -/
theorem memGet_lt (n : Nat) (x : Byte) (t : List Host.Cell) (a : Nat) (h : a < n) : memGet ((n, x) :: t) a = unlisted := by
  simp [memGet, Nat.ne_of_gt h, h]

theorem memWf_tail (p : Host.Cell) (t : List Host.Cell) (h : memWf (p :: t) = true) : memWf t = true := by
  obtain ⟨n, x⟩ := p
  cases t with
  | nil => rfl
  | cons q t => obtain ⟨m, y⟩ := q; simp only [memWf, Bool.and_eq_true] at h; exact h.2

/-- In a canonical list, an address not above the first reads as unlisted in the rest. -/
theorem memGet_tail (n : Nat) (x : Byte) (t : List Host.Cell) (a : Nat) (h : memWf ((n, x) :: t) = true) (ha : a ≤ n) :
    memGet t a = unlisted := by
  cases t with
  | nil => rfl
  | cons q t =>
    obtain ⟨m, y⟩ := q
    simp only [memWf, Bool.and_eq_true, decide_eq_true_eq] at h
    exact memGet_lt _ _ _ _ (Nat.lt_of_le_of_lt ha h.1.2)

/-- A byte read after a byte was written. -/
theorem memGet_memPut (l : List Host.Cell) (h : memWf l = true) (m a : Nat) (x : Byte) :
    memGet (memPut l m x) a = if a = m then x else memGet l a := by
  induction l with
  | nil =>
    by_cases hx : x = unlisted
    · by_cases ha : a = m <;> simp [memPut, memGet, hx, ha]
    · by_cases ha : a = m
      · simp [memPut, memGet, hx, ha]
      · simp [memPut, memGet, hx, ha, Ne.symm ha]
  | cons p t ih =>
    obtain ⟨n, y⟩ := p
    have ht := memWf_tail _ _ h
    simp only [memPut]
    split
    · next hm =>
      by_cases hx : x = unlisted
      · simp only [hx, if_true]
        split
        · next ha => subst ha; exact memGet_lt _ _ _ _ hm
        · rfl
      · simp only [hx, if_false]
        by_cases ha : a = m
        · simp [ha, memGet]
        · simp only [ha, if_false, memGet, Ne.symm ha]
          split
          · next hlt => rw [if_neg (by omega), if_pos (by omega)]
          · rfl
    · split
      · next hm =>
        subst hm
        by_cases hx : x = unlisted
        · simp only [hx, if_true]
          by_cases ha : a = m
          · simp only [ha, if_true]; exact memGet_tail _ _ _ _ h (Nat.le_refl _)
          · simp only [ha, if_false, memGet, Ne.symm ha]
            split
            · next hlt => exact memGet_tail _ _ _ _ h (Nat.le_of_lt hlt)
            · rfl
        · simp only [hx, if_false, memGet]
          by_cases ha : a = m
          · simp [ha]
          · simp [ha, Ne.symm ha]
      · next h1 h2 =>
        simp only [memGet, ih ht]
        by_cases ha : a = m
        · subst ha; simp [Ne.symm h2]; intro hlt; omega
        · simp [ha]

/-- What a byte's write does to the first address of a list. -/
theorem memPut_head (l : List Host.Cell) (m : Nat) (x : Byte) (n : Nat) (y : Byte)
    (h : memWf ((n, y) :: l) = true) (hn : n < m) : memWf ((n, y) :: memPut l m x) = true := by
  induction l generalizing n y with
  | nil =>
    simp only [memWf, bne_iff_ne] at h
    by_cases hx : x = unlisted <;> simp [memPut, memWf, hx, h, hn]
  | cons p t ih =>
    obtain ⟨k, z⟩ := p
    simp only [memWf, Bool.and_eq_true, bne_iff_ne, decide_eq_true_eq] at h
    obtain ⟨⟨hy, hk⟩, ht⟩ := h
    simp only [memPut]
    split
    · split
      · simp [memWf, hy, hk, ht]
      · next hx hm => simp [memWf, hy, hn, hm, ht, hx]
    · split
      · next hm =>
        subst hm
        split
        · cases t with
          | nil => simp [memWf, hy]
          | cons q t =>
            obtain ⟨j, w⟩ := q
            simp only [memWf, Bool.and_eq_true, bne_iff_ne, decide_eq_true_eq] at ht ⊢
            exact ⟨⟨hy, by omega⟩, ht.2⟩
        · next hx =>
          cases t with
          | nil => simp [memWf, hy, hk, hx]
          | cons q t =>
            obtain ⟨j, w⟩ := q
            simp only [memWf, Bool.and_eq_true, bne_iff_ne, decide_eq_true_eq] at ht ⊢
            exact ⟨⟨hy, hk⟩, ⟨hx, ht.1.2⟩, ht.2⟩
      · have := ih k z ht (by omega)
        simp [memWf, hy, hk, this]

/-- A byte's write keeps the canonical form. -/
theorem memWf_memPut (l : List Host.Cell) (m : Nat) (x : Byte) (h : memWf l = true) : memWf (memPut l m x) = true := by
  cases l with
  | nil => by_cases hx : x = unlisted <;> simp [memPut, memWf, hx]
  | cons p t =>
    obtain ⟨n, y⟩ := p
    simp only [memPut]
    split
    · split
      · exact h
      · next hm hx => simp [memWf, hx, hm, h]
    · split
      · next hm =>
        subst hm
        split
        · exact memWf_tail _ _ h
        · next hx =>
          cases t with
          | nil => simp [memWf, hx]
          | cons q t =>
            obtain ⟨j, w⟩ := q
            simp only [memWf, Bool.and_eq_true, bne_iff_ne, decide_eq_true_eq] at h ⊢
            exact ⟨⟨hx, h.1.2⟩, h.2⟩
      · exact memPut_head t m x n y h (by omega)

/-- A masked word's write keeps the canonical form. -/
theorem memWf_memPutMasked (l : List Host.Cell) (w : Nat) (v : Word) (k : Byte) (n : Nat) (h : memWf l = true) :
    memWf (memPutMasked l w v k n) = true := by
  induction n with
  | zero => exact h
  | succ n ih => simp only [memPutMasked]; split
                 · exact memWf_memPut _ _ _ ih
                 · exact ih

/-- A byte read after a masked word was written: the bytes named by the mask are the word's, every other is as before. -/
theorem memGet_memPutMasked (l : List Host.Cell) (h : memWf l = true) (w : Nat) (v : Word) (k : Byte) (n a : Nat) :
    memGet (memPutMasked l w v k n) a =
      if 8 * w ≤ a ∧ a < 8 * w + n ∧ k.getLsbD (a - 8 * w) = true then byteOf v (a - 8 * w) else memGet l a := by
  induction n with
  | zero => simp [memPutMasked]; intros; omega
  | succ n ih =>
    simp only [memPutMasked]
    split
    · next hk =>
      rw [memGet_memPut _ (memWf_memPutMasked _ _ _ _ _ h), ih]
      by_cases ha : a = 8 * w + n
      · subst ha; simp [hk]
      · simp only [ha, if_false]
        by_cases hb : 8 * w ≤ a ∧ a < 8 * w + n ∧ k.getLsbD (a - 8 * w) = true
        · rw [if_pos hb, if_pos ⟨hb.1, by omega, hb.2.2⟩]
        · rw [if_neg hb, if_neg]; rintro ⟨h1, h2, h3⟩; exact hb ⟨h1, by omega, h3⟩
    · next hk =>
      rw [ih]
      by_cases hb : 8 * w ≤ a ∧ a < 8 * w + n ∧ k.getLsbD (a - 8 * w) = true
      · rw [if_pos hb, if_pos ⟨hb.1, by omega, hb.2.2⟩]
      · rw [if_neg hb, if_neg]
        rintro ⟨h1, h2, h3⟩
        by_cases ha : a = 8 * w + n
        · subst ha; simp at h3; exact hk h3
        · exact hb ⟨h1, by omega, h3⟩

/-- One access to a word keeps the canonical form. -/
theorem putWord_wf (s : State) (w : Nat) (v : Word) (k : Byte) (h : memWf s.mem = true) :
    memWf (s.putWord w v k).mem = true := memWf_memPutMasked _ _ _ _ _ h

end Sys2Proof.Machine
end

