-- ==== Sys2Proof/Tests/Slice0.lean ====
section
/-!
SUPPORT. Tests/Slice0: the smoke test of the well-formedness check, words decoded, single steps, and for every statement that
has hypotheses a state and operands that meet them (one theorem per statement, one clause of it per clause of the statement).
-/
open Sys2Proof Sys2Proof.Machine

namespace Sys2Proof.Tests

-- One theorem at a time: checked side by side, the stacks of their threads pass the memory limit.
set_option Elab.async false

/-! ## Well-formedness and decoding -/

/-- An instruction of a row, FN, immediate, LSID, OFF, SEL and result parcels. -/
def mk (row : Instr) (fn : BitVec 5 := 0) (imm : BitVec 32 := 0) (lsid : BitVec 4 := 0) (off : BitVec 12 := 0) (sel : BitVec 16 := 0)
    (outs : List RP := []) (lit : BitVec 64 := 0) (pm : PM := .always) : Insn := ⟨row, ⟨fn, pm, imm, lsid, off, sel, outs, lit⟩⟩

theorem test_wf_add : (mk .add).wf = true := by decide
/-- R43: FN 1 of OP 0x10 is sub, not add. -/
theorem test_illformed_fn : (mk .add 1).wf = false := by decide
/-- Table 3.4: class T has at most one result parcel; class T2 exactly two. -/
theorem test_illformed_results : (mk .movi 0 1 0 0 0 [⟨none, none⟩, ⟨none, none⟩]).wf = false ∧ (mk .recvNw).wf = false := by decide
/-- R94: imm 15:12 of bfx is zero. -/
theorem test_illformed_imm : (mk .bfxU 0 0x0FFF).wf = true ∧ (mk .bfxU 0 0x1000).wf = false := by decide
/-- R45: class T has no LSID, no OFF, no SEL, no immediate and no literal. -/
theorem test_illformed_fields : (mk .add 0 0 1).wf = false ∧ (mk .add 0 0 0 1).wf = false ∧ (mk .add 0 0 0 0 1).wf = false ∧ (mk .add 0 1).wf = false ∧
    (mk .add 0 0 0 0 0 [] 1).wf = false := by decide
/-- R48: opx carries no predicate. -/
theorem test_illformed_opx : (mk .opx 0 0 0 0 0 [] 0 .ifTrue).wf = false := by decide
/-- A device step has no encoding. -/
theorem test_illformed_device : (mk .blockCommit).wf = false := by decide

/-- R43: OP 0x10 is integer arithmetic; FN 0 is add, FN 1 sub; bits 15:9, 8:7, 6:5, 4:0 are OP, TN, PM, FN. -/
theorem test_decode_add : decodeOne 0b0010000_00_00_00000 [] 0 = .ok (mk .add) := by decide
theorem test_decode_words : Obligations.DecodedWords := by
  unfold Obligations.DecodedWords
  intro rp
  and_intros <;> first | (intro ts; rfl) | decide

/-- A line from its parcels that are not 0. -/
def lineOf (ps : List (Nat × Nat)) : BitVec 512 := ps.foldl (fun l p => l ||| (BitVec.ofNat 512 p.2 <<< (16 * p.1))) 0
/-- Table 3.10: the one line of the block `clamp`, with parcel 6. -/
def clampLine (i5 : Nat) : BitVec 512 :=
  lineOf [(0, 0x8600), (1, 0x80), (2, 0x81), (3, 0x3B84), (4, 0xC2C3), (5, 0x0F40), (6, i5), (19, 2), (21, 1), (23, 0xFF16), (24, 0x120E), (25, 0x64), (26, 0xFF0C),
    (27, 0x0D08), (28, 0x0A0A), (31, 3)]
/-- Its derivation column. -/
theorem test_worked_clamp : decodeBlock [clampLine 0x0F61] = .ok
    [mk .read 0 0 0 0 0 [⟨some ⟨2, .a⟩, some ⟨3, .b⟩⟩], mk .read 1 0 0 0 0 [⟨some ⟨3, .a⟩, none⟩],
     mk .cmpi 4 100 0 0 0 [⟨some ⟨3, .p⟩, some ⟨4, .p⟩⟩, ⟨some ⟨5, .p⟩, none⟩], mk .stD 3 0 0 0 0 [] 0 .ifTrue,
     mk .br 0 1 0 0 0 [] 0 .ifTrue, mk .br 1 2 0 0 0 [] 0 .ifFalse] := by decide +kernel
/-- "Suppose parcel 6 held 0x0F21 instead ... ILLEGAL_ENCODING at parcel 6". -/
theorem test_worked_clamp_illegal : decodeBlock [clampLine 0x0F21] = .error 6 := by decide +kernel

/-! ## States with one instruction -/

/-- The state in which core 0's slot 0 holds a supervisor thread of tenant 1, its block one instruction with its operands. -/
def st (i : Insn) (a b c : Tok := .sc 0) (p : Tok := .sc 1) : State :=
  { (State.reset.withInsn i).modBlk 0 0 (fun bl => { bl with body := { insn := i, a := some ⟨a, 0⟩, b := some ⟨b, 0⟩, p := some ⟨p, 0⟩ } ::
      if i.three then [{ insn := opxInsn, a := some ⟨c, 0⟩ }] else [] }) with agenda := [] }

/-- The same with the context, the block, the core changed. -/
def withCtx (s : State) (f : Ctx → Ctx) : State := s.modCtx 0 0 f
def withBlk (s : State) (f : Block → Block) : State := s.modBlk 0 0 f
/-- The same thread as one of tenant 2, which is not the supervisor. -/
def asUser (s : State) : State := let s := withCtx s fun y => { y with tag := 4097 }
  { s with tenants := tset s.tenants 2 { part := 1, numbers := [1] } }
def withCore (s : State) (f : Core → Core) : State := s.modCore 0 f
/-- The first instruction of the block changed. -/
def withHead (s : State) (f : Entry → Entry) : State := s.modBlk 0 0 fun b => { b with body := b.body.modify 0 f }

/-- A word of the first vault of the partition, and the physical address it has. -/
def va0 : Word := 0x01F0000000000000
def pa0 : Nat := 0x10000000000

/-- A load and a store that wait on word 0. -/
def parkedLoad : Wait := ⟨0, false, ⟨.ldfwe, 0, 0, .none, 0, 0, 0⟩⟩
def parkedStore : Wait := ⟨0, true, ⟨.stfw, 0, 9, .none, 0, 0, 0⟩⟩

/-- The instruction at the focus is of a row, can fire, and its entry meets P. -/
def Wit (s : State) (row : Instr) (P : Here → Prop) : Prop := ∃ h, Fires s h row ∧ P h

theorem wit {s : State} {row : Instr} {P : Here → Prop} [DecidablePred P]
    (h : (s.here.any fun h => decide (h.e.insn.row = row ∧ s.mayFire h = true ∧ P h)) = true) : Wit s row P := by
  obtain ⟨x, hx, hp⟩ := Option.any_eq_true _ _ |>.mp h
  have := of_decide_eq_true hp
  exact ⟨x, ⟨hx, this.1, this.2.1⟩, this.2.2⟩

/-- The same for an entry that need not fire. -/
def WitHere (s : State) (P : Here → Prop) : Prop := ∃ h, s.here = some h ∧ P h

theorem witHere {s : State} {P : Here → Prop} [DecidablePred P] (h : (s.here.any fun h => decide (P h)) = true) : WitHere s P := by
  obtain ⟨x, hx, hp⟩ := Option.any_eq_true _ _ |>.mp h
  exact ⟨x, hx, of_decide_eq_true hp⟩

/-- The same as Wit, of a property that also names the state. -/
def WitS (s : State) (row : Instr) (P : State → Here → Prop) : Prop := ∃ h, Fires s h row ∧ P s h

theorem witS {s : State} {row : Instr} {P : State → Here → Prop} [∀ s, DecidablePred (P s)]
    (h : (s.here.any fun h => decide (h.e.insn.row = row ∧ s.mayFire h = true ∧ P s h)) = true) : WitS s row P := wit (P := P s) h

/-- What a value that must hold of the content of an Option comes down to. -/
theorem all_some {α : Type} {o : Option α} {P : α → Prop} [DecidablePred P] (h : o.all (fun x => decide (P x)) = true) : ∀ x, o = some x → P x := by
  rintro x rfl
  exact of_decide_eq_true h

/-- The step is taken. -/
def ran (o : Out) : Bool := match o with | .next _ => true | _ => false

theorem of_ran {o : Out} (h : ran o = true) : ∃ t, o = .next t := by
  cases o with
  | next t => exact ⟨t, rfl⟩
  | _ => exact absurd h (by simp [ran])

/-- A vector token whose byte j is j, none null. -/
def vtok : Tok := .vec (BitVec.ofNat 512 ((List.range 64).foldr (fun j x => j + 256 * x) 0)) 0

/-! ## Single steps -/

/-- The result of an instruction on its operands: what its step delivers to slot a of the next instruction; and the block's flags. -/
def outOf (i : Insn) (a : Word) (b : Word := 0) (c : Word := 0) (fpm : Word := 0) : Option (Tok × BitVec 7) :=
  let s := st { i with x := { i.x with outs := [⟨some ⟨1, .a⟩, none⟩] } } (.sc a) (.sc b) (.sc c)
  let s := withBlk (withCtx s fun y => { y with fpm := fpm }) fun bl => { bl with body := bl.body.take 1 ++ [{ insn := mk .opx }] }
  match exec i.row s with
  | .next t => (t.slot 0 0).blk.bind fun bl => (bl.body[1]?.bind Entry.a).map fun r => (r.tok, bl.flags)
  | _ => none
def sc (w : Word) : Option (Tok × BitVec 7) := some (.sc w, 0)

/-- R92: modulo 2^64; adds.s clamps. -/
theorem test_add_wraps : outOf (mk .add) (BitVec.allOnes 64) 2 = sc 1 := by decide +kernel
theorem test_adds_clamps : outOf (mk .addsS) 0x7FFFFFFFFFFFFFFF 1 = sc 0x7FFFFFFFFFFFFFFF := by decide +kernel
/-- R93's example: -7 by 2. -/
theorem test_div : outOf (mk .divS) (-7) 2 = sc (-3) ∧ outOf (mk .remS) (-7) 2 = sc (-1) ∧ outOf (mk .divU) (-7) 2 = sc 0x7FFFFFFFFFFFFFFC := by decide +kernel
/-- R94's example. -/
theorem test_bfx : outOf (mk .bfxU 0 0x01C4) 0xABCD = sc 0xBC ∧ outOf (mk .bfxS 1 0x01C4) 0xABCD = sc 0xFFFFFFFFFFFFFFBC ∧
    outOf (mk .bfi 0 0x01C4) 0 0x1FF = sc 0xFF0 := by decide +kernel
/-- R95: cmpi.lt.u 0xFFFF compares with 2^64 - 1. -/
theorem test_cmpi_ltu : outOf (mk .cmpi 6 0xFFFF) 0x10000 = sc 1 := by decide +kernel

/-- R105's example, 1.0 + 2^-24 under nearest-even and up, inexact (R128: bit 4); R110's examples on 500.0, overflow (bit 2) and inexact. -/
theorem test_fadd_rounds : outOf (mk .fadd) 0x3F800000 0x33800000 = some (.sc 0x3F800000, 0b10000) ∧
    outOf (mk .fadd) 0x3F800000 0x33800000 0 2 = some (.sc 0x3F800001, 0b10000) := by decide +kernel
theorem test_fcvt_fp8 : outOf (mk .fcvt 4) 0x43FA0000 = some (.sc 0x7E, 0b10100) ∧ outOf (mk .fcvt 5) 0x43FA0000 = some (.sc 0x60, 0b10000) := by decide +kernel

/-! ## Witnesses: scalar forms -/

/-- IntegerArithmetic, LogicAndShifts, BitsAndBounds, PredicatesAndMoves, ScalarFloat, FloatCodes and the other Gives clauses: every
scalar form fires on live operands. -/
theorem wit_scalar : ∀ row ∈ scalarRows, Wit (st (mk row) (.sc 7) (.sc 2) (.sc 1)) row fun h =>
    Live h (h.a.getD 0) (h.bb.getD 0) (h.cc.getD 0) := by
  have : ∀ row ∈ scalarRows, ((st (mk row) (.sc 7) (.sc 2) (.sc 1)).here.any fun h => decide (h.e.insn.row = row ∧
      (st (mk row) (.sc 7) (.sc 2) (.sc 1)).mayFire h = true ∧ Live h (h.a.getD 0) (h.bb.getD 0) (h.cc.getD 0))) = true := by decide +kernel
  exact fun row hr => wit (this row hr)

/-- Divide: by zero, −2^63 by −1, and otherwise. -/
theorem wit_Divide : ∀ row ∈ [Instr.divS, .remS, .divU, .remU],
    Wit (st (mk row) (.sc 7) (.sc 0)) row (fun h => Live h 7 0 0) ∧
    Wit (st (mk row) (.sc (2 ^ 63)) (.sc (BitVec.allOnes 64))) row (fun h => Live h (2 ^ 63) (BitVec.allOnes 64) 0) ∧
    Wit (st (mk row) (.sc 7) (.sc 2)) row fun h => Live h 7 2 0 := by
  intro row hr
  fin_cases hr <;> exact ⟨wit (by decide +kernel), wit (by decide +kernel), wit (by decide +kernel)⟩

/-- BitFields and Compare: the bounds of their encodings. -/
theorem wit_BitFields : ∀ i ∈ [mk .bfxU 0 0xFFF, mk .bfxS 1 0, mk .bfi 0 0xFFF], i.wf = true := by decide
theorem wit_Compare : ∀ i ∈ [mk .cmp 11, mk .cmpi 0 0xFFFF], i.wf = true := by decide

/-- PredicatesAndMoves: mov, null, opx; enter on either side of the limit. -/
theorem wit_PredicatesAndMoves :
    Wit (st (mk .mov) vtok) .mov (fun h => h.pOn = true) ∧ Wit (st (mk .null) .null) .null (fun _ => True) ∧
    Wit { State.reset.withInsn opxInsn with focus := { i := 1 } } .opx (fun _ => True) ∧
    Wit (st (mk .enter) (.sc 16)) .enter (fun h => Live h 16 0 0 ∧ h.ctx.stklim.toNat ≤ (0 : Word).toNat) ∧
    Wit (withCtx (st (mk .enter) (.sc 32)) fun y => { y with stklim := 17 }) .enter
      (fun h => Live h 32 0 0 ∧ (16 : Word).toNat < h.ctx.stklim.toNat) :=
  ⟨wit (by decide +kernel), wit (by decide +kernel), wit (by decide +kernel), wit (by decide +kernel), wit (by decide +kernel)⟩

/-- NullOperands: a predicate that is off, for every form; a null operand. -/
theorem wit_NullOperands :
    (∀ row ∈ scalarRows ++ [.enter, .fseed], Wit (st (mk row 0 0 0 0 0 [] 0 .ifTrue) (.sc 7) (.sc 2) (.sc 1) (.sc 0)) row Nulled) ∧
    (∀ row ∈ vectorRows ++ [.tunpk], Wit (st (mk row 0 0 0 0 0 [] 0 .ifTrue) vtok vtok vtok (.sc 0)) row fun h => h.dead true = true) ∧
    Wit (st (mk .add) (.sc 1) .null) .add Nulled ∧ Wit (st (mk .vadd) vtok .null) .vadd (fun h => h.dead true = true) ∧
    WitS (st (mk .fcvt) .null) .fcvt (fun s h => drawReady h s = true ∧ Nulled h) ∧
    WitS (st (mk .vcvt) .null) .vcvt (fun s h => drawReady h s = true ∧ h.dead true = true) ∧
    Wit (st (mk .vins) vtok .null (.sc 9)) .vins (fun h => h.dead false = true ∨ (h.tok .b).scalar = none) ∧
    Wit (st (mk .mov 0 0 0 0 0 [] 0 .ifTrue) vtok (p := .sc 0)) .mov fun h => h.pOn = false := by
  have h1 : ∀ row ∈ scalarRows ++ [.enter, .fseed], ((st (mk row 0 0 0 0 0 [] 0 .ifTrue) (.sc 7) (.sc 2) (.sc 1) (.sc 0)).here.any fun h => decide (h.e.insn.row = row ∧
      (st (mk row 0 0 0 0 0 [] 0 .ifTrue) (.sc 7) (.sc 2) (.sc 1) (.sc 0)).mayFire h = true ∧ Nulled h)) = true := by decide +kernel
  have h2 : ∀ row ∈ vectorRows ++ [.tunpk], ((st (mk row 0 0 0 0 0 [] 0 .ifTrue) vtok vtok vtok (.sc 0)).here.any fun h => decide (h.e.insn.row = row ∧
      (st (mk row 0 0 0 0 0 [] 0 .ifTrue) vtok vtok vtok (.sc 0)).mayFire h = true ∧ h.dead true = true)) = true := by decide +kernel
  exact ⟨fun row hr => wit (h1 row hr), fun row hr => wit (h2 row hr), wit (by decide +kernel), wit (by decide +kernel), witS (by decide +kernel),
    witS (by decide +kernel), wit (by decide +kernel), wit (by decide +kernel)⟩

/-- VectorIntegers, VectorFloats, SpecialFunctions, Reductions, VectorMoves: every vector form fires on vectors without nulls. -/
theorem wit_vector : ∀ row ∈ vectorRows, Wit (st (mk row) vtok vtok vtok) row fun h => h.dead true = false := by
  have : ∀ row ∈ vectorRows, ((st (mk row) vtok vtok vtok).here.any fun h => decide (h.e.insn.row = row ∧
      (st (mk row) vtok vtok vtok).mayFire h = true ∧ h.dead true = false)) = true := by decide +kernel
  exact fun row hr => wit (this row hr)

/-! ## Witnesses: floating point -/

/-- Rounding: 1.0 is finite in each format, not zero, not below zero. -/
theorem wit_Rounding : (∀ q ∈ [(fp32, 0x3F800000), (fp16, 0x3C00), (bf16, 0x3F80)], q.1.Finite q.2) ∧ fp32.num 0x3F800000 = 1 ∧ fp32.num 0 = 0 := by
  refine ⟨by decide, ?_, ?_⟩ <;> norm_num [Fmt.num, Fmt.signBit, fp32]

/-- FloatCodes: a quiet and a signalling NaN, infinities, zeros, a finite value over a zero, a negative operand; fcmp's FN. -/
theorem wit_FloatCodes : nan32 0x7FC00000 = true ∧ snan32 0x7F800001 = true ∧ inf32 0x7F800000 = true ∧ inf32 0xFF800000 = true ∧
    neg32 0x7F800000 ≠ neg32 0xFF800000 ∧ zero32 0x80000000 = true ∧ neg32 0x80000000 = true ∧ zero32 0 = true ∧ snan32 0x7FC00000 = false ∧
    (nan32 0x3F800000 = false ∧ inf32 0x3F800000 = false ∧ zero32 0x3F800000 = false) ∧
    (nan32 0xBF800000 = false ∧ zero32 0xBF800000 = false ∧ neg32 0xBF800000 = true) := by decide

/-- Conversions: every conversion of fcvt, one that draws among them; a NaN, infinities, a finite value; fseed of 0 and of a seed. -/
theorem wit_Conversions : (∀ fn < 12, Wit (st (mk .fcvt (BitVec.ofNat 5 fn)) (.sc 0x3F800000)) .fcvt fun h =>
      drawReady h (st (mk .fcvt (BitVec.ofNat 5 fn)) (.sc 0x3F800000)) = true ∧ Live h 0x3F800000 0 0 ∧ (Cv.ofCode h.fn).isSome) ∧
    fp32.Finite 0x3F800000 ∧ e4m3.Finite 0x38 ∧ e5m2.Finite 0x3C ∧ fp16.Finite 0x3C00 ∧ bf16.Finite 0x3F80 ∧
    (∀ v ∈ [(0 : Word), 5], Wit (st (mk .fseed) (.sc v)) .fseed fun h => Live h v 0 0) := by
  have h1 : ∀ fn < 12, ((st (mk .fcvt (BitVec.ofNat 5 fn)) (.sc 0x3F800000)).here.any fun h => decide (h.e.insn.row = .fcvt ∧
      (st (mk .fcvt (BitVec.ofNat 5 fn)) (.sc 0x3F800000)).mayFire h = true ∧
      drawReady h (st (mk .fcvt (BitVec.ofNat 5 fn)) (.sc 0x3F800000)) = true ∧ Live h 0x3F800000 0 0 ∧ (Cv.ofCode h.fn).isSome)) = true := by decide +kernel
  refine ⟨fun n hn => wit (h1 n hn), by decide, by decide, by decide, by decide, by decide, fun v hv => ?_⟩
  fin_cases hv <;> exact wit (by decide +kernel)

/-! ## Witnesses: issue and exits -/

theorem wit_TokensDelivered : WitHere (st (mk .add 0 0 0 0 0 [⟨some ⟨1, .a⟩, some ⟨2, .b⟩⟩])) fun h => h.i = 0 := witHere (by decide +kernel)

/-- SearchOrder and LowestIndexIssues: slot 0 of core 0 issues, its slot the first of a search from s = 15; an empty core issues nothing; a power
window that runs and one that has ended; an exit, which takes no issue cycle. -/
theorem wit_SearchOrder : (∀ k < 16, ((st (mk .add)).slot 0 k).drain = false ∧ ((st (mk .add)).slot 0 k).handed = none) ∧
    ((st (mk .add)).issueFrom 0 0).isSome ∧ ((st (mk .add)).core 0).s = 15 ∧ (∀ k < 16, State.reset.issueFrom 0 k = none) ∧
    WitHere (st (mk .add)) (fun h => h.e.phase = .waiting ∧ h.e.insn.unissued = false) ∧
    WitHere (st (mk .br)) (fun h => h.e.insn.unissued = true) ∧ (st (mk .add)).windowEnded 0 = false ∧ ({ st (mk .add) with cycle := 256 }.windowEnded 0) = true ∧
    ((st (mk .add)).carry 0).isNone = true ∧ ((st (mk .add)).core 0).searched ≠ some (st (mk .add)).cycle ∧
    ((withHead (st (mk .add)) fun e => { e with phase := .retry }).carry 0).isSome = true ∧
    ((withCore (st (mk .add)) fun q => { q with searched := some 0 }).core 0).searched = some (st (mk .add)).cycle := by
  refine ⟨?_, ?_, ?_, ?_, witHere (by decide +kernel), witHere (by decide +kernel), ?_, ?_, ?_, ?_, ?_, ?_⟩ <;> decide +kernel

/-- Two instructions that are ready, of which index 0 issues. -/
def two : State := (st (mk .add)).modBlk 0 0 fun b => { b with body := b.body ++ b.body }
theorem wit_LowestIndexIssues : ((two.slot 0 0).blk.map fun b => b.body.length) = some 2 ∧ (two.take .add { c := 0, k := 0, i := 0 }).isSome ∧
    (two.take .add { c := 0, k := 0, i := 1 }).isSome ∧ (∀ b, (two.slot 0 0).blk = some b → ∀ x ∈ b.body, x.carries = false) := by
  refine ⟨?_, ?_, ?_, all_some ?_⟩ <;> decide +kernel

/-- Exits: taken, with an aligned and a misaligned target; a second exit; the last exit that emits a null; eret without privilege or
link; migr to a stack address in its TLB. -/
theorem wit_Exits :
    (∀ row ∈ [Instr.br, .call, .halt, .svc, .trap], Wit (st (mk row)) row (fun h => h.pOn = true ∧ h.b.exits = []) ∧
      Wit (withBlk (st (mk row)) fun b => { b with exits := [(1, 64)] }) row (fun h => h.pOn = true ∧ h.b.exits ≠ [])) ∧
    (∀ row ∈ [Instr.jmp, .callr, .ret], Wit (st (mk row) (.sc 64)) row (fun h => h.pOn = true ∧ h.a = some 64 ∧ h.b.exits = [] ∧ h.b.ponr = false) ∧
      Wit (st (mk row) (.sc 65)) row (fun h => h.pOn = true ∧ h.a = some 65 ∧ h.b.ponr = false) ∧
      Wit (withBlk (st (mk row) (.sc 64)) fun b => { b with exits := [(1, 64)] }) row (fun h => h.pOn = true ∧ h.a = some 64 ∧ h.b.ponr = false ∧ h.b.exits ≠ [])) ∧
    Wit (withCore (st (mk .migr) (.sc 0x100)) fun q => { q with tlb := [⟨0, 65536, 0x21F, 1, 0⟩] }) .migr (fun h => h.pOn = true ∧ h.a = some 0x100 ∧ h.b.exits = [] ∧
      (withCore (st (mk .migr) (.sc 0x100)) fun q => { q with tlb := [⟨0, 65536, 0x21F, 1, 0⟩] }).xlate h.c h.ten h.b.bad 0x100 .load = .ok 0x100 1 1 ∧ hasQuad 0x100 = true) ∧
    Wit (withCtx (st (mk .eret)) fun y => { y with link := some va0 }) .eret (fun h => h.pOn = true ∧ h.b.exits = [] ∧ (st (mk .eret)).privileged h.ten = true ∧
      h.ctx.link = some va0 ∧ (st (mk .eret)).place ((st (mk .eret)).svten ((st (mk .eret)).partOf h.ten)) (va0 + 280) .store = some (pa0 + 280, 1)) ∧
    Wit (asUser (st (mk .eret))) .eret (fun h => h.pOn = true ∧ h.b.ponr = false ∧ (asUser (st (mk .eret))).privileged h.ten = false) ∧
    Wit (withCtx (st (mk .eret)) fun y => { y with link := none }) .eret (fun h => h.pOn = true ∧ h.b.ponr = false ∧ (st (mk .eret)).privileged h.ten = true ∧ h.ctx.link = none) ∧
    WitS (st (mk .migr) (.sc 0xFFFFFFFFFFFFFFF8)) .migr (fun s h => h.pOn = true ∧ s.xlate h.c h.ten h.b.bad 0xFFFFFFFFFFFFFFF8 .load = .fault) ∧
    WitS (withCtx (st (mk .eret)) fun y => { y with link := some 0xFFFFFFFFFFFF0000 }) .eret (fun s h => h.pOn = true ∧ s.privileged h.ten = true ∧
      s.place (s.svten (s.partOf h.ten)) (0xFFFFFFFFFFFF0000 + 280) .store = none) ∧
    (∀ row ∈ [Instr.br, .call, .jmp, .callr, .ret, .halt, .svc, .trap, .migr, .eret],
      Wit (st (mk row 0 0 0 0 0 [] 0 .ifTrue) (.sc 0) (.sc 0) (.sc 0) (.sc 0)) row (fun h => h.pOn = false ∧ h.b.exits = [] ∧ h.b.body.length = 1) ∧
      Wit (withBlk (st (mk row 0 0 0 0 0 [] 0 .ifTrue) (.sc 0) (.sc 0) (.sc 0) (.sc 0)) fun b => { b with body := b.body ++ [{ insn := mk .br }] }) row
        (fun h => h.pOn = false ∧ h.b.exits = [] ∧ (h.b.body[1]?.any fun x => x.insn.exitNo.isSome && x.phase != .done) = true)) := by
  refine ⟨fun row hr => ?_, fun row hr => ?_, wit (by decide +kernel), wit (by decide +kernel), wit (by decide +kernel), wit (by decide +kernel), ?_, ?_, fun row hr => ?_⟩
  · fin_cases hr <;> exact ⟨wit (by decide +kernel), wit (by decide +kernel)⟩
  · fin_cases hr <;> exact ⟨wit (by decide +kernel), wit (by decide +kernel), wit (by decide +kernel)⟩
  · exact witS (by decide +kernel)
  · exact witS (by decide +kernel)
  · fin_cases hr <;> exact ⟨wit (by decide +kernel), wit (by decide +kernel)⟩

/-- BlockFrame: scalar and vector forms run to a next state; a store whose address translates. -/
theorem wit_BlockFrame : (∀ row ∈ scalarRows, ∃ t, exec row (st (mk row) (.sc 7) (.sc 2) (.sc 1)) = .next t) ∧
    (∀ row ∈ vectorRows, ∃ t, exec row (st (mk row) vtok vtok vtok) = .next t) ∧ (∀ row ∈ [Instr.br, .brk, .yield, .srrd, .fenceRel, .recvNw], ∃ t, exec row (st (mk row)) = .next t) ∧
    (∃ t, exec .stD (st (mk .stD) (.sc va0) (.sc 5)) = .next t) ∧ WitS (st (mk .write) (.sc 5)) .write (fun _ h => h.bound = none) ∧
    WitS (st (mk .stD) (.sc va0) (.sc 5)) .stD (fun s h => h.a = some va0 ∧ s.xlate h.c h.ten h.b.bad (h.addr va0) .store ≠ .miss) := by
  have h1 : ∀ row ∈ scalarRows, ran (exec row (st (mk row) (.sc 7) (.sc 2) (.sc 1))) = true := by decide +kernel
  have h2 : ∀ row ∈ vectorRows, ran (exec row (st (mk row) vtok vtok vtok)) = true := by decide +kernel
  have h3 : ∀ row ∈ [Instr.br, .brk, .yield, .srrd, .fenceRel, .recvNw], ran (exec row (st (mk row))) = true := by decide +kernel
  exact ⟨fun row hr => of_ran (h1 row hr), fun row hr => of_ran (h2 row hr), fun row hr => of_ran (h3 row hr), of_ran (by decide +kernel), witS (by decide +kernel),
    witS (by decide +kernel)⟩

/-- VectorMoves: vext and vins with a scalar index, the last lane; every conversion of vcvt; tunpk of valid bytes, and with byte 11
the lowest one that is none, with sr.fpm bit 8 (TCE) clear and set. -/
theorem wit_VectorMoves : Wit (st (mk .vext 2) vtok (.sc 15)) .vext (fun h => h.dead true = false ∧ (h.tok .b).scalar = some 15) ∧
    Wit (st (mk .vins 2) vtok (.sc 15) (.sc 9)) .vins (fun h => h.dead false = false ∧ (h.tok .b).scalar = some 15) ∧
    (∀ fn < 12, Wit (st (mk .vcvt (BitVec.ofNat 5 fn)) vtok) .vcvt fun h => drawReady h (st (mk .vcvt (BitVec.ofNat 5 fn)) vtok) = true ∧ h.dead true = false ∧
      (Cv.ofCode h.fn).isSome) ∧
    Wit (st (mk .tunpk) vtok) .tunpk (fun h => h.dead true = false ∧ ∀ j < 12, (laneAt h.va 1 j).all (· < 243) = true) ∧
    (∀ fpm ∈ [(0 : Word), 256], Wit (withCtx (st (mk .tunpk) (.vec (0xF3 <<< 88) 0)) fun y => { y with fpm := fpm }) .tunpk fun h => h.dead true = false ∧
      h.ctx.fpm.getLsbD 8 = (fpm == 256) ∧ h.laneOn 59 = true ∧ laneAt h.va 1 11 = some 243 ∧ ∀ j < 11, laneAt h.va 1 j = some 0) := by
  have h1 : ∀ fn < 12, ((st (mk .vcvt (BitVec.ofNat 5 fn)) vtok).here.any fun h => decide (h.e.insn.row = .vcvt ∧
      (st (mk .vcvt (BitVec.ofNat 5 fn)) vtok).mayFire h = true ∧ drawReady h (st (mk .vcvt (BitVec.ofNat 5 fn)) vtok) = true ∧ h.dead true = false ∧
      (Cv.ofCode h.fn).isSome)) = true := by decide +kernel
  exact ⟨wit (by decide +kernel), wit (by decide +kernel), fun n hn => wit (h1 n hn), wit (by decide +kernel),
    fun n hn => by fin_cases hn <;> exact wit (by decide +kernel)⟩

/-! ## Witnesses: memory forms -/

/-- A translation of the vault's word at offset o. -/
abbrev Xlt (s : State) (h : Here) (va : Word) (acc : Acc) : Prop := s.xlate h.c h.ten h.b.bad va acc = .ok (pa0 + (va.toNat - va0.toNat)) 0 1

/-- The words from the vault's first on that have arrived: word i is v i. -/
def got (s : State) (n : Nat) (v : Nat → Word) : State := withHead s fun e => { e with words := (List.range n).map fun i => (pa0 / 8 + i, v i) }

/-- Core 0's TLB holds page 0 with every permission, its frame is tenant 1's, and line 2 is in its home's L2. -/
def stk (s : State) : State :=
  { withCore s (fun q => { q with tlb := [⟨0, 65536, 0x21F, 1, 0⟩] }) with frames := [(0, (1, false))], dirs := [{ line := 2 }] }
/-- The instruction in the trailing slot of a paired core, its leading slot's results queued. -/
def trailing (i : Insn) (a b c : Tok := .sc 0) : State :=
  let s := st i a b c
  let s := (s.setSlot 0 8 (s.slot 0 0)).modCore 0 fun q => { q with paired := true, lvq := [(0, 0, .sc 5, .null)] }
  { s with focus := { c := 0, k := 8, i := 0 } }
/-- A form with a reply in a trailing slot finds its leading slot's results. -/
theorem wit_Trails : ∀ row ∈ loadRows.map Prod.fst ++ feRows.map Prod.fst ++ amoRows ++ [.vld, .vgathD, .casW, .sbind, .harvest, .send, .bar, .mcreate, .ego, .mldb, .mst],
    WitS (trailing (mk row)) row fun s h => s.trails h = true ∧ s.lvqFor h = some (.sc 5, .null) := by
  intro row hr
  simp only [loadRows, feRows, amoRows, List.map, List.cons_append, List.nil_append] at hr
  fin_cases hr <;> exact witS (by decide +kernel)

/-- Loads: scalar forms, with the word arrived, with nothing arrived; a hit in the L1; the vector forms with their words. -/
theorem wit_Loads :
    (∀ q ∈ loadRows, WitS (st (mk q.1) (.sc va0)) q.1 (fun s h => Clean s h ∧ loadReady h s = true ∧ h.pOn = true ∧ h.a = some va0 ∧
        (h.addr va0).toNat % q.2.1 = 0 ∧ Xlt s h (h.addr va0) .load ∧ h.e.words = [] ∧ (s.core h.c).l1Hit h.ten (pa0 / 128) = none) ∧
      WitS (got (st (mk q.1) (.sc va0)) 1 fun _ => 0x80) q.1 (fun s h => Clean s h ∧ loadReady h s = true ∧ h.pOn = true ∧ h.a = some va0 ∧
        (h.addr va0).toNat % q.2.1 = 0 ∧ Xlt s h (h.addr va0) .load ∧ h.e.words = [(pa0 / 8, 0x80)] ∧ Strong s h [pa0 / 8]) ∧
      WitS (withBlk (st (mk q.1 0 0 1) (.sc va0)) fun b => { b with body := b.body ++ [{ insn := mk .stD }] }) q.1 (fun s h => h.e.phase ≠ .held ∧ s.trails h = false ∧
        loadReady h s = false)) ∧
    WitS (withBlk (st (mk .ldD 0 0 1) (.sc va0)) fun b => { b with stores := [(0, false, [⟨pa0 / 8, 5, 0xFF, va0, 0, 1⟩])] }) .ldD (fun s h => loadReady h s = true ∧
      h.e.words = [] ∧ coverOf (h.b.writesBelow h.lsid) (pa0 / 8) = 0xFF) ∧
    WitS (withCore (withBlk (st (mk .ldD 0 0 1) (.sc va0)) fun b => { b with body := b.body ++ [{ insn := mk .ldacqD }] }) fun q =>
        { q with sq := [⟨5, 1, 0, 1, 0, .st ⟨pa0 / 8, 5, 0xFF, va0, 0, 1⟩, .queued⟩] }) .ldD (fun s h => h.e.phase ≠ .held ∧ s.trails h = false ∧
      h.early s.cycle = true ∧ s.clearOf h (pa0 / 8) = false) ∧
    WitS (withCore (st (mk .ldB) (.sc 0x107)) fun q => { q with tlb := [⟨0, 65536, 0x21F, 1, 0⟩], l1 := [⟨2, 7, 1, 0⟩] }) .ldB (fun s h => Clean s h ∧
      loadReady h s = true ∧ h.pOn = true ∧ h.a = some 0x107 ∧ s.xlate h.c h.ten h.b.bad (h.addr 0x107) .load = .ok 0x107 1 1 ∧ isStack 0x107 = true ∧
      (s.core h.c).l1Hit h.ten (0x107 / 128) = some 7) ∧
    WitS (got (st (mk .vld) (.sc va0)) 8 fun i => BitVec.ofNat 64 i) .vld (fun s h => Clean s h ∧ loadReady h s = true ∧ h.dead true = false ∧ h.a = some va0 ∧
      (h.addr va0).toNat % 64 = 0 ∧ (∃ j < 64, h.laneOn j = true) ∧
      ∀ i < 8, Xlt s h (h.addr va0 + BitVec.ofNat 64 (8 * i)) .load ∧ wordIn h.e.words ((pa0 + 8 * i) / 8) = some (BitVec.ofNat 64 i)) ∧
    WitS (got (st (mk .vldb) (.sc va0)) 1 fun _ => 5) .vldb (fun s h => Clean s h ∧ loadReady h s = true ∧ h.dead true = false ∧ h.a = some va0 ∧
      (∃ i < 8, h.laneOn (8 * i) = true) ∧ Xlt s h (h.addr va0) .load ∧ wordIn h.e.words (pa0 / 8) = some 5) ∧
    (∀ q ∈ [(Instr.vgathW, 4), (.vgathD, 8)], WitS (got (st (mk q.1) (.sc va0) (.vec 0 0)) 1 fun _ => 5) q.1 (fun s h => Clean s h ∧ loadReady h s = true ∧
      h.dead true = false ∧ h.a = some va0 ∧ (h.addr va0).toNat % q.2 = 0 ∧ (∃ i < 64 / q.2, h.laneOn (q.2 * i) = true ∧ (laneAt h.vb q.2 i).isSome) ∧
      (∀ i < 64 / q.2, laneAt h.vb q.2 i = some 0) ∧ Xlt s h (h.addr va0) .load ∧ wordIn h.e.words (pa0 / 8) = some 5)) := by
  refine ⟨fun q hq => ?_, witS (by decide +kernel), witS (by decide +kernel), witS (by decide +kernel), witS (by decide +kernel), witS (by decide +kernel), fun q hq => ?_⟩
  · fin_cases hq <;> exact ⟨witS (by decide +kernel), witS (by decide +kernel), witS (by decide +kernel)⟩
  · fin_cases hq <;> exact witS (by decide +kernel)

/-- StoresAndFences: aligned stores; fence.acq with its loads returned and with one outstanding; fence.full with an empty queue. -/
theorem wit_StoresAndFences :
    (∀ q ∈ storeRows, WitS (st (mk q.1) (.sc (va0 + 8)) (.sc 5)) q.1 fun s h => Live h (va0 + 8) 5 0 ∧ (h.addr (va0 + 8)).toNat % q.2.1 = 0 ∧
      Xlt s h (h.addr (va0 + 8)) .store) ∧
    WitS (st (mk .vst) (.sc va0) vtok) .vst (fun s h => h.dead true = false ∧ h.a = some va0 ∧ (h.addr va0).toNat % 64 = 0 ∧
      (∃ j < 64, h.laneOn j = true ∧ (laneAt h.vb 1 j).isSome) ∧ Xlt s h (h.addr va0) .store) ∧
    (∀ q ∈ [(Instr.vscatW, 4), (.vscatD, 8)], WitS (st (mk q.1) (.sc va0) (.vec 0 0) vtok) q.1 fun s h => h.dead true = false ∧ h.a = some va0 ∧
      (∀ i < 64 / q.2, (laneAt h.vb q.2 i) = some 0 ∧ (laneAt h.vc q.2 i).isSome) ∧ Xlt s h (h.addr va0) .store) ∧
    WitS (st (mk .fenceAcq)) .fenceAcq (fun s h => h.e.want = [] ∧ h.b.loadsBelow s.cycle h.lsid = true) ∧
    WitS (withBlk (st (mk .fenceAcq 0 0 1)) fun b => { b with body := b.body ++ [{ insn := mk .ldD, phase := .sent }] }) .fenceAcq
      (fun s h => h.e.phase ≠ .held ∧ h.pOn = true ∧ h.b.loadsBelow s.cycle h.lsid = false) ∧
    WitS (st (mk .fenceRel)) .fenceRel (fun _ h => h.pOn = true) ∧
    WitS (st (mk .fenceFull)) .fenceFull (fun s h => h.e.want = [] ∧ h.pOn = true ∧ h.b.loadsBelow s.cycle h.lsid = true ∧ (∀ e ∈ (s.core h.c).sq, e.ctx ≠ h.ctx.id) ∧
      s.fulls = []) ∧
    WitS (withBlk (st (mk .fenceFull 0 0 1)) fun b => { b with body := b.body ++ [{ insn := mk .ldD, phase := .sent }] }) .fenceFull
      (fun s h => h.e.phase ≠ .held ∧ h.pOn = true ∧ h.b.loadsBelow s.cycle h.lsid = false) := by
  refine ⟨fun q hq => ?_, witS (by decide +kernel), fun q hq => ?_, ?_, ?_, ?_, ?_, ?_⟩
  rotate_left 2
  all_goals try exact witS (by decide +kernel)
  · fin_cases hq <;> exact witS (by decide +kernel)
  · fin_cases hq <;> exact witS (by decide +kernel)

/-- AddressFaults: every form of its list, misaligned, at an address outside every region, and at one whose page the TLB does not hold. -/
def addrRows : List (Instr × Nat × Acc) := (loadRows.map fun q => (q.1, q.2.1, Acc.load)) ++ (storeRows.map fun q => (q.1, q.2.1, Acc.store)) ++
  (feRows.map fun q => (q.1, 8, q.2.2))
def bare (s : State) (h : Here) (a : Word) : Prop :=
  s.trails h = false ∧ h.e.phase ≠ .held ∧ Live h a (h.bb.getD 0) 0 ∧ h.ctx.hnd = false ∧ loadReady h s = true ∧ commitReady h s = true
theorem bareOk {s : State} {row : Instr} {a : Word} {P : State → Here → Prop} [∀ s, DecidablePred (P s)]
    (h : (s.here.any fun h => decide (h.e.insn.row = row ∧ s.mayFire h = true ∧ ((s.trails h = false ∧ h.e.phase ≠ .held ∧ Live h a (h.bb.getD 0) 0 ∧
      h.ctx.hnd = false ∧ loadReady h s = true ∧ commitReady h s = true) ∧ P s h))) = true) : WitS s row fun s h => bare s h a ∧ P s h := by
  have := wit (P := fun h => (s.trails h = false ∧ h.e.phase ≠ .held ∧ Live h a (h.bb.getD 0) 0 ∧ h.ctx.hnd = false ∧ loadReady h s = true ∧ commitReady h s = true) ∧ P s h) h
  exact this
theorem wit_AddressFaults : ∀ q ∈ addrRows,
    (q.2.1 ≠ 1 → WitS (st (mk q.1) (.sc (va0 + 1)) (.sc 5)) q.1 fun s h => bare s h (va0 + 1) ∧ (h.addr (va0 + 1)).toNat % q.2.1 ≠ 0) ∧
    WitS (st (mk q.1) (.sc 0xFFFFFFFFFFFFFFF8) (.sc 5)) q.1 (fun s h => bare s h 0xFFFFFFFFFFFFFFF8 ∧ (h.addr 0xFFFFFFFFFFFFFFF8).toNat % q.2.1 = 0 ∧
      s.xlate h.c h.ten h.b.bad (h.addr 0xFFFFFFFFFFFFFFF8) q.2.2 = .fault) ∧
    WitS (st (mk q.1) (.sc 0x20000) (.sc 5)) q.1 fun s h => bare s h 0x20000 ∧ (h.addr 0x20000).toNat % q.2.1 = 0 ∧
      s.xlate h.c h.ten h.b.bad (h.addr 0x20000) q.2.2 = .miss := by
  intro q hq
  simp only [addrRows, loadRows, storeRows, feRows, List.map, List.cons_append, List.nil_append] at hq
  fin_cases hq <;> exact ⟨fun hn => by first | exact absurd rfl hn | exact bareOk (by decide +kernel), bareOk (by decide +kernel), bareOk (by decide +kernel)⟩

/-- The same for the atomics and compare-and-swaps, and for the vector forms, each with a live lane. -/
theorem wit_AddressFaults_more :
    (∀ q ∈ [(mk .casW, 4), (mk .casD, 8)] ++ amoRows.map (fun r => (mk r 1, 8)) ++ amoRows.map (fun r => (mk r 0, 4)),
      WitS (st q.1 (.sc (va0 + 1)) (.sc 5)) q.1.row (fun s h => bare s h (va0 + 1) ∧ (h.addr (va0 + 1)).toNat % q.2 ≠ 0) ∧
      WitS (st q.1 (.sc 0xFFFFFFFFFFFFFFF8) (.sc 5)) q.1.row (fun s h => bare s h 0xFFFFFFFFFFFFFFF8 ∧ s.xlate h.c h.ten h.b.bad (h.addr 0xFFFFFFFFFFFFFFF8) .both = .fault) ∧
      WitS (st q.1 (.sc 0x20000) (.sc 5)) q.1.row fun s h => bare s h 0x20000 ∧ s.xlate h.c h.ten h.b.bad (h.addr 0x20000) .both = .miss) ∧
    (∀ q ∈ [(Instr.vld, 64, Acc.load), (.vldb, 8, .load), (.vgathW, 4, .load), (.vgathD, 8, .load), (.vst, 64, .store), (.vscatW, 4, .store), (.vscatD, 8, .store)],
      WitS (st (mk q.1) (.sc (va0 + 1)) (.vec 0 0) vtok) q.1 (fun s h => s.trails h = false ∧ h.dead true = false ∧ h.a = some (va0 + 1) ∧ h.laneOn 0 = true ∧
        (laneAt h.vb 1 0).isSome = true ∧ (h.addr (va0 + 1)).toNat % q.2.1 ≠ 0) ∧
      WitS (st (mk q.1) (.sc 0xFFFFFFFFFFFFFFC0) (.vec 0 0) vtok) q.1 (fun s h => h.dead true = false ∧ h.a = some 0xFFFFFFFFFFFFFFC0 ∧ (h.addr 0xFFFFFFFFFFFFFFC0).toNat % q.2.1 = 0 ∧
        s.xlate h.c h.ten h.b.bad (h.addr 0xFFFFFFFFFFFFFFC0) q.2.2 = .fault) ∧
      WitS (st (mk q.1) (.sc 0x20000) (.vec 0 0) vtok) q.1 fun s h => h.dead true = false ∧ h.a = some 0x20000 ∧ (h.addr 0x20000).toNat % q.2.1 = 0 ∧
        s.xlate h.c h.ten h.b.bad (h.addr 0x20000) q.2.2 = .miss) := by
  constructor <;> intro q hq
  · simp only [amoRows, List.map, List.cons_append, List.nil_append] at hq
    fin_cases hq <;> exact ⟨bareOk (by decide +kernel), bareOk (by decide +kernel), bareOk (by decide +kernel)⟩
  · fin_cases hq <;> exact ⟨witS (by decide +kernel), witS (by decide +kernel), witS (by decide +kernel)⟩

/-- A committing form is held back while a load of its block has not fired. -/
def notYet (s : State) : State := withBlk s fun b => { b with body := b.body ++ [{ insn := mk .ldD 0 0 7 }] }
/-- What a home needs to serve a request for a word of n bytes. -/
abbrev ServedAt (s : State) (h : Here) (pa n : Nat) : Prop := s.sound = true ∧ Reaches s (s.core h.c).tag pa 1 ∧ pa % n = 0 ∧ (s.dir (pa / 128)).isSome = true ∧
  s.outstanding (pa / 8) h.c = none ∧ s.mixedBad (pa / 8) n = false

/-- HomeRequests: each full/empty form, atomic and compare-and-swap at an aligned word. -/
theorem wit_HomeRequests :
    (∀ q ∈ feRows, WitS (st (mk q.1) (.sc va0) (.sc 5)) q.1 fun s h => bare s h va0 ∧ (h.addr va0).toNat % 8 = 0 ∧ Xlt s h (h.addr va0) q.2.2) ∧
    (∀ row ∈ amoRows, WitS (st (mk row 1) (.sc va0) (.sc 5)) row fun s h => s.trails h = false ∧ Live h va0 5 0 ∧ commitReady h s = true ∧
      Xlt s h (h.addr va0) .both) ∧
    (∀ row ∈ [Instr.casW, .casD], WitS (st (mk row) (.sc va0) (.sc 5) (.sc 6)) row fun s h => s.trails h = false ∧ h.pOn = true ∧ h.a = some va0 ∧
      (h.tok .b).scalar = some 5 ∧ h.tokC.scalar = some 6 ∧ commitReady h s = true ∧ Xlt s h (h.addr va0) .both) ∧
    WitS (st (mk .casQ) (.sc va0) vtok vtok) .casQ (fun s h => s.trails h = false ∧ h.pOn = true ∧ h.a = some va0 ∧ (quad (h.tok .b)).isSome ∧
      (quad h.tokC).isSome ∧ commitReady h s = true ∧ (h.addr va0).toNat % 16 = 0 ∧ Xlt s h (h.addr va0) .both) := by
  refine ⟨fun q hq => ?_, fun row hq => ?_, fun row hq => ?_, witS (by decide +kernel)⟩
  · fin_cases hq <;> exact bareOk (by decide +kernel)
  · fin_cases hq <;> exact witS (by decide +kernel)
  · fin_cases hq <;> exact witS (by decide +kernel)

/-- The same at a home that serves it; a committing form that is held back; a form that waits, in a handler; one whose operand is null. -/
theorem wit_HomeRequests_home :
    (∀ row ∈ [Instr.ldfw, .ldfwe, .ldfn, .ldfne, .stfn, .fepurge, .fefill], WitS (stk (st (mk row) (.sc 0x100) (.sc 5))) row fun s h => Live h 0x100 (h.bb.getD 0) 0 ∧ Strong s h [0x100 / 8] ∧
      s.xlate h.c h.ten h.b.bad (h.addr 0x100) .both = .ok 0x100 1 1 ∧ ServedAt s h 0x100 8 ∧ s.drained h.c h.ctx.id .sys = true ∧
      (feServed row (s.full (0x100 / 8)) (s.word (0x100 / 8)) 5).isSome = true) ∧
    (∀ row ∈ amoRows ++ [.casW, .casD], WitS (stk (st (mk row 1) (.sc 0x100) (.sc 5) (.sc 6))) row fun s h => Strong s h [0x100 / 8] ∧ commitReady h s = true ∧
      s.xlate h.c h.ten h.b.bad (h.addr 0x100) .both = .ok 0x100 1 1 ∧ ServedAt s h 0x100 8) ∧
    WitS (stk (st (mk .casQ) (.sc 0x100) vtok vtok)) .casQ (fun s h => Strong s h [0x100 / 8, 0x100 / 8 + 1] ∧ ServedAt s h 0x100 16 ∧ s.mixedBad (0x100 / 8 + 1) 16 = false) ∧
    (∀ row ∈ amoRows ++ [.casW, .stfn, .ldfne, .fefill, .harvest], WitS (notYet (st (mk row 1) (.sc va0) (.sc 5) (.sc 6))) row fun s h => h.e.phase ≠ .held ∧
      s.trails h = false ∧ commitReady h s = false) ∧
    (∀ row ∈ [Instr.ldfw, .ldfwe, .stfw], WitS (withCtx (st (mk row) (.sc va0) (.sc 5)) fun y => { y with hnd := true }) row fun s h => s.trails h = false ∧
      h.e.phase ≠ .held ∧ Live h va0 (h.bb.getD 0) 0 ∧ h.ctx.hnd = true) ∧
    (∀ row ∈ feRows.map Prod.fst ++ amoRows, WitS (st (mk row) .null (.sc 5)) row fun s h => s.trails h = false ∧ h.e.phase ≠ .held ∧ Nulled h) := by
  refine ⟨fun q hq => ?_, fun row hq => ?_, witS (by decide +kernel), fun row hq => ?_, fun row hq => ?_, fun row hq => ?_⟩
  all_goals (try simp only [amoRows, feRows, List.map, List.cons_append, List.nil_append] at hq); fin_cases hq <;> exact witS (by decide +kernel)

/-- Harvest: without privilege; misaligned; 0 and 65 pages; 1 and 64 pages of the partition's stacks. -/
theorem wit_Harvest :
    WitS (asUser (st (mk .harvest) (.sc 0) (.sc 1))) .harvest (fun s h => s.trails h = false ∧ Live h 0 1 0 ∧ commitReady h s = true ∧ s.privileged h.ten = false) ∧
    WitS (st (mk .harvest) (.sc 1) (.sc 1)) .harvest (fun s h => s.trails h = false ∧ Live h 1 1 0 ∧ commitReady h s = true ∧ s.privileged h.ten = true) ∧
    (∀ n ∈ [(0 : Word), 65], WitS (st (mk .harvest) (.sc 0) (.sc n)) .harvest fun s h => s.trails h = false ∧ Live h 0 n 0 ∧ commitReady h s = true ∧
      s.privileged h.ten = true ∧ (n.toNat = 0 ∨ 64 < n.toNat)) ∧
    (∀ n ∈ [(1 : Word), 64], WitS (st (mk .harvest) (.sc 0) (.sc n)) .harvest fun s h => s.trails h = false ∧ Live h 0 n 0 ∧ commitReady h s = true ∧
      s.privileged h.ten = true ∧ ∀ i < n.toNat, s.partStack (s.partOf h.ten) (65536 * i) = true ∧ s.homeFenced (65536 * i) = false ∧
      s.homeFenced (65536 * i + 128) = false) ∧
    WitS (st (mk .harvest) (.sc (BitVec.ofNat 64 pa0)) (.sc 1)) .harvest (fun s h => s.trails h = false ∧ Live h (BitVec.ofNat 64 pa0) 1 0 ∧ commitReady h s = true ∧
      h.e.phase ≠ .held ∧ s.privileged h.ten = true ∧ s.partStack (s.partOf h.ten) pa0 = false) := by
  refine ⟨witS (by decide +kernel), witS (by decide +kernel), fun n hn => ?_, fun n hn => ?_, witS (by decide +kernel)⟩ <;> fin_cases hn <;> exact witS (by decide +kernel)

/-! ## Witnesses: registers, streams, system registers -/

/-- A bound stream of n words from the vault's first word on: a pop, or a push. -/
def strm (n : Nat) (push : Bool) : Stream :=
  { bound := true, desc := BitVec.ofNat 256 (va0.toNat + n * 2 ^ 64 + 3 * 2 ^ 96 + (if push then 2 ^ 104 else 0)) }
def bind6 (s : State) (x : Stream) : State := withCtx s fun y => { y with s6 := x }

/-- RegistersAndStreams: the first and last register of each file; a pop with its words and a push; either against the direction. -/
theorem wit_RegistersAndStreams :
    (∀ fn ∈ [(0 : BitVec 5), 15, 16, 23], Wit (st (mk .read fn)) .read (fun h => h.bound = none ∧ h.pOn = true) ∧
      Wit (st (mk .write fn) (.sc 5)) .write fun h => h.bound = none) ∧
    Wit (bind6 (st (mk .read 22)) (strm 4 true)) .read (fun h => h.bound = some (strm 4 true) ∧ h.pOn = true ∧ (strm 4 true).push = true) ∧
    Wit (bind6 (st (mk .write 22) (.sc 5)) (strm 4 false)) .write (fun h => h.bound = some (strm 4 false) ∧ h.pOn = true ∧ (strm 4 false).push = false ∧
      (h.tok .a).vector.2 ≠ BitVec.allOnes 64) ∧
    WitS (bind6 (got (st (mk .read 22)) 4 fun i => BitVec.ofNat 64 i) (strm 4 false)) .read (fun s h => h.bound = some (strm 4 false) ∧ h.pOn = true ∧ Clean s h ∧
      popReady h s = true ∧ (strm 4 false).next = 4 ∧ (strm 4 false).push = false ∧
      ∀ i < 4, Xlt s h ((strm 4 false).elemVa i) .load ∧ wordIn h.e.words ((pa0 + 8 * i) / 8) = some (BitVec.ofNat 64 i)) ∧
    WitS (bind6 (st (mk .write 22) vtok) (strm 4 true)) .write (fun s h => h.bound = some (strm 4 true) ∧ h.pOn = true ∧ (strm 4 true).push = true ∧
      (∃ i < 8, (laneAt (h.tok .a).vector 8 i).isSome) ∧ ∀ i < 4, Xlt s h ((strm 4 true).elemVa i) .store) := by
  refine ⟨fun fn hf => ?_, wit (by decide +kernel), wit (by decide +kernel), witS (by decide +kernel), witS (by decide +kernel)⟩
  fin_cases hf <;> exact ⟨wit (by decide +kernel), wit (by decide +kernel)⟩

/-- StreamForms: sbind with a good and a bad descriptor read, and misaligned; sfree, sstat; streams bound and unbound. -/
theorem wit_StreamForms :
    WitS (got (st (mk .sbind) (.sc va0)) 4 fun i => if i = 1 then 0x300000004 else 0) .sbind (fun s h => Live h va0 0 0 ∧ Clean s h ∧
      ∀ i < 4, Xlt s h (va0 + BitVec.ofNat 64 (8 * i)) .load ∧ (wordIn h.e.words ((pa0 + 8 * i) / 8)) = some (if i = 1 then 0x300000004 else 0)) ∧
    (⟨true, (0 : Word) ++ (0 : Word) ++ (0x300000004 : Word) ++ (0 : Word), 0, false⟩ : Stream).descOk = true ∧
    (⟨true, (0 : Word) ++ (0 : Word) ++ (0x400000004 : Word) ++ (0 : Word), 0, false⟩ : Stream).descOk = false ∧
    WitS (st (mk .sbind) (.sc 1)) .sbind (fun s h => Live h 1 0 0 ∧ s.trails h = false) ∧
    (∀ row ∈ [Instr.sfree, .sstat], Wit (st (mk row 1)) row fun h => h.pOn = true) ∧
    ({} : Stream).bound = false ∧ (strm 4 true).bound = true ∧ (strm 4 true).pos < 2 ^ 48 := by
  refine ⟨witS (by decide +kernel), by decide, by decide, witS (by decide +kernel), fun row hr => ?_, rfl, rfl, by decide⟩
  fin_cases hr <;> exact wit (by decide +kernel)

/-- SystemRegisters: srrd; srwr of each kind of index, with and without privilege. -/
theorem wit_SystemRegisters : (∀ n < 16, Wit (st (mk .srrd (BitVec.ofNat 5 n))) .srrd fun h => h.pOn = true) ∧
    (∀ n < 16, Wit (st (mk .srwr (BitVec.ofNat 5 (n + 16))) (.sc 5)) .srwr fun h => Live h 5 0 0 ∧ h.fn - 16 = n ∧
      (st (mk .srwr (BitVec.ofNat 5 (n + 16))) (.sc 5)).privileged h.ten = true) ∧
    WitS (asUser (st (mk .srwr 18) (.sc 5))) .srwr (fun s h => Live h 5 0 0 ∧ h.fn - 16 = 2 ∧ s.privileged h.ten = false) := by
  have h1 : ∀ n < 16, ((st (mk .srrd (BitVec.ofNat 5 n))).here.any fun h => decide (h.e.insn.row = .srrd ∧ (st (mk .srrd (BitVec.ofNat 5 n))).mayFire h = true ∧
      h.pOn = true)) = true := by decide +kernel
  have h2 : ∀ n < 16, ((st (mk .srwr (BitVec.ofNat 5 (n + 16))) (.sc 5)).here.any fun h => decide (h.e.insn.row = .srwr ∧
      (st (mk .srwr (BitVec.ofNat 5 (n + 16))) (.sc 5)).mayFire h = true ∧ Live h 5 0 0 ∧ h.fn - 16 = n ∧
      (st (mk .srwr (BitVec.ofNat 5 (n + 16))) (.sc 5)).privileged h.ten = true)) = true := by decide +kernel
  exact ⟨fun n hn => wit (h1 n hn), fun n hn => wit (h2 n hn), witS (by decide +kernel)⟩

/-- SystemForms: each form, with privilege where it needs it, and the privileged ones without; ctrrd of each kind of number. -/
theorem wit_SystemForms : Wit (st (mk .brk)) .brk (fun h => h.pOn = true) ∧ Wit (st (mk .tlbinv) (.sc 5)) .tlbinv (fun h => Live h 5 0 0) ∧
    WitS (st (mk .tlbinva)) .tlbinva (fun s h => h.pOn = true ∧ s.privileged h.ten = true) ∧
    (∀ q ∈ [(Instr.dcflush, Acc.rdOrWr), (.icinv, .rdOrX), (.dcinv, .rdOrWr)], WitS (st (mk q.1) (.sc va0)) q.1 fun s h => Live h va0 0 0 ∧
      s.privileged h.ten = true ∧ Xlt s h va0 q.2) ∧
    (∀ a ∈ [(6 : Word), 7], WitS (st (mk .ptload) (.sc a) (.sc va0)) .ptload fun s h => Live h a va0 0 ∧ s.privileged h.ten = true ∧
      ∀ i < 136, Xlt s h (va0 + BitVec.ofNat 64 (8 * i)) .load) ∧
    (∀ a ∈ [(0 : Word), 5, 0x3FF, 0xFFFF, 0x10000], WitS (st (mk .ctrrd) (.sc a)) .ctrrd fun s h => Live h a 0 0 ∧ s.privileged h.ten = true) ∧
    (∀ row ∈ [Instr.tlbinva, .dcinv, .ptload, .ctrrd], WitS (asUser (st (mk row) (.sc 6))) row fun s h => Live h (h.a.getD 0) (h.bb.getD 0) 0 ∧ s.privileged h.ten = false) := by
  refine ⟨wit (by decide +kernel), wit (by decide +kernel), witS (by decide +kernel), fun q hq => ?_, fun q hq => ?_, fun q hq => ?_, fun q hq => ?_⟩ <;>
    fin_cases hq <;> exact witS (by decide +kernel)

/-! ## Witnesses: threads, groups, maps, engines, matrix -/

/-- ThreadRequests: spawn at its own core; a send to a continuation of logical core 0, with one payload register and with four; bar. -/
theorem wit_ThreadRequests :
    (∀ row ∈ [Instr.spawn, .spawnw], WitS (st (mk row 0 0 0 0 0x3210) (.sc 64) (.sc 0)) row fun s h => Strong s h [] ∧ Live h 64 0 0 ∧ spawnReady h s = true ∧
      h.ctx.hnd = false ∧ s.physCore (s.partOf h.ten) 0 = some 0) ∧
    (∀ row ∈ [Instr.send, .sendNw], ∀ sel ∈ [(0 : BitVec 16), 0x3210], WitS (st (mk row 0 0 0 0 sel) (.sc 0x80100000004)) row fun s h => Strong s h [] ∧
      Live h 0x80100000004 0 0 ∧ sendReady h s = true ∧ h.ctx.hnd = false ∧ contOk 0x80100000004 (payloadCount h.e.insn.x.sel) = true ∧
      (s.physCore (s.partOf h.ten) (contCore 0x80100000004)).isSome = true) ∧
    (∀ row ∈ [Instr.bar, .barNw], WitS (withCtx (st (mk row) (.sc 5)) fun y => { y with grps := [some 5, none, none, none] }) row fun s h => s.trails h = false ∧
      Strong s h [] ∧ Live h 5 0 0 ∧ h.ctx.hnd = false ∧ h.b.loadsBelow s.cycle h.lsid = true ∧ h.ctx.groups.contains 5 = true ∧ h.b.curTok h.ctx = none) ∧
    (∀ row ∈ [Instr.spawn, .spawnw, .send, .sendNw], WitS (notYet (st (mk row) (.sc 64))) row fun s h => h.e.phase ≠ .held ∧ s.trails h = false ∧
      commitReady h s = false) ∧
    (∀ row ∈ [Instr.spawnw, .send, .bar], WitS (withCtx (st (mk row) (.sc 64)) fun y => { y with hnd := true }) row fun s h => h.e.phase ≠ .held ∧ s.trails h = false ∧
      Live h 64 (h.bb.getD 0) 0 ∧ h.ctx.hnd = true) ∧
    (∀ row ∈ [Instr.bar, .barNw], ∀ a ∈ [(4096 : Word), 4095], WitS (st (mk row) (.sc a)) row fun s h => h.e.phase ≠ .held ∧ s.trails h = false ∧ Live h a 0 0 ∧
      a.toNat ∉ h.ctx.groups) ∧
    (∀ row ∈ [Instr.spawn, .send, .bar], WitS (st (mk row) .null (.sc 0)) row fun s h => h.e.phase ≠ .held ∧ s.trails h = false ∧ Nulled h) := by
  refine ⟨fun q hq => ?_, fun q hq q' hq' => ?_, fun q hq => ?_, fun q hq => ?_, fun q hq => ?_, fun q hq q' hq' => ?_, fun q hq => ?_⟩ <;> fin_cases hq <;> (try fin_cases hq') <;> exact witS (by decide +kernel)

/-- Tenant 1's message buffers laid out so that the thread's is at the vault's first word, with n entries. -/
def buffered (n : Nat) (s : State) : State :=
  ((withCtx s fun y => { y with mdl := false }).modTen 1 fun x => { x with msgBase := va0 - 1024 }).putWord (pa0 / 8) (bufWord 0 n) 0xFF
/-- The slot of the thread at h, which has no message delivered, is its own. -/
abbrev NoMsg (s : State) (h : Here) : Prop := Quiet s h.b ∧ h.pOn = true ∧ h.ctx.hnd = false ∧ h.ctx.mdl = false ∧ h.b.ponr = false ∧ (s.core h.c).paired = false ∧
  h.ctx.hold = .run
/-- Receive: with a message; without one and without a number, with one due, with a buffer that holds none and one; the same for recv.nw;
yield. -/
theorem wit_Receive :
    Wit (st (mk .recv)) .recv (fun h => h.pOn = true ∧ h.ctx.hnd = false ∧ h.ctx.mdl = true) ∧
    WitS (withCtx (st (mk .recv)) fun y => { y with mdl := false, tag := 2048 }) .recv (fun s h => NoMsg s h ∧ h.ctx.due = none ∧ h.ctx.num = 0) ∧
    WitS (withCtx (st (mk .recv)) fun y => { y with mdl := false, due := some ⟨0, 0, [], 1, none, 0, none, none, true, []⟩ }) .recv (fun s h => NoMsg s h ∧ h.ctx.due.isSome = true) ∧
    (∀ n ∈ [0, 1], WitS (buffered n (st (mk .recv))) .recv fun s h => NoMsg s h ∧ h.ctx.due = none ∧ h.b.taken = none ∧ h.ctx.num ≠ 0 ∧
      s.bufferPa h.ctx.tag.toNat = some (pa0, 1) ∧ s.verdict h.ten (8 * (pa0 / 8)) 1 = .ok ∧ bufCount (s.word (pa0 / 8)) = n) ∧
    Wit (withCtx (st (mk .recv)) fun y => { y with hnd := true }) .recv (fun h => h.pOn = true ∧ h.ctx.hnd = true) ∧
    Wit (st (mk .recv 0 0 0 0 0 [] 0 .ifTrue) (p := .sc 0)) .recv (fun h => h.pOn = false) ∧
    Wit (st (mk .recvNw)) .recvNw (fun h => h.pOn = true ∧ h.ctx.mdl = true) ∧
    Wit (withCtx (st (mk .recvNw)) fun y => { y with mdl := false }) .recvNw (fun h => h.pOn = true ∧ h.ctx.mdl = false) ∧
    Wit (st (mk .yield)) .yield (fun h => h.pOn = true) :=
  ⟨wit (by decide +kernel), witS (by decide +kernel), witS (by decide +kernel), fun q hq => by fin_cases hq <;> exact witS (by decide +kernel),
    by and_intros <;> exact wit (by decide +kernel)⟩

/-- No number is free where all are in use. -/
theorem test_lowestFree_none : lowestFree (List.range 2048) 1 2047 = none ∧ lowestFree (List.range 4096) 0 4095 = none := by
  constructor <;> simp only [lowestFree, List.find?_eq_none, List.mem_map, List.mem_range, Bool.not_eq_true'] <;>
    rintro x ⟨n, hn, rfl⟩ <;> simp <;> omega

/-- A thread without a context number. -/
def unnumbered (s : State) : State := withCtx s fun y => { y with tag := 2048 }
/-- Every set in use. -/
def allSets : Tab SetObj := (List.range 4096).map fun n => (n, {})
/-- Tenant 1 changed. -/
def withTen (s : State) (f : Tenant → Tenant) : State := s.modTen 1 f

/-- GroupsAndLaunches: mkcont with an operand of 64, with a number, without one where one is free and where none is; gnew likewise; gjoin,
gleave of a set held and not held, a set number of 4096; launch and launchi at an aligned record. -/
theorem wit_GroupsAndLaunches :
    (∀ a ∈ [(64 : Word), 63], WitS (st (mk .mkcont) (.sc a)) .mkcont fun s h => Live h a 0 0 ∧ (s.core h.c).paired = false ∧ (s.core h.c).logical < 4096 ∧ h.k < 16 ∧
      h.ctx.num ≠ 0) ∧
    WitS (unnumbered (st (mk .mkcont) (.sc 63))) .mkcont (fun s h => Live h 63 0 0 ∧ h.ctx.num = 0 ∧ h.b.taken = none ∧
      (s.ten? h.ten).map (fun x => lowestFree x.numbers 1 2047) = some (some 2)) ∧
    WitS (withTen (unnumbered (st (mk .mkcont) (.sc 63))) fun x => { x with numbers := List.range 2048 }) .mkcont (fun s h => Live h 63 0 0 ∧ h.ctx.num = 0 ∧
      h.b.taken = none ∧ h.ten = 1) ∧
    (∀ l, ((withTen (unnumbered (st (mk .mkcont) (.sc 63))) fun x => { x with numbers := l }).ten? 1).map Tenant.numbers = some l) ∧
    WitS (st (mk .gnew)) .gnew (fun s h => s.trails h = false ∧ h.pOn = true ∧ (s.ten? h.ten).map (fun x => lowestFree (x.sets.map (·.1)) 0 4095) = some (some 0)) ∧
    WitS (withTen (st (mk .gnew)) fun x => { x with sets := allSets }) .gnew (fun s h => s.trails h = false ∧ h.pOn = true ∧ h.ten = 1) ∧
    (∀ l, ((withTen (st (mk .gnew)) fun x => { x with sets := l }).ten? 1).map Tenant.sets = some l) ∧ allSets.map (·.1) = List.range 4096 ∧
    (∀ a ∈ [(0 : Word), 4095], Wit (st (mk .gjoin) (.sc a)) .gjoin fun h => Live h a 0 0 ∧ a.toNat < 4096 ∧
      h.ctx.groups.length + (joinsOf h.ctx.groups (h.joins a.toNat)).length ≤ 4) ∧
    Wit (withCtx (st (mk .gleave) (.sc 5)) fun y => { y with grps := [some 5, none, none, none] }) .gleave (fun h => Live h 5 0 0 ∧ 5 ∈ h.ctx.groups) ∧
    Wit (st (mk .gleave) (.sc 5)) .gleave (fun h => Live h 5 0 0 ∧ 5 ∉ h.ctx.groups) ∧
    (∀ row ∈ [Instr.gjoin, .gleave], Wit (st (mk row) (.sc 4096)) row fun h => Live h 4096 0 0) ∧
    WitS (st (mk .launch) (.sc va0) (.sc 7)) .launch (fun s h => Live h va0 7 0 ∧ (h.addr va0).toNat % 64 = 0 ∧ Xlt s h (h.addr va0) .load) ∧
    WitS (st (mk .launchi) (.sc va0) (.sc (va0 + 15))) .launchi (fun s h => Live h va0 (va0 + 15) 0 ∧ (h.addr va0).toNat % 64 = 0 ∧ (va0 + 15).toNat < 2 ^ 57 ∧
      Xlt s h (h.addr va0) .load ∧ Xlt s h (va0 + 8) .load) := by
  refine ⟨fun q hq => ?_, witS (by decide +kernel), witS (by decide +kernel), fun _ => rfl, witS (by decide +kernel), witS (by decide +kernel), fun _ => rfl,
    by simp [allSets, Function.comp_def], fun q hq => ?_, wit (by decide +kernel),
    wit (by decide +kernel), fun q hq => ?_, witS (by decide +kernel), witS (by decide +kernel)⟩ <;> fin_cases hq <;>
    first | exact witS (by decide +kernel) | exact wit (by decide +kernel)

/-- A map of two buckets, in tenant 1's handle 0. -/
def map0 : MapObj := { seed := 1, thresh := 2, l := 1, s := 0, count := 0, buckets := [(0, { lstamp := 1, chain := [] }), (1, { lstamp := 1, chain := [] })] }
def withMap (s : State) (m : MapObj) : State := withTen s fun x => { x with maps := [(0, m)] }

/-- A queue descriptor of eight words, its second word v1. -/
def descWords (v1 : Word) (i : Nat) : Word := if i = 1 then v1 else if i = 7 then va0 else 0
def setDesc (v1 : Word) : State := got (st (mk .ecfg) (.sc 0) (.sc va0)) 8 (descWords v1)

/-- MapAndEngineForms: a live map's handle and a free one; mcreate with its words, in its limits and out of them; ego, ecancel and ecfg RESUME to engine 2, VQ 15 or 0,
held back, with a bad operand and a misaligned one; ecfg SET with two descriptors it takes and one it does not. -/
theorem wit_MapAndEngineForms :
    (∀ row ∈ [Instr.mprobe, .minsert, .mupsert, .mremove], WitS (withMap (st (mk row) (.sc 0) (.sc 7) (.sc 8)) map0) row (fun s h => Strong s h [] ∧
        Live h 0 7 (h.cc.getD 0) ∧ commitReady h s = true ∧ (s.mapAt h.ten 0).isSome = true) ∧
      WitS (st (mk row) (.sc 4095) (.sc 7) (.sc 8)) row fun s h => s.trails h = false ∧ Live h 4095 7 (h.cc.getD 0) ∧ commitReady h s = true ∧ h.e.phase ≠ .held ∧ s.mapAt h.ten 4095 = none) ∧
    (∀ row ∈ [Instr.mdestroy, .mstat], WitS (withMap (st (mk row) (.sc 0)) map0) row fun s h => Strong s h [] ∧ Live h 0 0 0 ∧ commitReady h s = true ∧
      (s.mapAt h.ten 0).isSome = true) ∧
    (∀ w ∈ [(1 : Word), 0x1807], WitS (got (st (mk .mcreate) (.sc va0)) 2 fun i => if i = 1 then w else 9) .mcreate fun s h => Clean s h ∧ Live h va0 0 0 ∧
      commitReady h s = true ∧ va0.toNat % 16 = 0 ∧ Xlt s h va0 .load ∧ Xlt s h (va0 + 8) .load ∧ wordIn h.e.words (pa0 / 8) = some 9 ∧
      wordIn h.e.words ((pa0 + 8) / 8) = some w ∧ 1 ≤ w.toNat % 256 ∧ w.toNat % 256 ≤ 7 ∧ w.toNat / 256 ≤ 24) ∧
    (∀ a ∈ [(0 : Word), 0xF2], WitS (st (mk .ego) (.sc a) (.sc va0)) .ego (fun s h => Strong s h [] ∧ Live h a va0 0 ∧ commitReady h s = true ∧ a.toNat < 256 ∧
        a.toNat % 16 < 3 ∧ ∀ i < 8, Xlt s h (va0 + BitVec.ofNat 64 (8 * i)) .load) ∧
      WitS (st (mk .ecancel) (.sc a) (.sc va0)) .ecancel (fun s h => Live h a va0 0 ∧ Xlt s h va0 .both) ∧
      WitS (st (mk .ecfg) (.sc (a + 256)) (.sc va0)) .ecfg fun s h => s.trails h = false ∧ (s.core h.c).paired = false ∧ Live h (a + 256) va0 0 ∧ loadReady h s = true ∧
        (a + 256).toNat / 256 = 1 ∧ (a + 256).toNat % 16 < 3 ∧ Xlt s h va0 .both) ∧
    (∀ w ∈ [(0 : Word), 8, 0x1908], WitS (got (st (mk .mcreate) (.sc va0)) 2 fun i => if i = 1 then w else 9) .mcreate fun s h => Clean s h ∧ h.e.phase ≠ .held ∧ Live h va0 0 0 ∧
      Xlt s h va0 .load ∧ Xlt s h (va0 + 8) .load ∧ wordIn h.e.words ((pa0 + 8) / 8) = some w ∧ ¬(1 ≤ w.toNat % 256 ∧ w.toNat % 256 ≤ 7 ∧ w.toNat / 256 ≤ 24)) ∧
    (∀ row ∈ [Instr.minsert, .mupsert, .mremove, .mdestroy, .ego], WitS (notYet (withMap (st (mk row) (.sc 0) (.sc 0) (.sc 0)) map0)) row fun s h => h.e.phase ≠ .held ∧
      s.trails h = false ∧ Live h 0 0 0 ∧ commitReady h s = false) ∧
    (∀ a ∈ [(3 : Word), 512], (∀ row ∈ [Instr.ego, .ecancel, .ecfg], WitS (st (mk row) (.sc a) (.sc 0)) row fun s h => s.trails h = false ∧ h.e.phase ≠ .held ∧ Live h a 0 0) ∧
      ∀ row ∈ [Instr.ego, .ecancel, .ecfg], WitS (st (mk row) (.sc 0) (.sc 4)) row fun s h => s.trails h = false ∧ h.e.phase ≠ .held ∧ Live h 0 4 0) ∧
    (∀ v1 ∈ [(0x104 : Word), 0x80F10, 0], WitS (setDesc v1) .ecfg fun s h => Clean s h ∧ loadReady h s = true ∧ Live h 0 va0 0 ∧
      (∀ i < 8, Xlt s h (va0 + BitVec.ofNat 64 (8 * i)) .load ∧ wordIn h.e.words ((pa0 + 8 * i) / 8) = some (descWords v1 i)) ∧ Xlt s h va0 .both) := by
  refine ⟨fun q hq => ?_, fun q hq => ?_, fun q hq => ?_, fun q hq => ?_, fun q hq => ?_, fun q hq => ?_, fun q hq => ⟨fun q' hq' => ?_, fun q' hq' => ?_⟩, fun q hq => ?_⟩ <;> (try fin_cases hq') <;> fin_cases hq <;>
    first | exact witS (by decide +kernel) | exact ⟨witS (by decide +kernel), witS (by decide +kernel)⟩ |
      exact ⟨witS (by decide +kernel), witS (by decide +kernel), witS (by decide +kernel)⟩

/-- Tile 0 valid and tenant 2's, as the block began. -/
def foreign (s : State) : State := withBlk s fun b => { b with accown := 0x8800 }
abbrev isBad (s : State) (h : Here) : Prop :=
  let b : Block := (s.slot h.c (h.lead (s.core h.c).paired)).blk.getD h.b
  Quiet s h.b ∧ bitAt b.accown (16 * (h.fn % 4) + 15) = true ∧ b.accown.toNat / 2 ^ (16 * (h.fn % 4) + 10) % 32 ≠ h.ten

/-- TileForms: a free tile and another tenant's; a gang of one; mgath and mldb with their words; mst of each tile. -/
theorem wit_TileForms :
    (∀ row ∈ [Instr.mmaEfp8, .mmaE4, .mmaE5, .mmaI8, .mmaBf, .mmaH, .mzero], WitS (st (mk row) (.sc 0xFFFF)) row (fun s h => Live h (h.a.getD 0) 0 0 ∧ ¬isBad s h ∧ h.b.ponr = false) ∧
      WitS (foreign (st (mk row) (.sc 0))) row fun s h => Live h (h.a.getD 0) 0 0 ∧ isBad s h ∧ h.b.ponr = false ∧ (s.core h.c).paired = false) ∧
    WitS (st (mk .mgang) (.sc 1)) .mgang (fun s h => Live h 1 0 0 ∧ ¬isBad s h ∧ (1 : Word).toNat < 2 ^ 11 ∧ (1 : Word).toNat.testBit (h.c % 8) = true ∧ (1 : Word).toNat.testBit ((1 : Word).toNat / 256 % 8) = true ∧
      ∀ n < 8, (1 : Word).toNat.testBit n = true → (s.core (h.c / 8 * 8 + n)).tag = (s.core h.c).tag) ∧
    (∀ a ∈ [(0 : Word), 0x101, 0x800], WitS (st (mk .mgang) (.sc a)) .mgang fun s h => Live h a 0 0 ∧ ¬isBad s h ∧
      ¬(a.toNat < 2 ^ 11 ∧ a.toNat.testBit (h.c % 8) = true ∧ a.toNat.testBit (a.toNat / 256 % 8) = true)) ∧
    (∀ q ∈ [Instr.mst, .mstBf], (∀ p ∈ [true, false], WitS (withBlk (foreign (st (mk q) (.sc va0))) fun b => { b with ponr := p }) q fun s h => s.trails h = false ∧
        Live h va0 0 0 ∧ h.drawsBelow s.cycle h.i = some 0 ∧ isBad s h ∧ h.b.ponr = p) ∧
      WitS (st (mk q) (.sc (va0 + 1))) q (fun s h => s.trails h = false ∧ Live h (va0 + 1) 0 0 ∧ ¬isBad s h ∧ (h.addr (va0 + 1)).toNat % 64 = 1) ∧
      WitS (st (mk q) (.sc 0xFFFFFFFFFFFFF000)) q fun s h => s.trails h = false ∧ Live h 0xFFFFFFFFFFFFF000 0 0 ∧ ¬isBad s h ∧
        s.xlate h.c h.ten h.b.bad (h.addr 0xFFFFFFFFFFFFF000) .store = .fault) ∧
    (∀ row ∈ [Instr.mgath, .mldb], WitS (st (mk row) (.sc 8) (.vec 0 0)) row fun s h => s.trails h = false ∧ h.e.phase ≠ .held ∧ h.pOn = true ∧ h.a = some 8 ∧
      (row = .mgath → h.vb.2 ≠ BitVec.allOnes 64)) ∧
    WitS (got (st (mk .mgath) (.sc va0) (.vec (BitVec.allOnes 512) 0)) 2 fun i => if i = 1 then 0x1000100000040 else va0) .mgath (fun s h => Clean s h ∧ h.pOn = true ∧
      h.vb.2 ≠ BitVec.allOnes 64 ∧ Live h va0 (BitVec.allOnes 64) 0 ∧ loadReady h s = true ∧ Xlt s h va0 .load ∧ Xlt s h (va0 + 8) .load ∧ wordIn h.e.words (pa0 / 8) = some va0 ∧
      wordIn h.e.words ((pa0 + 8) / 8) = some 0x1000100000040 ∧ (GDesc.of va0 0x1000100000040).ok = true ∧ ∀ r < 32, h.rowIdx r = 0xFFFF) ∧
    WitS (got (st (mk .mldb) (.sc va0)) 48 fun i => if i = 0 then va0 + 256 else if i = 1 then 0x0101 else BitVec.ofNat 64 i) .mldb (fun s h => Clean s h ∧ Live h va0 0 0 ∧
      loadReady h s = true ∧ Xlt s h va0 .load ∧ Xlt s h (va0 + 8) .load ∧ wordIn h.e.words (pa0 / 8) = some (va0 + 256) ∧ wordIn h.e.words ((pa0 + 8) / 8) = some 0x0101 ∧
      (va0 + 256).toNat % 32 = 0 ∧ ∀ i < 16, Xlt s h (va0 + 256 + BitVec.ofNat 64 (8 * i)) .load ∧ (wordIn h.e.words ((pa0 + 256 + 8 * i) / 8)).isSome) ∧
    (∀ q ∈ [(Instr.mst, 4096), (.mstBf, 2048)], WitS (st (mk q.1) (.sc va0)) q.1 fun s h => s.trails h = false ∧ Live h va0 0 0 ∧ drawReady h s = true ∧
      bitAt h.b.accown (16 * (h.fn % 4) + 15) = false ∧ h.b.ponr = false ∧ (h.addr va0).toNat % 128 = 0 ∧ Xlt s h (h.addr va0) .store ∧
      Xlt s h (h.addr va0 + BitVec.ofNat 64 (q.2 - 1)) .store) := by
  refine ⟨fun q hq => ?_, witS (by decide +kernel), fun q hq => ?_, fun q hq => ⟨fun p hp => ?_, ?_, ?_⟩, fun q hq => ?_, witS (by decide +kernel), witS (by decide +kernel), fun q hq => ?_⟩ <;>
    fin_cases hq <;> (try fin_cases hp) <;> first | exact witS (by decide +kernel) | exact ⟨witS (by decide +kernel), witS (by decide +kernel)⟩

/-! ## Witnesses: blocks and steps -/

theorem wit_EncodeDecode : (mk .add).wf = true ∧ headTn 0b0010000_00_00_00000 = 0 ∧ decodeOne 0b0010000_00_00_00000 [] 0 = .ok (mk .add) := by decide

/-- StepRunsDecoded: core 0 about to issue, the first instruction of its first slot firing; the placed instruction firing; a device step on
the agenda; a tick with and without an edge due; a form that takes no issue cycle. -/
theorem wit_StepRunsDecoded :
    (let s := State.reset.withInsn (mk .add)
     (s.agenda = [.issue 0] ∧ s.edgeDue = false ∧ s.windowEnded 0 = false ∧ (mk .add).unissued = false ∧ (s.carry 0).isNone = true ∧ (s.core 0).searched ≠ some s.cycle ∧
      ((s.slot 0 0).blk.map fun b => b.body.map Entry.carries) = some [false]) ∧ (∀ m < 16, (s.slot 0 m).drain = false ∧ (s.slot 0 m).handed = none) ∧ (s.core 0).s = 15 ∧
      ((s.slot 0 0).blk.map fun b => b.body.length) = some 1 ∧
      ∃ t, exec .add { s with focus := {} } = .next t ∧ (t.core 0).issuedAt = some t.cycle) ∧
    (let s := { withHead (st (mk .add)) fun e => { e with phase := .retry } with agenda := [.issue 0] }
     s.edgeDue = false ∧ ((s.slot 0 0).blk.map fun b => b.body.map Entry.carries) = some [true] ∧ ∃ t, exec .add { s with focus := {} } = .next t) ∧
    ((mk .halt).unissued = true ∧ ∃ t, exec .halt { State.reset.withInsn (mk .halt) with focus := {} } = .next t) ∧
    (∃ t, exec .opx { State.reset.withInsn opxInsn with focus := { i := 1 } } = .next t) ∧
    (∃ s : State, s.agenda = [.step .coreReset {}]) ∧
    (let s := { State.reset with agenda := [.tick], cycle := 1, lid := { stage := some 9 } }
     s.edgeDue = false ∧ s.clkDone = true ∧ s.lid.stage.isSome = true) ∧
    ({ State.reset with agenda := [.tick], lid := { stage := some 2 } }.edgeDue = true) := by
  refine ⟨⟨by decide +kernel, by decide +kernel, by decide +kernel, by decide +kernel, ?_⟩, ⟨by decide +kernel, by decide +kernel, of_ran (by decide +kernel)⟩,
    ⟨by decide, of_ran (by decide +kernel)⟩, of_ran (by decide +kernel), ⟨{ State.reset with agenda := [.step .coreReset {}] }, rfl⟩, by decide +kernel, by decide +kernel⟩
  obtain ⟨t, ht⟩ := of_ran (o := exec .add { State.reset.withInsn (mk .add) with focus := {} }) (by decide +kernel)
  refine ⟨t, ht, ?_⟩
  have : (match exec .add { State.reset.withInsn (mk .add) with focus := {} } with | .next t => decide ((t.core 0).issuedAt = some t.cycle) | _ => false) = true := by
    decide +kernel
  rw [ht] at this
  exact of_decide_eq_true this

/-- StepKeepsMemory: a step from a state whose memory is in its canonical form. -/
theorem wit_StepKeepsMemory : State.reset.sound = true ∧ ∃ t, step State.reset = .next t := ⟨by decide, _, rfl⟩

theorem wit_MemoryWords : State.reset.sound = true ∧ ({ State.reset with waits := [parkedStore, parkedLoad] }.sound = true) ∧ (∀ x ∈ State.reset.waits, x.word ≠ 0) ∧
    [parkedStore].find? (fun y => y.word == 0 && y.store) = some parkedStore ∧ (∀ y ∈ [parkedStore], y.word = 0 → y.store = true) ∧
    [parkedLoad].find? (fun y => y.word == 0) = some parkedLoad ∧ parkedLoad.store = false ∧ parkedLoad.q.form = .ldfwe := by decide

/-- The line of a block of one halt (Tables 3.1, 3.6): parcel 0 has B and H 1, parcel 1 is OP 0x0C, the header is 0. -/
def haltLine : BitVec 512 := 0x18008100
/-- A thread between blocks, its next block at an address, the first line of the vault that of a halt. -/
def between (pc : Word) (w : Word) : State :=
  let s := (st (mk .halt)).modCtx 0 0 fun y => { y with pc := pc }
  (s.setSlot 0 0 { s.slot 0 0 with blk := none }).putWord (pa0 / 8) w 0xFF
abbrev ReadyAt (s : State) (pc : Word) : Prop := (s.slot 0 0).blk = none ∧ (s.core 0).paired = false ∧ s.inRotation 0 0 = true ∧
  (((s.slot 0 0).ctx.any fun y => decide (y.pc = pc ∧ y.hold = .run ∧ y.late = [] ∧ y.mwait = false ∧ y.pc ∉ (s.core 0).brks)) = true) ∧ (s.slot 0 0).fetch = none
/-- The lines of the block at va0 are fetched. -/
abbrev FetchedAt (s : State) (l : BitVec 512) : Prop := (s.fetchLines 0 1 none va0 0 1 0).2 = ([l], none) ∧
  ((s.fetchLines 0 1 none va0 0 1 0).1.fetchLines 0 1 none va0 0 0 1).2 = ([], none)

/-- BlockDecode: a halt's line; a line of zeros; an address outside every region; an address that misses the TLB;
a stop that waits for the boundary; a breakpoint. -/
theorem wit_BlockDecode : ReadyAt (between va0 0x18008100) va0 ∧ FetchedAt (between va0 0x18008100) haltLine ∧ decodeBlock [haltLine] = .ok [mk .halt] ∧
    ReadyAt (between va0 0) va0 ∧ FetchedAt (between va0 0) 0 ∧ decodeBlock [0] = .error 0 ∧
    ReadyAt (between 0xFFFFFFFFFFFFFF00 0) 0xFFFFFFFFFFFFFF00 ∧ (between 0xFFFFFFFFFFFFFF00 0).fetchXl 0 1 none 0xFFFFFFFFFFFFFF00 = .fault ∧
    (between 0x100 0).fetchXl 0 1 none 0x100 = .miss ∧ ReadyAt (between 0x100 0) 0x100 ∧
    (((withCtx (between va0 0) fun y => { y with late := [(⟨15, 3⟩, 64)] }).slot 0 0).ctx.map Ctx.late) = some [(⟨15, 3⟩, 64)] ∧
    (let s := withCore (between va0 0) fun q => { q with brks := [va0] }
     s.inRotation 0 0 = true ∧ va0 ∈ (s.core 0).brks ∧ ((s.slot 0 0).ctx.map fun y => (y.pc, y.pass, y.mwait)) = some (va0, false, false)) ∧
    ((between va0 0).verdict 1 pa0 1 = .ok ∧ pa0 % 8 = 0) := by
  and_intros <;> decide +kernel

/-- A complete block of one exit, with a write of g3 and a store. -/
def completed (row : Instr) : State := withBlk (st (mk row)) fun b =>
  { b with body := [{ insn := mk row, phase := .done }], exits := [(0, 64)], regs := [(3, .sc 7), (16, vtok)], stores := [(0, false, [⟨0, 5, 0xFF, 0, 0, 0⟩])] }
theorem wit_Commit : ∀ row ∈ [Instr.br, .call, .jmp, .callr, .ret], WitHere (completed row) (fun h => (completed row).coreRuns 0 = true ∧ h.ctx.hold = .run ∧
    h.b.complete (completed row).cycle = true ∧ h.b.start ≤ (completed row).cycle ∧ h.b.mism = none ∧ h.b.again = false ∧ h.b.exits = [(0, 64)] ∧ h.e.insn.row = row ∧ h.b.acts = [] ∧ h.b.post = none ∧ h.b.uses = [] ∧ h.b.taken = none ∧ h.ctx.due = none ∧
    (∀ r ∈ h.b.regs, r.1 < 24 ∧ ∀ q ∈ h.b.regs, r.1 = q.1 → r = q) ∧ (∀ x ∈ h.b.stores, x.2.1 = false) ∧ ((completed row).core 0).paired = false ∧
    ((completed row).core 0).trace = none) := by
  intro row hr
  fin_cases hr <;> exact witHere (by decide +kernel)

/-- TakingException: a partition whose supervisor has a continuation, and one whose has none; a block past its point of no return. -/
def withScont (s : State) (v : Word) : State := s.modPart 1 fun q => { q with scont := v, tbase := va0 }
theorem wit_TakingException :
    WitHere (withScont (st (mk .brk)) 0x80100000000) (fun h => h.ctx.due = none ∧ h.b.bars = [] ∧ ((st (mk .brk)).core 0).paired = false ∧
      ((tget? (withScont (st (mk .brk)) 0x80100000000).parts 1).map fun q => (q.scont, q.tbase)) = some (0x80100000000, va0) ∧
      (withScont (st (mk .brk)) 0x80100000000).xlateNow 1 va0 .both = .ok pa0 0 1 ∧ (withScont (st (mk .brk)) 0x80100000000).sound = true ∧
      (∀ i < 36, (withScont (st (mk .brk)) 0x80100000000).verdict 1 (8 * (pa0 / 8 + i)) 1 = .ok) ∧
      ((st (mk .brk)).core 0).logical = 0 ∧ h.b.taken = none) ∧
    WitHere (withBlk (st (mk .brk)) fun b => { b with ponr := true }) (fun h => h.b.ponr = true) ∧
    WitHere (st (mk .brk)) (fun h => h.b.ponr = false ∧ ((tget? (st (mk .brk)).parts 1).map Part.scont) = some 0) :=
  ⟨witHere (by decide +kernel), witHere (by decide +kernel), witHere (by decide +kernel)⟩

/-- ReturnFromException: the fill of a context stopped in its slot, with ACT 0 to 3, and in a first-use trap; the same where the context
waits in the cache or is no more; a wait on RESUME in a vault and in a stack. -/
def stoppedAt (hold : Hold) (act : Word) : State :=
  { withCtx (between va0 0) fun y => { y with hold := hold, recPa := some pa0, recDom := 1, flt := true } with reqs := [⟨0, 4097, false, 0, .resume 1 act⟩], focus := {} }
/-- A context in the cache, none in the slot. -/
def cachedAt (act : Word) : State :=
  let s := stoppedAt (.stopped 0) act
  withCore (s.setSlot 0 0 {}) fun q => { q with cache := (s.slot 0 0).ctx.toList }
theorem wit_ReturnFromException :
    (∀ act ∈ [(0 : Word), 1, 2, 3], ∀ hold ∈ [Hold.stopped 0, .tileSave 1], let s := stoppedAt hold act
      Arrives s 4097 (.resume 1 act) ∧ ((s.holderOf 1).map fun x => (x.1, x.2.recPa, x.2.hold)) = some (0, some pa0, hold) ∧ s.slotOfCtx 1 = some (0, 0) ∧
        (∀ i < 32, s.outstanding (pa0 / 8 + i) 4096 = none ∧ s.verdict 1 (8 * (pa0 / 8 + i)) 1 = .ok) ∧ (s.slot 0 0).blk = none) ∧
    (∀ act ∈ [(0 : Word), 1], let s := cachedAt act
      Arrives s 4097 (.resume 1 act) ∧ ((s.holderOf 1).map fun x => (x.1, x.2.recPa)) = some (0, some pa0) ∧ s.slotOfCtx 1 = none ∧
        ∀ i < 32, s.outstanding (pa0 / 8 + i) 4096 = none ∧ s.verdict 1 (8 * (pa0 / 8 + i)) 1 = .ok) ∧
    (Arrives (stoppedAt .run 0) 4097 (.resume 1 0) ∧ ((stoppedAt .run 0).setSlot 0 0 {}).holderOf 1 = none) ∧
    (let w : Wait := ⟨0, false, ⟨.ldfwe, 0, 0, .resume 1 1, 0, 0, 0⟩⟩
     [w].find? (fun y => y.word == 0 && !y.store) = some w ∧ isStack 0 = true ∧ isStack pa0 = false) := by
  refine ⟨fun a ha q hq => ⟨⟨0, 0, rfl⟩, ?_⟩, fun a ha => ⟨⟨0, 0, rfl⟩, ?_⟩, ⟨⟨0, 0, rfl⟩, ?_⟩, ?_⟩
  · fin_cases ha <;> fin_cases hq <;> decide +kernel
  · fin_cases ha <;> decide +kernel
  · decide +kernel
  · decide +kernel
/-! ## Witnesses: homes and protocol engines -/

/-- The package with one thread, whose block is a halt; the same with one packet in flight and line 0 in the L2; with one event at the
protocol engines. -/
def base : State := st (mk .halt)
def flight (p : Pkt) : State := { base with reqs := [⟨1, 1, false, 0, p⟩], dirs := [{ line := 0 }] }
def queued (e : PEv) : State := { base with peq := [e] }
/-- An event for line 0 of core 0, from its thread's instruction. -/
def event (code proto : Nat) (reply : Option Reply := none) (sq : Option (Nat × Nat) := none) : PEv :=
  ⟨code, 0, 0, proto, .entry 0 0 2 0, [0], reply, sq, 0, 0, 1, false, false, []⟩
/-- Line 0 in its L2, in a state, under a table. -/
def inL2 (s : State) (proto st : Nat) (sharers : List Nat := []) (cnt : Nat := 0) (cur : Option PEv := none) : State :=
  { s with dirs := [{ line := 0, st := st, sharers := sharers, cnt := cnt, cur := cur }], ranges := [(0, { start := 0, size := 1, part := 1, dies := 3, proto := proto, mte := false })] }

theorem arrives (p : Pkt) : Arrives (flight p) 1 p := ⟨1, 0, rfl⟩

def wr0 : Wr := ⟨0, 5, 0xFF, 0, 0, 0⟩
/-- A store in core 0's store queue. -/
def sqHolds (s : State) (ph : SqPhase) : State := withCore s fun q => { q with sq := [⟨5, 9, 0, 1, 0, .st wr0, ph⟩] }
/-- Behind it, a release. -/
def relHolds (s : State) (ph : SqPhase) : State := withCore s fun q => { q with sq := [⟨5, 9, 0, 1, 0, .st wr0, ph⟩, ⟨6, 9, 0, 1, 0, .rel wr0 .core, .queued⟩] }
/-- Line 0 is in its L2, and no acquire of word 0 must be widened. -/
abbrev Served0 (s : State) : Prop := (s.dir 0).isSome = true ∧ s.mustWiden .none 0 = false
def fe0 (row : Instr) : FeReq := ⟨row, 0, 9, .none, 0, 0, 0⟩

/-- Behind a store, a store that a fence of its thread comes before. -/
def markHolds (ph : SqPhase) : State :=
  withCore base fun q => { q with sq := [⟨5, 9, 0, 1, 0, .st wr0, ph⟩, ⟨6, 9, 0, 1, 0, .mark .sys, .departed⟩, ⟨7, 9, 0, 1, 0, .st wr0, .queued⟩] }
/-- HomeSteps: a store at the head of its queue, and one behind a fence whose stores ahead are accepted or not; a release there, with nothing ahead and with a store that is not performed; a store, a full/empty form, an atomic and a compare-and-swap at the home of word 0. -/
theorem wit_HomeSteps :
    ((((sqHolds base .queued).core 0).sq.find? fun x => x.phase == .queued).map SqEnt.kind) = some (.st wr0) ∧
    (∀ ph ∈ [SqPhase.accepted, .departed], (((markHolds ph).core 0).sq.find? fun x => x.phase == .queued) = some ⟨7, 9, 0, 1, 0, .st wr0, .queued⟩ ∧
      (((markHolds ph).core 0).sq.takeWhile (fun a => a.id != 7)).map (fun a => (a.isStore, a.phase)) = [(true, ph), (false, .departed)]) ∧
    base.sound = true ∧ (flight (.ack 0 7)).sound = true ∧
    (∀ ph ∈ [SqPhase.accepted, .queued], ((relHolds base ph).core 0).sq.find? (fun x => x.id == 6) = some ⟨6, 9, 0, 1, 0, .rel wr0 .core, .queued⟩ ∧
      (((relHolds base ph).core 0).sq.takeWhile (fun a => a.id != 6)).map SqEnt.phase = [ph]) ∧
    (Arrives (flight (.store 0 5 wr0 none 1)) 1 (.store 0 5 wr0 none 1) ∧ Reaches (flight (.store 0 5 wr0 none 1)) 1 0 0 ∧
      ((flight (.store 0 5 wr0 none 1)).reqs.take 0).isEmpty = true ∧ Served0 (flight (.store 0 5 wr0 none 1)) ∧
      (flight (.store 0 5 wr0 none 1)).mixedBad 0 8 = false ∧ (∀ x ∈ ((flight (.store 0 5 wr0 none 1)).core 0).sq, x.id ≠ 5) ∧
      (∃ x, ((relHolds (flight (.store 0 6 wr0 (some .core) 1)) .accepted).core 0).sq.find? (fun x => x.id == 6) = some x ∧ x.kind = .rel wr0 .core)) ∧
    (∀ row ∈ [Instr.ldfw, .ldfwe, .ldfn, .ldfne, .stfn, .fepurge, .fefill], Arrives (flight (.fe (fe0 row))) 1 (.fe (fe0 row)) ∧
      Served0 (flight (.fe (fe0 row))) ∧ (feServed row ((flight (.fe (fe0 row))).full 0) 0 9).isSome = true) ∧
    (Reaches (flight (.fe (fe0 .stfw))) 1 0 0 ∧ (flight (.fe (fe0 .stfw))).ownAccepted .none 0 = true ∧ (flight (.fe (fe0 .stfw))).whoDrained .none = true ∧
      (flight (.fe (fe0 .stfw))).mixedBad 0 8 = false ∧ feParks .stfw ((flight (.fe (fe0 .stfw))).full 0) = true ∧
      (flight (.fe (fe0 .stfw))).waitsAt (homeOf 0) < 2048 ∧ ∀ w ∈ (flight (.fe (fe0 .stfw))).waits, w.word ≠ 0) ∧
    2048 ≤ ({ flight (.fe (fe0 .stfw)) with waits := List.replicate 2048 parkedStore }.waitsAt (homeOf 0)) ∧
    (∀ row ∈ amoRows, ∀ hd ∈ [(true, false), (false, false), (false, true)], Arrives (flight (.amo row 0 hd.1 hd.2 5 .none 0 0 0)) 1 (.amo row 0 hd.1 hd.2 5 .none 0 0 0) ∧
      Served0 (flight (.amo row 0 hd.1 hd.2 5 .none 0 0 0)) ∧ Reaches (flight (.amo row 0 hd.1 hd.2 5 .none 0 0 0)) 1 0 0 ∧ (flight (.amo row 0 hd.1 hd.2 5 .none 0 0 0)).mixedBad 0 4 = false) ∧
    (∀ row ∈ [Instr.casW, .casD, .casQ], Arrives (flight (.cas row 0 false 5 6 .none 0 0 0)) 1 (.cas row 0 false 5 6 .none 0 0 0) ∧
      Served0 (flight (.cas row 0 false 5 6 .none 0 0 0)) ∧ Reaches (flight (.cas row 0 false 5 6 .none 0 0 0)) 1 0 0 ∧ (flight (.cas row 0 false 5 6 .none 0 0 0)).mixedBad 1 16 = false) := by
  refine ⟨by decide +kernel, fun q hq => ?_, by decide +kernel, by decide +kernel, fun q hq => ?_, ⟨arrives _, by decide +kernel, by decide +kernel, by decide +kernel, by decide +kernel, by decide +kernel, _, rfl, rfl⟩,
    fun row hr => ?_, by decide +kernel, ?_, fun row hr hd hh => ?_, fun row hr => ?_⟩
  · fin_cases hq <;> decide +kernel
  · fin_cases hq <;> decide +kernel
  · fin_cases hr <;> exact ⟨arrives _, by decide +kernel, by decide +kernel⟩
  · have : ∀ n, n ≤ ({ flight (.fe (fe0 .stfw)) with waits := List.replicate n parkedStore }.waitsAt (homeOf 0)) := by
      intro n
      simp [State.waitsAt, parkedStore]
    exact this 2048
  · fin_cases hr <;> fin_cases hh <;> exact ⟨arrives _, by decide +kernel, by decide +kernel, by decide +kernel⟩
  · fin_cases hr <;> exact ⟨arrives _, by decide +kernel, by decide +kernel, by decide +kernel⟩

/-- An event for line 0 of core 1024, on die 1, that its home's table has hint 5 for. -/
def remote (code : Nat) : PEv := { event code 5 with req := 1024, who := .entry 1024 0 2 0 }
/-- Tenant 1 given a way group of slice 256, or none. -/
def held1 (g : Option Nat) (s : State) : State :=
  match g with
  | some g => { s with lid := { s.lid with weave := { pats := [(1, List.replicate 64 0x81)], group := [(1024 + g, 1)] } } }
  | none => s
/-- The turn of the first event of a queue, and its line in the L2. -/
abbrev TurnOf (s : State) (e : PEv) (proto : Nat) (d : Nat) : Prop := Turn s e.code e ∧ (s.dir 0).map (fun x => (x.st, x.held)) = some (d, []) ∧ s.protoOf 0 = proto ∧
  e.hint = proto ∧ proto < 6

/-- ProtocolSteps: an event of each code in each state that a clause names; evictions; a replica's update; acknowledgements; a widened acquire. -/
theorem wit_ProtocolSteps :
    (∀ q ∈ [(1, 0), (1, 1), (2, 0), (2, 1), (0, 0), (3, 0)], TurnOf (inL2 (queued (event 0 q.1)) q.1 q.2) (event 0 q.1) q.1 q.2 ∧
      ReadServed (inL2 (queued (event 0 q.1)) q.1 q.2) (event 0 q.1) 0 0 2 0) ∧
    (let s := (inL2 (queued (remote 0)) 5 0).modCore 1024 fun q => { q with tag := 1 }
     TurnOf s (remote 0) 5 0 ∧ ReadServed s (remote 0) 1024 0 2 0 ∧ s.replicaOf (remote 0) = some 1) ∧
    (tget? ({ inL2 (queued (remote 0)) 5 0 with replicas := [(1, ⟨0, 0⟩)] }).replicas (0 * 4 + 1)).isSome = true ∧
    (∀ g ∈ [some 0, none], ∀ d ∈ [0, 1], let e : PEv := { remote 3 with req := replAgent 1 }
     let s := held1 g (inL2 (queued e) 5 d)
     TurnOf s e 5 d ∧ s.domainOk 0 0 = true ∧ s.replicaOf { e with req := 1024 } = some 1 ∧ (∀ w ∈ lineNos 0, s.outstanding w 4096 = none) ∧
       (match s.room (replicaSlice 0 1) 0 1 with | .group n => some n == g | .through => g.isNone | _ => false) = true) ∧
    (let e : PEv := event 2 1
     let s := inL2 (queued e) 1 0
     TurnOf s e 1 0 ∧ Reaches s (s.core 0).tag 0 0 ∧ ∀ w ∈ e.words, s.ownAccepted e.who w = true ∧ s.outstanding w 0 = none ∧ s.mixedBad w (s.acqSize e) = false) ∧
    (TurnOf (inL2 (queued (event 1 1 none (some (0, 5)))) 1 0) (event 1 1 none (some (0, 5))) 1 0 ∧
      (inL2 (queued (event 1 1 none (some (0, 5)))) 1 0).updWaits (event 1 1 none (some (0, 5))) = false) ∧
    (TurnOf (inL2 (queued (event 1 1 none (some (0, 5)))) 1 1 [7]) (event 1 1 none (some (0, 5))) 1 1 ∧
      ((inL2 (queued (event 1 1 none (some (0, 5)))) 1 1 [7]).sharerSet { line := 0, st := 1, sharers := [7] }).filter (· != 0) ≠ []) ∧
    TurnOf (inL2 (queued (event 2 1 (some (.result .null .null)))) 1 0) (event 2 1 (some (.result .null .null))) 1 0 ∧
    (∀ d ∈ [(0, []), (1, [7])], TurnOf (inL2 (queued (event 4 1)) 1 d.1 d.2) (event 4 1) 1 d.1) ∧ Turn (inL2 (queued { event 4 1 with drop := true }) 1 0) 4 { event 4 1 with drop := true } ∧
    ((inL2 { base with focus := { m := 1 } } 1 0).dir 0).map (fun d => (d.st, d.held)) = some (0, []) ∧
    (inL2 (queued { event 4 1 with drop := true }) 1 0).sound = true ∧
    (∀ u ∈ [none, some [wr0]], Arrives (flight (.replUpd 3 0 u)) 1 (.replUpd 3 0 u) ∧ (flight (.replUpd 3 0 u)).reqs.take 0 = []) ∧
    (∃ r ∈ ({ flight (.replUpd 3 0 none) with reqs := [⟨0, 1, false, 0, .replUpd 3 0 none⟩, ⟨1, 1, false, 0, .replUpd 3 0 none⟩], focus := { n := 1 } }.reqs.take 1),
      ∃ u, r.pkt = .replUpd 3 0 u) ∧
    (∀ code ∈ [7, 8, 9], Arrives { flight (.ack 0 code) with dirs := [] } 1 (.ack 0 code) ∧ { flight (.ack 0 code) with dirs := [] }.dir 0 = none ∧
      Arrives (inL2 (flight (.ack 0 code)) 1 2 [7] 2) 1 (.ack 0 code) ∧ ((inL2 (flight (.ack 0 code)) 1 2 [7] 2).dir 0).map Dir.cnt = some 2) ∧
    (∀ q ∈ [(7, 1), (8, 2), (9, 5)], let s := inL2 (flight (.ack 0 q.1)) q.2 2 [7] 1 (some (event 1 q.2 none (some (0, 5))))
      Arrives s 1 (.ack 0 q.1) ∧ (s.dir 0).map (fun d => (d.cnt, d.st, d.cur)) = some (1, 2, some (event 1 q.2 none (some (0, 5)))) ∧ s.protoOf 0 = q.2) ∧
    tget? ({ base with replicas := [(5, ⟨0, 0⟩)] }).replicas 5 = some ⟨0, 0⟩ ∧
    (∃ s : State, s.widen[s.focus.n]? = some (event 0 1, 0, [5]) ∧ ∀ x ∈ (s.core 0).sq, x.id ∉ [5]) := by
  refine ⟨fun q hq => ?_, by decide +kernel, by decide +kernel, fun g hg q hq => ?_, by decide +kernel, by decide +kernel, ⟨by decide +kernel, ⟨by decide +kernel, ⟨fun q hq => ?_, ⟨by decide +kernel,
    ⟨by decide +kernel, by decide +kernel, fun u hu => ⟨arrives _, rfl⟩, ⟨_, List.mem_cons_self, none, rfl⟩, fun q hq => ?_, fun q hq => ?_, rfl, { base with widen := [(event 0 1, 0, [5])] }, rfl, by decide +kernel⟩⟩⟩⟩⟩⟩
  · fin_cases hq <;> exact ⟨by decide +kernel, rfl, by decide +kernel, rfl, by decide, by decide +kernel⟩
  · fin_cases hg <;> fin_cases hq <;> decide +kernel
  · fin_cases hq <;> decide +kernel
  · fin_cases hq <;> exact ⟨⟨1, 0, rfl⟩, by decide +kernel, ⟨1, 0, rfl⟩, by decide +kernel⟩
  · fin_cases hq <;> exact ⟨⟨1, 0, rfl⟩, by decide +kernel, by decide +kernel⟩

def msg0 : Msg := ⟨0x80100000004, 0, [1, 2], 1, none, 0, none, none, true, []⟩
/-- Resends: a request of each kind that was sent back, before its time and at it. -/
theorem wit_Resends : ∀ q ∈ [(Instr.walkResend, Pkt.walk 0 1 0), (.waitRetryTimer, .fe (fe0 .stfw)), (.migrationResend, .migr 0 1 0 0), (.sendResend, .msg msg0),
    (.spawnwResend, .spawn .spawnw 0 0 [] (firstCtx State.reset) 1 .none), (.launchResend, .launch 0 0 ⟨1, 8, 0, 0, none, 0, 0⟩), (.egoResend, .ego 0 0 [] 0 1 0 0 0 0 .none),
    (.remapReissue, .store 0 5 wr0 none 1)], q.1 ∈ q.2.rows ∧ ∀ at_ ∈ [0, 5], ∃ s : State, s.reqs[s.focus.n]? = some ⟨1, 1, true, at_, q.2⟩ ∧ (s.cycle < at_ ∨ at_ ≤ s.cycle) := by
  intro q hq
  refine ⟨by fin_cases hq <;> decide, fun a _ => ⟨{ base with reqs := [⟨1, 1, true, a, q.2⟩] }, rfl, by omega⟩⟩

def walk0 (run : Bool) : Walk := ⟨1, 0, 1, 9, run, [1]⟩
abbrev walkIn (l : List Walk) : State := { flight (.walk 0 1 0) with walks := l }
/-- CoreArrivals: replies to an instruction that waits and to a run that is no more; an invalidation and an update; a walk request that joins,
starts, is queued, is sent back; a walk that ends. -/
theorem wit_CoreArrivals :
    (∀ r ∈ [Reply.words [(0, 5)], .result (.sc 5) .null, .fault ⟨13, 0⟩], Arrives (flight (.reply 0 0 2 0 r none false)) 1 (.reply 0 0 2 0 r none false) ∧
      ((flight (.reply 0 0 2 0 r none false)).hereOf 0 0 2 0).isSome = true ∧ ((flight (.reply 0 0 2 0 r none false)).core 0).paired = false ∧
      ((flight (.reply 0 0 9 0 r none false)).hereOf 0 0 9 0) = none) ∧
    (∀ u, Arrives (flight (.inv 0 0 u)) 1 (.inv 0 0 u) ∧ (flight (.inv 0 0 u)).reqs.take 0 = []) ∧
    (∃ r ∈ ({ base with reqs := [⟨0, 1, false, 0, .inv 0 0 none⟩, ⟨1, 1, false, 0, .inv 0 0 none⟩], focus := { n := 1 } }.reqs.take 1), ∃ u, r.pkt = .inv 0 0 u) ∧
    (∀ l, Arrives (walkIn l) 1 (.walk 0 1 0)) ∧
    (let p := ((walkIn []).core 0).tag
     let sl := 0 * 65536 / 2 ^ 21 % max 1 ((walkIn []).nslices p)
     let same (w : Walk) : Bool := w.part == p && w.ten == 1 && w.page == 0
     let here (l : List Walk) (run : Bool) : Nat := (l.filter fun w => w.part == p && w.slice == sl && w.running == run).length
     ([⟨1, 0, 1, 0, true, [1]⟩] : List Walk).any same = true ∧ ([] : List Walk).any same = false ∧ here [] true < 16 ∧
       (List.replicate 16 (walk0 true)).any same = false ∧ 16 ≤ here (List.replicate 16 (walk0 true)) true ∧ here (List.replicate 16 (walk0 true)) false < 64 ∧
       64 ≤ here (List.replicate 16 (walk0 true) ++ List.replicate 64 (walk0 false)) false) ∧
    ({ base with walks := [walk0 true] }.walks[base.focus.n]?) = some (walk0 true) ∧ base.sliceDown 1 0 = false ∧
    ({ base with lid := { base.lid with downChans := [0] } }.sliceDown 1 0) = true := by
  refine ⟨fun r hr => ?_, fun u => ⟨arrives _, rfl⟩, ⟨_, List.mem_cons_self, none, rfl⟩, fun l => ⟨1, 0, rfl⟩, by decide +kernel, rfl, by decide +kernel, by decide +kernel⟩
  fin_cases hr <;> exact ⟨arrives _, by decide +kernel, by decide +kernel, by decide +kernel⟩


/-- A load of LSID 1 that was asked for before an acquire of LSID 0 has fired; its fill in flight; the word of line 0 that it has already returned. -/
def behind (p : Pkt) : State :=
  let s := withHead (st (mk .ldD 0 0 1)) fun e => { e with phase := .sent, want := [0], early := true }
  let s := withCore (withBlk s fun b => { b with body := b.body ++ [{ insn := mk .ldacqD }], loads := [(1, 0)] }) fun q => { q with fills := [⟨2, 0, 0, 1, false⟩] }
  { s with reqs := [⟨1, 1, false, 0, p⟩] }
/-- CoreArrivals: a word that came before a lower acquire was complete; a line that may be kept; a result of a load; an invalidation that breaks
R33 for a block, and one that does not; a walk that waits for nothing. -/
theorem wit_CoreArrivals_more :
    (Arrives (behind (.reply 0 0 2 0 (.words [(0, 5)]) none false)) 1 (.reply 0 0 2 0 (.words [(0, 5)]) none false) ∧
      (((behind (.ack 0 7)).hereOf 0 0 2 0).map fun h => (h.e.insn.lsid?, h.e.early, h.e.late, h.e.insn.isLoad)) = some (some 1, true, false, true)) ∧
    (Arrives (behind (.reply 0 0 2 0 (.words [(0, 5)]) (some (0, 7)) true)) 1 (.reply 0 0 2 0 (.words [(0, 5)]) (some (0, 7)) true) ∧
      ((behind (.ack 0 7)).core 0).fills.find? (fun f => f.rid == 2 && f.idx == 0 && f.line == 0) = some ⟨2, 0, 0, 1, false⟩ ∧
      ∀ r ∈ (behind (.reply 0 0 2 0 (.words [(0, 5)]) (some (0, 7)) true)).reqs, ∀ u, r.pkt ≠ .inv 0 0 (some u)) ∧
    Arrives (behind (.reply 0 0 2 0 (.result (.sc 5) .null) none false)) 1 (.reply 0 0 2 0 (.result (.sc 5) .null) none false) ∧
    (∀ upd l, Arrives (behind (.inv 0 l upd)) 1 (.inv 0 l upd)) ∧
    (((behind (.ack 0 7)).core 0).slots.map fun x => (x.1, x.2.ctx.isSome)) = [(0, true)] ∧
    ((((behind (.ack 0 7)).slot 0 0).blk.map fun b => (b.ponr, b.taken, b.broken33 (fun n => n == 0), b.broken33 (fun n => n == 1))) = some (false, none, true, false)) ∧
    ({ base with walks := [walk0 true] }.walkWaits 1 0) = false := by
  refine ⟨⟨⟨1, 0, rfl⟩, ?_⟩, ⟨⟨1, 0, rfl⟩, ?_, fun r hr u h => ?_⟩, ⟨1, 0, rfl⟩, fun _ _ => ⟨1, 0, rfl⟩, ?_, ?_, ?_⟩
  rotate_left 2
  · obtain rfl := List.mem_singleton.mp hr
    cases h
  all_goals decide +kernel
/-! ## Witnesses: threads, messages, launches -/

/-- The thread's context, and a core whose sixteen slots hold such contexts, the first as given. -/
def y0 : Ctx := firstCtx State.reset
def fullCore (s : State) (y : Ctx) : State :=
  withCore s fun q => { q with slots := (0, { ctx := some y }) :: (List.range 15).map fun k => (k + 1, { ctx := some { y0 with id := 20 + k } }) }
/-- Slot 0 between blocks with a context. -/
def idle (s : State) (y : Ctx) : State := s.setSlot 0 0 { ctx := some y }
/-- Tenant 1 with an area of four spill and save records per core, message buffers and engine descriptors at the vault's start. -/
def areas (s : State) : State := withTen s fun x => { x with spillN := 4, spillBase := va0, saveN := 4, saveBase := va0, msgBase := va0, engBase := va0 }
def y1 : Ctx := { y0 with id := 9, mdl := false }

/-- ThreadSteps: a migration that is accepted and one that is not; the head of an arrival queue that finds a slot, the cache, a record; each
place the longest-waiting context can be in; contexts to be displaced; a slot named in PRE. -/
theorem wit_ThreadSteps :
    (let s := idle (flight (.migr 0 1 0 0)) { y0 with hold := .migrating }
     Arrives s 1 (.migr 0 1 0 0) ∧ Seated s 0 0 { y0 with hold := .migrating } ∧ s.drained 0 1 .sys = true ∧ (s.core 0).tag = 1 ∧ s.acceptsArrival 0 1 = true ∧
       (withCore s fun q => { q with arrivals := List.replicate 16 y1 }).acceptsArrival 0 1 = false) ∧
    (let s := withCore base fun q => { q with arrivals := [y1] }
     Calm s ∧ (s.core 0).arrivals = [y1] ∧ s.freeSlot 0 = some 1 ∧ ((s.core 0).waiting.any fun w => w.ctx.id != y1.id) = false) ∧
    (let s := withCore (fullCore base y0) fun q => { q with arrivals := [y1] }
     s.freeSlot 0 = none ∧ ((s.core 0).recsOf 1 false).isEmpty = true ∧ s.cacheRoom 0 1 = true) ∧
    (let s := areas (withCore (fullCore base y0) fun q => { q with arrivals := [y1], saved := [(1, 0, { y0 with id := 8, savedIn := some false })] })
     Calm s ∧ s.freeSlot 0 = none ∧ ((s.core 0).recsOf 1 false).isEmpty = false ∧ (s.putRecord 0 false y1).isSome = true) ∧
    (oldestOf ((withCore base fun q => { q with cache := [{ y1 with rdy := true }] }).core 0).waiting = some (.cache { y1 with rdy := true }) ∧
      oldestOf ((withCore base fun q => { q with arrivals := [y1] }).core 0).waiting = some (.queue y1) ∧
      oldestOf ((idle base { y0 with hold := .requeued }).core 0).waiting = some (.slot 0 { y0 with hold := .requeued }) ∧
      oldestOf ((withCore base fun q => { q with saved := [(1, 0, { y1 with rdy := true, savedIn := some false })] }).core 0).waiting =
        some (.record (1, 0, { y1 with rdy := true, savedIn := some false })) ∧
      ((areas base).takeRecord 0 (1, 0, { y1 with savedIn := some false })).isSome = true) ∧
    (let s := idle base { y0 with hold := .requeued }
     (s.slot 0 0).blk = none ∧ s.cacheRoom 0 1 = true ∧ ((s.core 0).slots.findSome? fun x => match x.2.ctx with
        | some z => if z.hold == .requeued && s.cacheRoom 0 z.ten then some (x.1, z) else none | none => none) = some (0, { y0 with hold := .requeued })) ∧
    (let s := withCore (fullCore base { y0 with hold := .stopped 0 }) fun q => { q with arrivals := [y1] }
     s.mayDisplace 0 = true ∧ (s.core 0).preSlots = [] ∧ (s.core 0).stoppedSlots = [0] ∧ s.cacheRoom 0 1 = true ∧
       ∀ x ∈ (s.core 0).slots, (x.2.ctx.all fun z => decide (z.hold ≠ .requeued)) = true) ∧
    (let s := { withCore (fullCore base { y0 with mwait := true, mdl := false }) fun q => { q with arrivals := [y1] } with cycle := 4096 }
     s.mayDisplace 0 = true ∧ (s.core 0).preSlots = [] ∧ (s.core 0).stoppedSlots = [] ∧ s.longWaits 0 = [0] ∧ s.cacheRoom 0 1 = true) ∧
    (let s := withCore (idle base y0) fun q => { q with pre := [0] }
     (s.core 0).pre.contains 0 = true ∧ (s.core 0).dispAt ≠ some s.cycle ∧ Seated s 0 0 y0 ∧ (s.slot 0 0).blk = none ∧ s.cacheRoom 0 1 = true) ∧
    (let s := withCore base fun q => { q with pre := [3] }
     (s.core 0).pre.contains 3 = true ∧ (s.core 0).dispAt ≠ some s.cycle ∧ (s.slot 0 3).ctx = none) := by
  refine ⟨⟨⟨1, 0, rfl⟩, ?_⟩, ?_⟩
  · decide +kernel
  · and_intros <;> decide +kernel

/-- Messages to the thread's slot, from its own send, and to a handler. -/
def msgTo (wait : Bool) : Msg := ⟨0x80100000004, 0, [1, 2], 1, none, 0, none, some (0, 0, 2, 0), wait, []⟩
def msgHandler : Msg := ⟨0x8000000000000000, 0, [1, 2], 1, none, 0, none, some (0, 0, 2, 0), true, []⟩
/-- A message in flight to a context. -/
def msgFor (wait : Bool) (y : Ctx) (blk : Bool) : State := areas (if blk then withCtx (flight (.msg (msgTo wait))) fun _ => y else idle (flight (.msg (msgTo wait))) y)
abbrev MsgOk (s : State) (m : Msg) : Prop := s.sound = true ∧ Arrives s 1 (.msg m) ∧ s.msgCore m = some 0 ∧ s.msgReady s.focus.n m 0 = true ∧ (s.core 0).tag = 1 ∧ s.coreRuns 0 = true
abbrev Buffered (s : State) (m : Msg) (n : Nat) : Prop := m.cont.getLsbD 63 = false ∧ (s.ten? 1).any (fun x => x.numbers.contains 1) = true ∧
  s.bufferPa (contTag m.cont).toNat = some (pa0 + 1024, 1) ∧ (∀ i < 128, s.verdict 1 (8 * ((pa0 + 1024) / 8 + i)) 1 = .ok) ∧ bufCount (s.word ((pa0 + 1024) / 8)) = n ∧ contSlot m.cont = 0 ∧ contTag m.cont = 2049

/-- A set of tenant 1, number 5. -/
def withSet (s : State) (o : SetObj) : State := withTen s fun x => { x with sets := [(5, o)] }

/-- MessageSteps: a message that is delivered, waits for a boundary and is delivered there, is buffered, is turned away, is for a free number; a handler; a spawn that finds a slot or none;
joins, leaves and arrivals at a set. -/
theorem wit_MessageSteps :
    (MsgOk (msgFor true y1 false) (msgTo true) ∧ Buffered (msgFor true y1 false) (msgTo true) 0 ∧ Seated (msgFor true y1 false) 0 0 y1 ∧ y1.mdl = false ∧ y1.due = none) ∧
    (let m := { msgTo true with reply := some (0, 3, 2, 0) }
     ∀ d ∈ [none, some (msgTo true)], let s := { msgFor true { y1 with due := d } true with reqs := [⟨1, 1, false, 0, .msg m⟩] }
     MsgOk s m ∧ Buffered s m 0 ∧ Seated s 0 0 { y1 with due := d } ∧ (s.slot 0 0).blk.isSome = true ∧ s.sendCycle 0 0 m = false) ∧
    (∀ d ∈ [none, some (msgTo true)], let s := withBlk (msgFor true { y1 with due := d } true) fun b => { b with body := b.body.map fun e => { e with insn := mk .send, phase := .sent } }
     MsgOk s (msgTo true) ∧ Buffered s (msgTo true) 0 ∧ Seated s 0 0 { y1 with due := d } ∧ s.sendCycle 0 0 (msgTo true) = true) ∧
    (MsgOk (msgFor true y0 false) (msgTo true) ∧ Buffered (msgFor true y0 false) (msgTo true) 0 ∧ y0.mdl = true) ∧
    (∀ w, MsgOk (msgFor w y0 false) (msgTo w)) ∧ Buffered ((msgFor true y0 false).putWord ((pa0 + 1024) / 8) 0xF00 0xFF) (msgTo true) 15 ∧
    (let s := areas (flight (.msg msgHandler))
     MsgOk s msgHandler ∧ Calm s ∧ msgHandler.cont.getLsbD 63 = true ∧ s.acceptsArrival 0 1 = true ∧ ((s.ten? 1).map fun x => x.atLimit 5) = some false) ∧
    (let p : Pkt := .spawn .spawn 0 64 [1] y0 1 (.entry 0 0 2 0)
     (flight p).sound = true ∧ Arrives (flight p) 1 p ∧ (flight p).whoDrained (.entry 0 0 2 0) = true ∧ (flight p).freeSlot 0 = some 1 ∧ ((flight p).core 0).waiting = [] ∧
       (fullCore (flight p) y0).freeSlot 0 = none ∧ (((flight p).ten? 1).map fun x => x.atLimit 5) = some false) ∧
    (Arrives (withSet (flight (.join 0 5 1 1 5 64)) {}) 1 (.join 0 5 1 1 5 64) ∧ (withSet (flight (.join 0 5 1 1 5 64)) {}).set? 1 5 = some {} ∧
      (flight (.join 0 5 1 1 5 64)).set? 1 5 = none) ∧
    (base.behindOwn 0 1 5 = false ∧ (withSet base {}).setDown 1 5 = false) ∧
    (∀ o ∈ [({ memb := 1 } : SetObj), { memb := 2 }, { memb := 2, ph := true }], let p : Pkt := .stands (0, 0, 2, 0, 1) 1 5 false
      Arrives (withSet (flight p) o) 1 p ∧ (withSet (flight p) o).drained 0 1 .sys = true ∧ (withSet (flight p) o).set? 1 5 = some o ∧ o.deferred = []) ∧
    (∀ o ∈ [({ memb := 1 } : SetObj), { memb := 3 }, { memb := 3, arr := 2 }], ∀ tok, Arrives (withSet (flight (.leave 0 none 1 1 5 tok)) o) 1 (.leave 0 none 1 1 5 tok) ∧
      (withSet (flight (.leave 0 none 1 1 5 tok)) o).set? 1 5 = some o ∧ o.deferred = []) ∧
    (∀ o ∈ [({ memb := 1 } : SetObj), { memb := 2 }], ∀ w, Arrives (withSet (flight (.arrive 0 0 2 0 1 1 5 w)) o) 1 (.arrive 0 0 2 0 1 1 5 w) ∧
      (withSet (flight (.arrive 0 0 2 0 1 1 5 w)) o).set? 1 5 = some o ∧ (withSet (flight (.arrive 0 0 2 0 1 1 5 w)) o).drained 0 1 .sys = true ∧ o.waiters = [] ∧ o.deferred = [] ∧
      (withSet (flight (.arrive 0 0 2 0 1 1 5 w)) o).tokOf 0 0 2 y0 = none) ∧
    (let tok : BarTok := ⟨5, false, false⟩
     ∀ ph w, Arrives (withSet (flight (.arrive 0 0 2 0 1 1 5 w)) { memb := 2, ph := ph }) 1 (.arrive 0 0 2 0 1 1 5 w) ∧
       (withBlk (flight (.arrive 0 0 2 0 1 1 5 w)) fun b => { b with tok := some (some tok) }).tokOf 0 0 2 y0 = some tok) ∧
    (let s := msgFor true { y1 with due := some (msgTo true) } true
     Seated s 0 0 { y1 with due := some (msgTo true) } ∧ ((s.slot 0 0).blk.map fun b => (b.taken.isNone, b.bars.isEmpty)) = some (true, true)) ∧
    (let s := withTen (msgFor true y1 false) fun x => { x with numbers := [] }
     s.msgReady s.focus.n (msgTo true) 0 = true ∧ ((s.ten? 1).map fun x => x.numbers.contains 1) = some false) ∧
    (let s := idle (flight (.refused 1 5 64)) y0
     Arrives s 1 (.refused 1 5 64) ∧ s.contexts.find? (fun z => z.id == 1) = some y0 ∧ s.slotOfCtx 1 = some (0, 0) ∧ (s.slot 0 0).blk = none) := by
  refine ⟨⟨⟨?_, ⟨1, 0, rfl⟩, ?_⟩, ?_⟩, fun d hd => ⟨⟨?_, ⟨1, 0, rfl⟩, ?_⟩, ?_⟩, fun d hd => ⟨⟨?_, ⟨1, 0, rfl⟩, ?_⟩, ?_⟩, ⟨⟨?_, ⟨1, 0, rfl⟩, ?_⟩, ?_⟩, fun w => ⟨?_, ⟨1, 0, rfl⟩, ?_⟩, ?_, ⟨⟨?_, ⟨1, 0, rfl⟩, ?_⟩, ?_⟩, ⟨by decide +kernel, arrives _, ?_⟩,
    ⟨⟨1, 0, rfl⟩, ?_⟩, ⟨?_, ?_⟩, fun o ho => ⟨⟨1, 0, rfl⟩, ?_⟩, fun o ho tok => ⟨⟨1, 0, rfl⟩, ?_⟩, fun o ho w => ⟨⟨1, 0, rfl⟩, ?_⟩, fun ph w => ⟨⟨1, 0, rfl⟩, ?_⟩, ?_, ?_, ⟨⟨1, 0, rfl⟩, ?_⟩⟩
  all_goals first
    | decide +kernel
    | rfl
    | (fin_cases hd <;> decide +kernel)
    | (cases w <;> decide +kernel)
    | (fin_cases ho <;> first | exact ⟨rfl, rfl⟩ | decide +kernel)
    | (fin_cases ho <;> cases w <;> decide +kernel)

/-- A launch of tenant 1 at queue 8, its completion record at the vault's start; two full dies' worth of indices. -/
def launch0 : Launch := { ten := 1, q := 8, recVa := va0, crec := va0, crecPa := some pa0, crecDom := 1, prev := none, dies := [0], count := 100, seq := 7 }
def withLaunch (s : State) (x : Launch) : State := { s with launches := [(5, x)], focus := { n := 5 } }

/-- LaunchSteps: a full slot of a ring; a launch request at a queue with room and at a full one; records that are malformed or cannot be answered;
a launch about to begin, to ask, to be granted, to start its thread, to complete. -/
theorem wit_LaunchSteps :
    (∀ r ∈ [(⟨va0, 2, 3, none, false⟩ : Ring), ⟨va0, 2, 3, some 4, true⟩],
     let s := { withTen base fun x => { x with rings := [(0, r)] } with focus := { n := 1 } }
     ((s.ten? 1).map fun x => tget? x.rings 0) = some (some r) ∧ s.wordAt 1 (va0 + 192) .both = some ((pa0 + 192) / 8, 1) ∧
       s.sound = true ∧ s.quiet ((List.range 8).map ((pa0 + 192) / 8 + ·)) = true ∧ (∀ i < 8, s.verdict 1 (8 * ((pa0 + 192) / 8 + i)) 1 = .ok) ∧
       (∀ w ∈ s.waits, w.word ≠ (pa0 + 192) / 8 + 7) ∧ (spanPackages (s.word ((pa0 + 192) / 8 + 4))).contains s.lid.package = true) ∧
    (let p : Pkt := .launch 0 0 ⟨1, 8, pa0, va0, none, 1, 0⟩
     Arrives (flight p) 1 p ∧ (flight p).focus.n = 0 ∧ (flight p).focus.m ≠ 1 ∧ (∀ i < 8, (flight p).verdict 1 (8 * (pa0 / 8 + i)) 1 = .ok) ∧
       (spanPackages ((flight p).word (pa0 / 8 + 4))).contains (flight p).lid.package = true ∧ (flight p).quiet ((List.range 8).map fun i => pa0 / 8 + i) = true ∧ (flight p).partOf 1 = 1 ∧
       (flight p).queued 1 8 < 64 ∧ 64 ≤ ({ flight p with launches := (List.range 64).map fun n => (n, launch0) }.queued 1 8)) ∧
    (base.wordAt 1 va0 .store = some (pa0 / 8, 1) ∧ va0 &&& 63 = 0 ∧ recordOk [0, va0, 0, 0, 0x10, 0, 0, 0] = false ∧ (1 : Word) &&& 63 ≠ 0 ∧
      base.sound = true ∧ (∀ i < 8, base.verdict 1 (8 * (pa0 / 8 + i)) 1 = .ok ∧ base.isRepl ((pa0 / 8 + i) / 16) = false) ∧ base.agentsDone = true ∧
      tget base.lid.levels 5 1 < 2 ∧ tget base.lid.levels 6 1 < 2 ∧ base.dieHere ((base.liveDies 0x10).headD (base.lid.package * 4)) ≠ none) ∧
    (∀ n ∈ [0, 1, 2 ^ 32 - 1, 2 ^ 32], let x := { launch0 with count := n }
      (withLaunch base x).launch? 5 = some x ∧ x.deps.all (withLaunch base x).full = true ∧ (withLaunch base x).prevOk x = true ∧ x.cntWord = none ∧
        (withLaunch base x).descWord 1 x.fmtd = some (withLaunch base x, 0) ∧ (withLaunch base x).quiet ((withLaunch base x).descAt 1 x.fmtd) = true ∧ (withLaunch base x).paNow 1 x.crec .store = some pa0) ∧
    (let x := { launch0 with begun := true }
     x.mayAsk 0 = true ∧ (withLaunch base x).dieRoom x 0 = true) ∧
    (let x := { launch0 with begun := true, asked := [(0, 0)] }
     x.asked.find? (fun a => a.1 == 0) = some (0, 0) ∧ (fullCore (withLaunch base x) y0).nextCore 1 0 = none ∧ (withLaunch base x).leads x = true ∧ (withLaunch base x).dieHere 0 = some 0) ∧
    (let x := { launch0 with begun := true, next := 64, grants := [(0, 0, 0, 1, 63)], ngrants := 1 }
     (withLaunch base x).launch? 5 = some x ∧ (withLaunch base x).nextCore 1 0 = some (0, 0) ∧ (withLaunch base x).freeSlot 0 = some 1) ∧
    (let x := { launch0 with begun := true, next := 100, grants := [(1, 0, 64, 0, 0)], ngrants := 2 }
     (withLaunch base x).sound = true ∧ x.owes = false ∧ x.mirrored = [] ∧ x.asking = [] ∧ (withLaunch base x).launch? 5 = some x ∧ x.count ≤ x.next ∧ pa0 % 64 = 0 ∧
       (∀ i < 8, (withLaunch base x).verdict x.ten (8 * (pa0 / 8 + i)) x.crecDom = .ok) ∧ (withLaunch base x).agentsDone = true ∧
       (withLaunch base x).isRepl (pa0 / 128) = false ∧ ((withLaunch base x).dieHere 1).isSome = true ∧ ((withLaunch base x).dieHere 4).isSome = false ∧
       (let z := { x with owes := true, done := true }
        (withLaunch base z).launch? 5 = some z ∧ z.crecPa = some pa0) ∧ ∀ w ∈ (withLaunch base x).waits, w.word ≠ pa0 / 8 + 7) := by
  refine ⟨fun r hr => ?_, ⟨arrives _, ?_⟩, ?_, fun n hn => ?_, ?_, ?_, ?_, ?_⟩
  · fin_cases hr <;> decide +kernel
  · decide +kernel
  · decide +kernel
  · fin_cases hn <;> decide +kernel
  all_goals decide +kernel

/-- A request for a key of the map, at a bucket; a map that counts. -/
def mreq (form : Instr) (key : Word) (b : Nat) : MapReq := ⟨form, 1, 0, key, 9, b, .entry 0 0 2 0, false⟩
/-- The bucket of key 7 in map0. -/
def bkt : Nat := (hashOf 7 1).toNat % 2
/-- map0 with key 7 stored. -/
def map7 : MapObj := map0.setBucket bkt { lstamp := 1, chain := [⟨8, some (7, 8) :: List.replicate 6 none⟩] }
def mflight (p : Pkt) (m : MapObj) : State := withMap (flight p) m

/-- Line 0 replicated and in the L2, with an agent's write of it not yet performed. -/
def unsent : State := { inL2 base 5 1 with peq := [agentEv 1 0 [wr0]] }
/-- MapSteps: a request at its bucket with the key there and not there; at another bucket; a count below and above the threshold; a split's last
step and its first. -/
theorem wit_MapSteps :
    (∀ form ∈ [Instr.mprobe, .minsert, .mupsert, .mremove],
      (Arrives (mflight (.map (mreq form 7 bkt)) map7) 1 (.map (mreq form 7 bkt)) ∧ (((mflight (.map (mreq form 7 bkt)) map7).ten? 1).bind fun x => tget? x.maps 0) = some map7 ∧
        (map7.bucket bkt).state = 0 ∧ bkt < map7.size ∧ (hashOf 7 map7.seed).toNat % 2 ^ (map7.bucket bkt).lstamp = bkt ∧ chainFind (map7.bucket bkt).chain 7 = some 8) ∧
      (let m := map0.setBucket bkt { lstamp := 1, chain := [emptyLine 8] }
       Arrives (mflight (.map (mreq form 7 bkt)) m) 1 (.map (mreq form 7 bkt)) ∧ chainFind (m.bucket bkt).chain 7 = none ∧ chainFull (m.bucket bkt).chain = false ∧
         (((mflight (.map (mreq form 7 bkt)) m).ten? 1).map fun x => x.atLimit 4) = some false ∧
         (({ part := 1, limits := [(4, 0)] } : Tenant).atLimit 4) = true ∧ (mflight (.map (mreq form 7 bkt)) m).bucketFenced 1 bkt = false) ∧
      (Arrives (mflight (.map (mreq form 7 2)) map7) 1 (.map (mreq form 7 2)) ∧ map7.size ≤ 2)) ∧
    ((mflight (.map (mreq .minsert 7 bkt)) map7).sound = true ∧ (∀ b ∈ [0, 1, 2], (mflight (.map (mreq .minsert 7 bkt)) map7).bucketDown 1 b = false) ∧
      (let s : State := mflight (.map (mreq .minsert 7 bkt)) map7
       { s with lid := { s.lid with downChans := List.range 512 } }.bucketDown 1 bkt) = true) ∧
    unsent.agentsDone = false ∧
    (∀ up, Arrives (mflight (.count (mreq .minsert 7 bkt) up .null .null) map7) 1 (.count (mreq .minsert 7 bkt) up .null .null)) ∧
    (map7.count + 1 ≤ map7.thresh * (2 ^ map7.l + map7.s)) ∧
    (let m := { map7 with count := 4 }
     let s := withTen (mflight (.count (mreq .minsert 7 bkt) true .null .null) m) fun x => { x with arena := [(0, ⟨0, 8, []⟩)] }
     m.thresh * (2 ^ m.l + m.s) < m.count + 1 ∧ m.l < 25 ∧ m.split = none ∧ m.triggers = [] ∧ ((s.ten? 1).map fun x => x.freeLine (s.pairOf 1 (m.s + 2 ^ m.l))) = some (some 0)) ∧
    (let m := { map7 with split := some (0, 2), moved := 1 }
     ((m.bucket 0).chain[m.moved]? = none) ∧ m.dying = false ∧ m.triggers = [] ∧ m.s + 1 < 2 ^ m.l) ∧
    (let m := { map7 with split := some (0, 2), buckets := [(0, { lstamp := 1, state := 1, chain := [⟨8, some (7, 8) :: List.replicate 6 none⟩, emptyLine 9] })] }
     (m.bucket 0).chain[0]? = some ⟨8, some (7, 8) :: List.replicate 6 none⟩ ∧ m.moved = 0 ∧ 1 < (m.bucket 0).chain.length) := by
  refine ⟨fun form hf => ⟨⟨⟨1, 0, rfl⟩, ?_⟩, ⟨⟨1, 0, rfl⟩, ?_⟩, ⟨1, 0, rfl⟩, ?_⟩, ?_, ?_, fun up => ⟨1, 0, rfl⟩, ?_, ?_, ?_, ?_⟩
  · fin_cases hf <;> decide +kernel
  · fin_cases hf <;> decide +kernel
  all_goals decide +kernel


/-- MapSteps: the entry quota full; a full chain with a line free and with none; a map made, and the table or the quota full; mstat and mdestroy;
a split step that has no line left to move, at the last bucket. -/
theorem wit_MapSteps_more :
    (let m := map0.setBucket bkt { lstamp := 1, chain := [⟨8, (List.range 7).map fun i => some (BitVec.ofNat 64 (100 + i), 0)⟩] }
     ∀ told n, Arrives (mflight (.map { mreq .minsert 7 bkt with told := told }) m) 1 (.map { mreq .minsert 7 bkt with told := told }) ∧
       chainFull (m.bucket bkt).chain = true ∧ chainFind (m.bucket bkt).chain 7 = none ∧ (map0.bucket bkt).state = 0 ∧
       (({ part := 1, arena := [(n, ⟨0, 8, []⟩)] } : Tenant).freeLine n) = some 0 ∧ (({ part := 1 } : Tenant).freeLine n) = none) ∧
    (let s := withTen (flight (.map (mreq .mcreate 7 0))) fun x => { x with arena := (List.range 512).map fun n => (n, ⟨0, 8, []⟩) }
     Arrives s 1 (.map (mreq .mcreate 7 0)) ∧ s.bucketFenced 1 0 = false ∧ ((s.ten? 1).map fun x => (lowestFree (x.maps.map Prod.fst) 0 4095, x.atLimit 3)) = some (some 0, false) ∧
       ((s.ten? 1).bind fun x => s.takeBuckets 1 0 1 x).isSome = true) ∧
    (({ part := 1, limits := [(3, 0)] } : Tenant).atLimit 3) = true ∧
    (∀ form ∈ [Instr.mstat, .mdestroy], Arrives (mflight (.map (mreq form 0 0)) map7) 1 (.map (mreq form 0 0)) ∧ (map7.bucket 0).state = 0 ∧ map7.split = none ∧ map7.triggers = []) ∧
    (let m := { map7 with split := some (1, 3), s := 1, moved := 1 }
     (m.bucket 1).chain[m.moved]? = none ∧ m.dying = false ∧ m.triggers = [] ∧ m.s + 1 = 2 ^ m.l) := by
  refine ⟨fun told n => ⟨⟨1, 0, rfl⟩, rfl, rfl, rfl, ?_, rfl⟩, ⟨⟨1, 0, rfl⟩, ?_⟩, rfl, fun form hf => ⟨⟨1, 0, rfl⟩, ?_⟩, ?_⟩
  · simp [Tenant.freeLine, tget, tget?, lowestFree]
  all_goals decide +kernel
/-! ## Witnesses: slices and engines -/

/-- An mma.i8 with its latch and B buffer, on tile 0; the same as an mzero or an mgang. -/
def cmd0 (kind : Nat) : MxCmd :=
  { id := 5, kind := kind, tt := 0, f := 3, mask := 1, ten := 1, latch := [1], lkq := 1, lesz := 0, latchTag := some (1, 0),
    bop := [1, 1, 1, 1], bfmt := 1, bkq := 1, bopTag := some (1, 0) }
def slice (x : MxCmd) (f : Core → Core := id) : State := withCore base fun q => f { q with mxq := [x] }
/-- A gang row's Hoop with a command that came at clk 0, at a later clk. -/
def hoop0 (mask : Nat) (clk : Nat) : State :=
  { slice { cmd0 0 with mask := mask, started := true } with cycle := clk, hoop := [⟨0, 0, 0, { cmd0 0 with mask := mask, started := true }, 0⟩] }

theorem wit_SliceSteps :
    Calm base ∧ Calm (slice (cmd0 0)) ∧
    (∀ kind ∈ [0, 1, 2], ((slice (cmd0 kind)).core 0).nextCmd = some (cmd0 kind) ∧ ((slice (cmd0 kind)).core 0).mxAt ≠ some (slice (cmd0 kind)).cycle ∧
      1 ∉ ((slice (cmd0 kind)).core 0).dbgStop ∧ ((slice (cmd0 kind)).tile 0 0).gang = none ∧ ((slice (cmd0 kind)).tile 0 0).stat.getLsbD 63 = false) ∧
    mmaCause (cmd0 0) (cmd0 0) = none ∧ (cmd0 0).f = 3 ∧ ({ cmd0 0 with latchTag := none } : MxCmd).latchTag ≠ some (1, 0) ∧
    (let s := slice (cmd0 0) fun q => { q with tiles := [(0, { gang := some (3, 0) })] }
     (s.core 0).nextCmd = some (cmd0 0) ∧ (s.tile 0 0).gang = some (3, 0) ∧ s.hoopAt (coreGang 0).1 0 = []) ∧
    (∀ at_ ∈ [0, 5], let x := { cmd0 0 with started := true, result := [1], doneAt := at_ }
      ((slice x).core 0).mxq.find? (fun z => z.tt == 0 && z.started && !z.result.isEmpty) = some x ∧ ((slice x).cycle < at_ ∨ at_ ≤ (slice x).cycle)) ∧
    (let s := hoop0 1 4
     gangComplete (s.hoopAt 0 0) = true ∧ ((s.hoopAt 0 0).find? fun e => e.pos == e.cmd.src).isSome = true ∧ ((s.hoopAt 0 0).map HoopEnt.core).Nodup ∧
       ∀ e ∈ s.hoopAt 0 0, e.at_ + 4 ≤ s.cycle ∧ e.cmd.f = 3 ∧ (s.tile e.core e.cmd.tt).stat.getLsbD 63 = false ∧ mmaCause e.cmd e.cmd = none ∧
         ∃ z ∈ (s.core e.core).mxq, z.id = e.cmd.id) ∧
    (∀ clk ∈ [65535, 65536], ((hoop0 3 clk).hoopAt (coreGang 0).1 0).any (fun z => z.core == 0) = true ∧ gangComplete ((hoop0 3 clk).hoopAt (coreGang 0).1 0) = false ∧
      ((hoop0 3 clk).tile 0 0).stat.getLsbD 63 = false ∧ 1 ∉ ((hoop0 3 clk).core 0).dbgStop) ∧
    WitHere (withHead (st (mk .mst) (.sc va0)) fun e => { e with phase := .sent, words := [(pa0, 0)] }) (fun h => h.e.insn.row = .mst ∧ h.e.phase = .sent ∧ h.a = some va0 ∧
      (h.ea va0).toNat % 65536 + 4096 ≤ 65536 ∧ h.e.words = [(pa0, 0)] ∧ pa0 % 8 = 0 ∧ ((st (mk .mst) (.sc va0)).core h.c).mxq = []) ∧
    (let s := withTen (idle base { y0 with hold := .firstUse 3 0 }) fun x => { x with tileBase := va0 }
     Seated s 0 0 { y0 with hold := .firstUse 3 0 } ∧ (s.slot 0 0).trap = none ∧ (∀ m ∈ (s.core 0).mxq, m.tt ≠ 3) ∧ bitAt (s.core 0).accown (16 * 3 + 15) = false ∧
       s.place 1 (s.tstatVa 0 1 3) .load = some (pa0 + 16408, 1) ∧ s.verdict 1 (8 * ((pa0 + 16408) / 8)) 1 = .ok ∧ (s.word ((pa0 + 16408) / 8)).getLsbD 58 = false ∧
       ∃ m ∈ ((withCore s fun q => { q with mxq := [{ cmd0 0 with tt := 3 }] }).core 0).mxq, m.tt = 3) ∧
    (∀ clk ∈ [2047, 2048], let s := { base.setSlot 0 0 { base.slot 0 0 with trap := some 0 } with cycle := clk }
      Seated s 0 0 y0 ∧ (s.slot 0 0).trap = some 0 ∧ s.cycle = clk) := by
  refine ⟨by decide +kernel, by decide +kernel, fun k hk => ?_, by decide +kernel, rfl, by decide, ?_, fun a ha => ?_, ?_, fun c hc => ?_, witHere (by decide +kernel), ?_, fun c hc => ?_⟩
  · fin_cases hk <;> decide +kernel
  · decide +kernel
  · fin_cases ha <;> decide +kernel
  · decide +kernel
  · fin_cases hc <;> decide +kernel
  · exact ⟨by decide +kernel, by decide +kernel, by decide +kernel, by decide +kernel, by decide +kernel, by decide +kernel, by decide +kernel, _, List.mem_singleton_self _, rfl⟩
  · fin_cases hc <;> decide +kernel

/-- A descriptor of sixteen entries of weight 1 at va0 + 0x10000; the queue 0 of tenant 1 bound with it. -/
def img0 : List Word := [va0 + 0x10000, 0x104, 0, 0, 0, 0, 0, 0]
def vqd (head : Nat) (halt : Bool := false) : VQ := { bound := true, img := img0, head := head, halt := halt }
def withVq (s : State) (eng : Nat) (q : VQ) : State := { areas s with engines := [(eng, { vqs := [(16, q)] })] }
/-- The words of queue 0's descriptor on engine 0 (at the vault's start): its TAILW. -/
def tailw (s : State) (v : Word) : State := s.putWord (pa0 / 8 + 2) v 0xFF
def egoPkt : Pkt := .ego 0 0 (List.replicate 8 pa0) va0 1 0 0 0 2049 (.entry 0 0 2 0)
/-- A command at work: of an opcode and option, from va0 + 0x1000 to va0 + 0x2000. -/
def ecmd (opc opt : Nat) : EngCmd :=
  { ten := 1, root := 0, vq := 0, recVa := 0, fmt := 0, scale := 0, rm := 0, tag := 2049, opc := opc, opt := opt, src := va0 + 0x1000, dst := va0 + 0x2000,
    len := 256, cwa := pa0 / 8 }
def atWork (eng : Nat) (x : EngCmd) : State := { base with engines := [(eng, { shadows := [(2, x)] })], focus := { n := eng, m := 2 } }

/-- A tenant's plain access to a word at an address is performed; so are those to the words of its descriptor of queue 0. -/
abbrev plain (s : State) (pa : Nat) : Prop := s.verdict 1 (8 * (pa / 8)) 1 = .ok
abbrev desc (s : State) : Prop := s.sound = true ∧ s.vqWord 0 (vqKey 1 0) = some (pa0 / 8, 1) ∧ ∀ i < 8, s.verdict (vqKey 1 0 / 16) (8 * (pa0 / 8 + i)) 1 = .ok

theorem wit_EngineSteps :
    (∀ t ∈ [(15 : Word), 16], let s := tailw (withVq (flight egoPkt) 0 (vqd 0)) t
      Arrives s 1 egoPkt ∧ s.whoDrained (.entry 0 0 2 0) = true ∧ s.partOf 1 = 1 ∧ desc s ∧ (s.vq 0 (vqKey 1 0)).bound = true ∧
        plain s (pa0 + 0x10000 + 8 * (t.toNat % 16)) ∧ vqIsDirect img0 = false ∧ s.vqCount 0 (vqKey 1 0) (pa0 / 8, 1) = t.toNat ∧ 2 ^ vqSize img0 = 16 ∧
        (s.engXl (s.blankCmd (vqKey 1 0) img0) (vqSlotVa img0 t.toNat) .store) = .inl (pa0 + 0x10000 + 8 * (t.toNat % 16), 1)) ∧
    (Arrives (withVq (flight (.tailw 1 0 0)) 0 (vqd 0)) 1 (.tailw 1 0 0) ∧
      let s := ((withVq (flight (.tailw 1 0 0)) 0 {}).putWord (pa0 / 8) (va0 + 0x10000) 0xFF).putWord (pa0 / 8 + 1) 0x104 0xFF
      Arrives s 1 (.tailw 1 0 0) ∧ desc s ∧ (s.vq 0 (vqKey 1 0)).bound = false ∧ (s.goodDesc 0 (vqKey 1 0)).isSome = true ∧ (s.engine 0).freeSlot = some 0) ∧
    (let s := tailw (withVq base 0 (vqd 0)) 1
     (s.engine 0).shadows.length < 4 ∧ (s.choose 0).isSome = true ∧ ((s.engine 0).vqs.map Prod.fst).Nodup) ∧
    (∀ opt ∈ [0, 1], (atWork 0 (ecmd 1 opt)).working 0 2 [1] = some (ecmd 1 opt) ∧ (atWork 0 (ecmd 1 opt)).engWaits (ecmd 1 opt) (va0 + 0x2000) = false ∧
      (atWork 0 (ecmd 1 opt)).engXl (ecmd 1 opt) (va0 + 0x1000) .load = .inl (pa0 + 0x1000, 1) ∧
      (atWork 0 (ecmd 1 opt)).engXl (ecmd 1 opt) (va0 + 0x2000) .store = .inl (pa0 + 0x2000, 1) ∧
      (atWork 0 (ecmd 1 opt)).sound = true ∧ plain (atWork 0 (ecmd 1 opt)) (pa0 + 0x1000) ∧ plain (atWork 0 (ecmd 1 opt)) (pa0 + 0x2000)) ∧
    ((atWork 1 (ecmd 2 3)).working 1 2 [2] = some (ecmd 2 3) ∧ (atWork 1 (ecmd 3 0)).working 1 2 [3] = some (ecmd 3 0) ∧
      (atWork 1 (ecmd 2 3)).engXl (ecmd 2 3) (va0 + 0x2000 + 248) .both = .inl (pa0 + 0x2000 + 248, 1)) ∧
    ((atWork 2 (ecmd 5 0)).working 2 2 [5] = some (ecmd 5 0) ∧ (ecmd 5 0).pos < (ecmd 5 0).len ∧
      (match (State.engWords (ecmd 5 0) ((List.range 16).map fun i => va0 + 0x1000 + BitVec.ofNat 64 (8 * i)) (atWork 2 (ecmd 5 0))).2 with | .inl ws => ws.length == 16 | _ => false) = true ∧
      (State.engWriteAll (ecmd 5 0) ((List.range 8).map fun i => (va0 + 0x2000 + BitVec.ofNat 64 (8 * i), 0)) (atWork 2 (ecmd 5 0))).2 = none) ∧
    (let x := { ecmd 1 0 with pos := 256 }
     tget? ((atWork 0 x).engine 0).shadows 2 = some x ∧ x.fail = none ∧ x.len ≤ x.bytesDone ∧ (atWork 0 x).sound = true ∧ (atWork 0 x).agentsDone = true ∧
       (atWork 0 x).verdict x.ten (8 * x.cwa) 1 = .ok ∧ ({ unsent with engines := [(0, { shadows := [(2, x)] })] }).agentsDone = false ∧ 1 ∉ ((atWork 0 x).core x.core).dbgStop ∧
       ((atWork 0 x).vq 0 (vqKey 1 0)).cancel = [] ∧ ∀ q ∈ ((atWork 0 x).engine 0).vqs, q.2.pend = false) ∧
    (let x := { ecmd 1 0 with fail := some 3, cwaDom := 1 }
     ∀ told, tget? ((atWork 0 { x with told := told }).engine 0).shadows 2 = some { x with told := told } ∧ ((atWork 0 x).cmdError 0 x 3 0 x.bytesDone x.failAt).agentsDone = true ∧
       ({ unsent with engines := (atWork 0 x).engines }.cmdError 0 x 3 0 x.bytesDone x.failAt).agentsDone = false) ∧
    (∀ t ∈ [(0 : Word), 3], let s := tailw (withVq (flight (.ecfg 0 5 1 0 0 false img0 (pa0 + 0x3000, 1))) 0 {}) t
      Arrives s 1 (.ecfg 0 5 1 0 0 false img0 (pa0 + 0x3000, 1)) ∧ desc s ∧ plain s (pa0 + 0x3000) ∧ s.vqRunning 0 (vqKey 1 0) = false ∧
        s.vqCount 0 (vqKey 1 0) (pa0 / 8, 1) = t.toNat ∧ pa0 / 8 + 7 < (pa0 + 0x3000) / 8 ∧ ∀ q ∈ (s.engine 0).vqs, q.2.pend = false) ∧
    (let s := withVq (flight (.ecfg 0 5 1 0 0 true [] (pa0 + 0x3000, 1))) 0 (vqd 0 true)
     Arrives s 1 (.ecfg 0 5 1 0 0 true [] (pa0 + 0x3000, 1)) ∧ desc s ∧ plain s (pa0 + 0x3000) ∧ (s.vq 0 (vqKey 1 0)).bound = true) ∧
    (let s := tailw (withVq (flight (.ecancel 0 5 1 0 0 (pa0 + 0x3000, 1))) 0 (vqd 0)) 3
     Arrives s 1 (.ecancel 0 5 1 0 0 (pa0 + 0x3000, 1)) ∧ desc s ∧ plain s (pa0 + 0x3000) ∧ tget s.lid.levels 5 1 < 3 ∧ tget s.lid.levels 6 1 < 3 ∧ s.vqRunning 0 (vqKey 1 0) = false ∧
       ∀ q ∈ (s.engine 0).vqs, q.2.pend = false) := by
  refine ⟨fun t ht => ⟨⟨1, 0, rfl⟩, ?_⟩, ⟨⟨1, 0, rfl⟩, ⟨1, 0, rfl⟩, ?_⟩, ?_, fun o ho => ?_, ?_, ?_, ?_, fun told => ?_, fun t ht => ⟨⟨1, 0, rfl⟩, ?_⟩, ⟨⟨1, 0, rfl⟩, ?_⟩, ⟨1, 0, rfl⟩, ?_⟩
  · fin_cases ht <;> decide +kernel
  · decide +kernel
  · decide +kernel
  · fin_cases ho <;> decide +kernel
  · decide +kernel
  · decide +kernel
  · decide +kernel
  · cases told <;> decide +kernel
  · fin_cases ht <;> decide +kernel
  · decide +kernel
  · decide +kernel

/-! ## Witnesses: the Weave, the package, the Lid -/

/-- Slot 0 handed over at clk 0. -/
def handed (s : State) (drain : Bool) (clk : Nat) : State := { s.setSlot 0 0 { s.slot 0 0 with handed := some 0, drain := drain } with cycle := clk }

theorem wit_WeaveSteps :
    (let s : State := { base with cycle := 16384 }
     Calm s ∧ s.sound = true ∧ s.cycle % 16384 = 0 ∧ s.lid.edgeAt ≠ some s.cycle ∧ s.lid.stage ≠ none ∧ s.lid.weaveNext = none ∧ s.dirs = [] ∧ s.engines = [] ∧ (s.ten? 1).isSome = true) ∧
    (∀ p : Bool, let s := handed (withBlk base fun b => { b with ponr := p }) false 0
      (s.slot 0 0).ctx.isSome = true ∧ (s.slot 0 0).handed = some 0 ∧ (s.slot 0 0).overrun = false ∧ (s.slot 0 0).drain = false ∧ (s.slot 0 0).blk.map Block.ponr = some p) ∧
    (let s := handed (idle base { y0 with hold := .migrating }) false 0
     (s.slot 0 0).blk = none ∧ (s.slot 0 0).drain = false ∧ Seated s 0 0 { y0 with hold := .migrating } ∧ s.cacheRoom 0 1 = true) ∧
    (∀ clk ∈ [2047, 2048], let s := handed base true clk
      (s.slot 0 0).blk.isSome = true ∧ (s.slot 0 0).drain = true ∧ (s.slot 0 0).overrun = false ∧ (s.slot 0 0).handed = some 0) ∧
    (∀ n ∈ [255, 256], let s := withTen (withCore base fun q => { q with side := some (some 1), idle := n }) fun x => { x with don := 2, donee := 2 }
      s.sideNow 0 = some 1 ∧ ((s.ten? 1).map Tenant.don) = some 2 ∧ (s.core 0).donated = false ∧ (s.core 0).idle = n) ∧
    (let s : State := { base with cycle := 1048576, lid := { base.lid with edgeAt := some 1048576 } }
     s.cycle % 1048576 = 0 ∧ s.lid.frameAt ≠ some s.cycle ∧ s.lid.edgeAt = some s.cycle) ∧
    4096 ≤ ({ base.lid with sinceSeal := 4096 } : Lid).sinceSeal ∧
    (let s : State := { base with lid := { base.lid with ring := some (65536, 65536) } }
     s.lid.ring = some (65536, 65536) ∧ s.lid.ringAt % 8 = 0 ∧ ∀ n < 65536, s.domainOk (65536 + n) 0 = true) ∧
    (∀ q ∈ [0, 6, 7, 8], let x : Tenant := { part := 1, limits := [(q, 5)], counts := [(q, 6)] }
      x.limit q ≠ 2 ^ 64 - 1 ∧ x.limit q < tget x.counts q 0 ∧ q ∉ x.crossed) ∧
    ((base.core 0).winAt + 256 ≤ ({ base with cycle := 256 } : State).cycle ∧ base.cycle < (base.core 0).winAt + 256 ∧ 0 < tget [(33, 1)] 33 0 ∧ 33 ∉ (base.core 0).gated) ∧
    (5999 < base.lid.limit) := by
  refine ⟨by decide +kernel, fun p => ?_, by decide +kernel, fun c hc => ?_, fun n hn => ?_, by decide +kernel, by decide, ⟨rfl, rfl, fun n hn => ?_⟩, fun q hq => ?_, by decide +kernel, by decide +kernel⟩
  · cases p <;> decide +kernel
  · fin_cases hc <;> decide +kernel
  · fin_cases hn <;> decide +kernel
  · have hf : (65536 + n) / 65536 = 1 := by omega
    have hr : (tget base.frames 1 (0, base.lid.held) == (0, false)) = true := by decide +kernel
    simp only [State.domainOk, hf, Bool.or_eq_true]
    exact .inr hr
  · fin_cases hq <;> decide +kernel

/-- A host window on link 0, a Rim inbound entry, of tenant 1, with base va0. -/
def windows (s : State) : State := { s with lid := { s.lid with windows := [⟨2, 0, 1, 0, va0⟩, ⟨3, 0, 1, 0, 0⟩] } }

/-- An image of one section of one byte, 7, at va0, and its note: whether that signs it is left open (log entry 6). -/
def file1 : List Byte :=
  let le (n v : Nat) : List Byte := (List.range n).map fun i => BitVec.ofNat 8 (v / 256 ^ i)
  let sec (ty flags off size addr : Nat) : List Byte := le 4 0 ++ le 2 ty ++ le 2 flags ++ le 4 off ++ le 4 size ++ le 8 addr ++ le 8 0
  [0x52, 0x4F, 0x46, 0, 1, 0, 2, 0] ++ le 4 32 ++ le 2 2 ++ le 18 0 ++ sec 1 1 96 1 va0.toNat ++ sec 6 0 100 4 0 ++ [7, 0, 0, 0] ++ le 4 1

/-- Two firmware images of one byte, 9 and 8, each with its length before it and a signature of zeros behind: log entry 17. -/
def firmware : List Byte := [1, 0, 0, 0, 0, 0, 0, 0, 9] ++ List.replicate 4627 0 ++ [1, 0, 0, 0, 0, 0, 0, 0, 8] ++ List.replicate 4627 0

/-- Tenant 1 of partition 1 with a page table: its first GiB, of which it owns the first two MiB. -/
def paged (s : State) : State :=
  { withTen ((s.putWord (0x40000000 / 8) 0x40020001 0xFF).putWord (0x40020000 / 8) 0x21F 0xFF) fun x => { x with root := 0x40000000 } with
    frames := (List.range 32).map fun f => (f, (1, false)) }

/-- PackageSteps: start, heartbeats before and at their times, containment, returns to service, a host's and a remote package's word, an image,
frames, a tenant, a partition. -/
theorem wit_PackageSteps :
    (base.sound = true ∧ (windows base).sound = true ∧ (windows base).agentsDone = true ∧ (windows unsent).agentsDone = false) ∧
    ((fwFrom firmware).1.code = [9] ∧ (fwFrom (fwFrom firmware).2).1.code = [8]) ∧
    (State.reset.lid.power = false) ∧ (∀ n ∈ [1, 2], ({ State.reset.lid with stage := some (n - 1) } : Lid).stageFail = none) ∧
    (∀ clk ∈ [4095, 4096, 16383, 16384], let s : State := { base with cycle := clk, lid := { base.lid with beats := [(0, 0)] } }
      tget? s.lid.beats 0 = some 0 ∧ 0 ∉ s.lid.deadDies ∧ 0 ∉ s.lid.fencedDies ∧ s.cycle = clk ∧ ∀ d ∈ s.dirs, ∀ m ∈ d.sharers, sharerOn 0 m = false) ∧
    (base.dieHere 4 = none ∧ 4 ∉ base.lid.farDead ∧ base.lid.stage = some 2) ∧
    (base.lid.package ≠ 1 ∧ 1 ∉ base.lid.farGone ∧ regionOf 0x28000000000 = .rim 0) ∧
    base.lid.stage ≠ none ∧ (0 ∉ base.lid.contained ∧ (base.parts.find? fun p => (p.2.quadsOn 0).contains 0).isSome = true) ∧
    (0 ∈ ({ base.lid with joining := [0], downChans := [0], silent := true, ports := [0] } : Lid).joining ∧ 0 ∉ base.lid.ports ∧ base.lid.stage = some 2) ∧
    (((windows base).hostWindow 0).map (fun w => (w.1.ten, w.1.base, w.2.fenced)) = some (1, va0, false) ∧ (windows base).sendHeld 1 7 = false ∧ va0.toNat % 8 = 0 ∧
      (windows base).verdict 1 pa0 1 = .ok ∧ (windows base).xlateNow 1 (BitVec.ofNat 64 va0.toNat) .load = .ok pa0 0 1 ∧
      (windows base).xlateNow 1 (BitVec.ofNat 64 va0.toNat) .store = .ok pa0 0 1 ∧ (windows base).xlateNow 1 (BitVec.ofNat 64 va0.toNat) .both = .ok pa0 0 1 ∧
      (va0.toNat + (1 : Word).toNat) % 8 ≠ 0 ∧ pa0 % 8 = 0 ∧
      ∀ z ∈ (windows base).waits, z.word ≠ pa0 / 8) ∧
    (∃ w ∈ (windows base).lid.windows, w.kind = 3 ∧ w.remote = 0 ∧ w.ten = 1) ∧ 0 ∉ (windows base).lid.farGone ∧
    (let s : State := { base with focus := { i := 8, m := 1 }, lid := { base.lid with farGone := [0] } }
     (s.ten? s.focus.m).isSome = true ∧ s.focus.n ∈ s.lid.farGone) ∧
    (isImage file1 = true ∧ sectionsOf file1 = [⟨1, 1, 96, 1, va0.toNat, 0⟩, ⟨6, 0, 100, 4, 0, 0⟩] ∧ (⟨1, 1, 96, 1, va0.toNat, 0⟩ : Section).bytes file1 = [7] ∧
      base.xlateNow 1 (BitVec.ofNat 64 va0.toNat) .rdOrX = .ok pa0 0 1 ∧ base.verdict 1 pa0 1 = .ok ∧ (base.ten? 1).isSome = true ∧ isImage (file1.set 6 1) = false) ∧
    (isStack (65536 * 0) = true ∧ (∀ d ∈ base.dirs, d.line / 512 ≠ 0) ∧ frameChan 0 ∉ base.lid.downChans ∧
      (∀ x ∈ base.tenants, ∀ a ∈ x.2.arena, ¬(a.2.first ≤ 512 * 0 ∧ 512 * 0 < a.2.first + a.2.lines)) ∧ isStack (65536 * 1) = true ∧ frameChan 0 = frameChan 1 ∧
      base.lid.held = false ∧ base.lid.seals = [] ∧ base.frameOf 1 0 = true ∧
      ((base.ten? 1).map fun x => (x.erased, x.atLimit 1, x.atLimit 2)) = some (false, false, false)) ∧
    ((tget? base.parts 1).isSome = true ∧ (∀ c ∈ base.cores, c.2.cache = []) ∧ base.ten? 31 = none ∧ (∀ p ∈ base.parts, p.2.svten = 31 → p.1 = 1) ∧
      ((withTen base fun x => { x with erased := true }).ten? 1).map Tenant.erased = some true) ∧
    (base.lid.events = [] ∧ tget? base.parts 255 = none ∧ base.ten? 31 = none ∧ (∀ p ∈ base.parts, p.2.svten ≠ 31) ∧ [4, 5].Nodup ∧ wholePairs [4, 5] = true ∧
      (∀ c ∈ [4, 5], base.coreIdle c = true ∧ base.dieUsable (coreDie c) = true ∧ coreQuad c ∉ base.lid.contained) ∧
      ∀ x ∈ [4, 5], base.sliceIdle x = true ∧ base.vaultIdle x = true ∧ base.dieUsable (x / 256) = true ∧ x ∉ base.lid.contained) := by
  refine ⟨by decide +kernel, ⟨by decide +kernel, by decide +kernel⟩, rfl, by decide, fun c hc => ?_, ?_⟩
  · fin_cases hc <;> decide +kernel
  · refine ⟨?_, ?_, ?_, ?_, ?_, ?_, ?_, ?_, ?_, ?_⟩ <;> decide +kernel

/-- Partition 1's mailbox with a command and its arguments. -/
def mail (s : State) (o : Word) (args : List Word) : State :=
  { (args.zipIdx.foldl (fun s a => s.putWord (mbox 1 + 1 + a.2) a.1 0xFF) (s.putWord (mbox 1) o 0xFF)).setFull (mbox 1) true with focus := { n := 1 } }
abbrev Mailed (s : State) (o : Nat) : Prop := s.lidOpc 1 = some o ∧ ∀ w ∈ s.waits, w.word ≠ mbox 1

/-- LidSteps: each command with arguments that it takes, and with one that it refuses; a step that a command waits for. How many words a report
has, and whether an object's signature verifies, is left open (log entry 6). -/
theorem wit_LidSteps :
    (Mailed (mail base 1 [4, 1, va0]) 1 ∧ (mail base 1 [4, 1, va0]).holdsTenant 1 1 = true ∧ (mail base 1 [12, 1, 1, 5]).settingStatus 1 1 12 (fun i => (mail base 1 [12, 1, 1, 5]).arg 1 (2 + i)) = 0 ∧
      (mail (paged base) 1 [4, 1, 0]).settingStatus 1 1 4 (fun i => (mail (paged base) 1 [4, 1, 0]).arg 1 (2 + i)) = 0 ∧
      (mail (paged base) 1 [5, 1, 0, 65536]).settingStatus 1 1 5 (fun i => (mail (paged base) 1 [5, 1, 0, 65536]).arg 1 (2 + i)) = 0 ∧
      (mail base 1 [4, 1, 3]).settingStatus 1 1 4 (fun i => (mail base 1 [4, 1, 3]).arg 1 (2 + i)) ≠ 0) ∧
    Mailed (mail base 18 []) 18 ∧
    (Mailed (mail base 2 [0, 0, 9]) 2 ∧ (mail base 2 [0, 0, 9]).coreIdle 9 = true ∧ (mail base 2 [0, 0, 0]).coreIdle 0 = false ∧ (mail base 2 [2, 0, 9]).vaultIdle 9 = true ∧
      ((tget? base.parts 1).map fun x => base.pairMovable 1 x 0 8) = some true) ∧
    (let s : State := { base with focus := { m := 1 }, lid := { base.lid with remaps := [(1, 0, 0, 9), (1, 2, 0, 9), (1, 1, 0, 8)], edgeAt := some 0 } }
     s.lid.remaps[s.focus.n]? = some (1, 0, 0, 9) ∧ s.lid.edgeAt = some s.cycle ∧ ((idle s y0).core 0).movable = true ∧ s.coreIdle 9 = true ∧ s.vaultIdle 9 = true ∧ s.sound = true) ∧
    (Mailed (mail base 3 [0, 65536, 2, 16]) 3 ∧ ((mail base 3 [0, 65536, 2, 16]).rangeRequest 1 ((mail base 3 [0, 65536, 2, 16]).arg 1)).1 = 0 ∧
      ((mail base 3 [0, 65536, 9, 16]).rangeRequest 1 ((mail base 3 [0, 65536, 9, 16]).arg 1)).1 ≠ 0) ∧
    (let s := { mail base 3 [] with draining := [(0, 1, ⟨0, 1, 1, 1, 2, false, 0⟩, true)] }
     s.draining.find? (fun d => d.2.1 == 1) = some (0, 1, ⟨0, 1, 1, 1, 2, false, 0⟩, true) ∧ s.dirs = []) ∧
    (Mailed (mail base 4 [va0]) 4 ∧ Mailed (mail base 5 [va0]) 5 ∧ ((mail (base.putWord (pa0 / 8) 0x04030201010101 0xFF) 5 [va0]).objectAt 1 va0 2).map (fun x => (x.2.1.take 7).map BitVec.toNat) =
      some [1, 1, 1, 1, 2, 3, 4]) ∧
    (let s := withTen (mail (base.putWord (pa0 / 8) 1 0xFF) 6 [va0, 1]) fun x => { x with fenced := true }
     Mailed s 6 ∧ (s.ten? 1).map (fun x => (x.part, x.fenced, x.erased)) = some (1, true, false) ∧
       (s.objectAt 1 va0 1).map (fun x => x.2.1.foldr (fun b a => b.toNat + 256 * a) 0) = some 1) ∧
    (let s := mail base 12 [va0]
     Mailed s 12 ∧ s.focus.m ≠ 1 ∧ (s.fwAt 1 va0).map (fun x => (decide (x.1 = s), x.2.code)) = some (true, []) ∧ (s.fwAt 1 1).isNone = true ∧
       s.lid.imgs.length = 2 ∧ s.lid.active < 2 ∧ s.managed = true) ∧
    (let s := mail base 7 [va0, va0 + 0x1000]
     s.sound = true ∧ s.focus.m ≠ 1 ∧ Mailed s 7 ∧ s.readVa 1 va0 8 = some (s, List.replicate 8 0) ∧ ∀ i < 512, inVaultWindow (va0 + 0x1000 + BitVec.ofNat 64 (8 * i)) = true ∧
       s.vaultUse 1 (va0 + 0x1000 + BitVec.ofNat 64 (8 * i)) = .ok (pa0 + 0x1000 + 8 * i) 0 1 ∧
       s.verdict 1 (pa0 + 0x1000 + 8 * i) 1 = .ok) ∧
    (∀ k ∈ [(0 : Word), 1, 2, 3], Mailed (mail base 8 [k, 5, 1, 0, 0]) 8 ∧ Mailed (mail base 8 [k, 5, 0, 0, 0]) 8 ∧ (∀ w ∈ base.lid.windows, w.n ≠ 5) ∧
      tget ({ part := 1 } : Tenant).counts 1 0 + windowFrames k.toNat ≤ ({ part := 1 } : Tenant).limit 1) ∧
    (Mailed (mail base 9 [3]) 9 ∧ base.dieHeld 3 = false ∧ base.dieHeld 0 = true ∧ Mailed (mail base 10 [3]) 10 ∧ Mailed (mail base 11 [511]) 11 ∧ (base.channelFree 511 fun _ => false) = true ∧
      ({ base with frames := [(0, (1, false))] }.channelFree 0 fun _ => false) = false ∧ Mailed (mail base 13 []) 13 ∧ Mailed (mail base 14 [0, 1]) 14 ∧
      (mail base 14 [0, 1]).physCore 1 0 = some 0 ∧ ∀ k ∈ ((mail base 14 [0, 1]).core 0).slots, 8 ≤ k.1 → k.2.ctx = none) ∧
    (Mailed (mail base 15 [0, 0, 0, 16, 16]) 15 ∧ ((tget? base.parts 1).map fun x => x.rects) = some [] ∧
      ((tget? base.parts 1).map fun x => decide (∃ q ∈ rectQuads (0, 0, 0, 16, 16), q ∈ x.quadsOn 0)) = some true) ∧
    (let s := mail (paged base) 17 [0, 1, 0xFFF0, 0x10010]
     Mailed s 17 ∧ (mail base 17 [0, 1, va0, 32]).areaOk 1 va0 32 = false ∧ Mailed (mail base 17 [0, 1, va0, 0]) 17 ∧ s.physCore 1 0 = some 0 ∧ s.areaOk 1 0xFFF0 0x10010 = true) ∧
    (∀ a ∈ [(0 : Word), 1, 2, 3, 4, 5], Mailed (mail base 16 [0, a, 64, 7]) 16 ∧ (mail base 16 [0, a, 64, 7]).physCore 1 0 = some 0 ∧ ((mail base 16 [0, a, 64, 7]).core 0).brks.length < 4) ∧
    (let s := withCore (idle (mail base 16 [0, 4, 240, 7]) { y0 with hold := .paused 0 }) fun q => { q with dbgStop := [1], brks := [0, 64, 128, 192] }
     Seated s 0 0 { y0 with hold := .paused 0 } ∧ y0.ten ∈ (s.core 0).dbgStop ∧ 4 ≤ (s.core 0).brks.length ∧ (y0.debugGet 15).isSome = true ∧ (y0.debugGet 92).isSome = true ∧ s.sound = true) ∧
    (let p : Pkt := .ptload 0 0 1 6 ((List.range 136).map fun i => pa0 / 8 + i)
     let y := { y0 with hold := .settle [.ptload 6 []] true }
     Arrives (idle (flight p) y) 1 p ∧ Seated (idle (flight p) y) 0 0 y ∧ (idle (flight p) y).imageOf 1 6 = none) := by
  refine ⟨?_, ?_, ?_, ?_, ?_, ⟨?_, ?_, ?_, ?_, ?_, ⟨fun k hk => ?_, ?_, ?_, ?_, fun a ha => ?_, ⟨?_, ⟨1, 0, rfl⟩, ?_⟩⟩⟩⟩
  all_goals first | (fin_cases hk <;> decide +kernel) | (fin_cases ha <;> decide +kernel) | decide +kernel


/-- LidSteps: an object that changes nothing where it is read, and one of a wrong pattern byte; a range that still has a line in an L2; a context to be moved with its
core; image tables that are taken and refused; debug steps of the test port. -/
theorem wit_LidSteps_more :
    (((mail base 4 [va0]).objectAt 1 va0 8).map fun x => (decide (x.1 = mail base 4 [va0]), x.2.1.length, x.2.1.all patOk, x.2.2.length)) = some (true, 64, true, 4627) ∧
    (((mail (base.putWord (pa0 / 8) 0x40 0xFF) 4 [va0]).objectAt 1 va0 1).map fun x => x.2.1.all patOk) = some false ∧
    (let s := { mail base 3 [] with draining := [(0, 1, ⟨0, 1, 1, 1, 2, false, 0⟩, false)], dirs := [{ line := 2 }] }
     ∃ d ∈ s.dirs, (⟨0, 1, 1, 1, 2, false, 0⟩ : Range).covers d.line = true) ∧
    (let s : State := { base with focus := { m := 1 }, lid := { base.lid with remaps := [(1, 0, 0, 9)], edgeAt := some 0 } }
     ({ s with lid := { s.lid with remaps := [] } }.moveCore 1 0 9).isSome = true ∧ (s.core 0).movable = true) ∧
    ((imageFrom ((List.range 136).map fun _ => 0)).refused ((List.range 136).map fun _ => 0) true).isSome = true ∧
    (let s := { withCore (idle base y0) fun q => { q with dbgStop := [1] } with focus := { m := 1, x := 240 } }
     Seated s 0 0 y0 ∧ y0.ten ∈ (s.core 0).dbgStop ∧ (y0.debugGet 15).isSome = true) := by
  refine ⟨?_, ?_, ?_, ?_, ?_, ?_⟩ <;> decide +kernel

end Sys2Proof.Tests
end

section
/-!
The issue of a slot (R18): `State.issueFrom` answers for the first entry of the block, in order of index, that has not fired and is ready.
-/
namespace Sys2Proof.Machine

/-- A search over the entries of a list with their indices comes to what the first index that answers gives. -/
theorem findSome?_zipIdx_eq_some_of_first {α β : Type} {f : α × Nat → Option β} {l : List α} {n : Nat} {e : α} {t : β}
    (hn : l[n]? = some e) (ht : f (e, n) = some t) (hfirst : ∀ m x, m < n → l[m]? = some x → f (x, m) = none) :
    l.zipIdx.findSome? f = some t := by
  have hz : l.zipIdx[n]? = some (e, n) := by simp [List.getElem?_zipIdx, hn]
  obtain ⟨hlt, he⟩ := List.getElem?_eq_some_iff.mp hz
  refine List.findSome?_eq_some_iff.mpr ⟨l.zipIdx.take n, (e, n), l.zipIdx.drop (n + 1), ?_, ht, ?_⟩
  · rw [← he, List.getElem_cons_drop, List.take_append_drop]
  · intro x hx
    obtain ⟨m, hm, rfl⟩ := List.mem_take_iff_getElem.mp hx
    rw [List.length_zipIdx] at hm
    rw [List.getElem_zipIdx, Nat.zero_add]
    exact hfirst m _ (by omega) (List.getElem?_eq_getElem (by omega))

/-- A search over the entries of a list with their indices comes to nothing where no index answers. -/
theorem findSome?_zipIdx_eq_none {α β : Type} {f : α × Nat → Option β} {l : List α}
    (hnone : ∀ m x, l[m]? = some x → f (x, m) = none) : l.zipIdx.findSome? f = none :=
  List.findSome?_eq_none_iff.mpr fun x hx => hnone x.2 x.1 (List.mem_zipIdx_iff_getElem?.mp hx)

/-- What the entry of an index answers when its slot has the turn: nothing where it goes on without an issue cycle, else its step. -/
def State.issueAt (s : State) (c k : Nat) (e : Entry × Nat) : Option State :=
  if e.1.carries then none else s.take e.1.insn.row { c := c, k := k, i := e.2 }

theorem issueAt_of_carries {s : State} {c k n : Nat} {e : Entry} (h : e.carries = true) : s.issueAt c k (e, n) = none :=
  if_pos h

theorem issueAt_of_not_carries {s : State} {c k n : Nat} {e : Entry} (h : e.carries = false) :
    s.issueAt c k (e, n) = s.take e.insn.row { c := c, k := k, i := n } :=
  if_neg (by simp [h])

/-- An entry answers nothing when it would not fire, whether it goes on or not. -/
theorem issueAt_eq_none {s : State} {c k n : Nat} {e : Entry}
    (h : e.carries = false → s.take e.insn.row { c := c, k := k, i := n } = none) : s.issueAt c k (e, n) = none := by
  cases hc : e.carries with
  | true => exact issueAt_of_carries hc
  | false => rw [issueAt_of_not_carries hc, h hc]

theorem issueFrom_of_blk {s : State} {c k : Nat} {b : Block} (hb : (s.slot c k).blk = some b) :
    s.issueFrom c k = b.body.zipIdx.findSome? (s.issueAt c k) := by
  rw [State.issueFrom, hb]
  rfl

/-- Settles O16: the search of the block's entries runs in order of index, so the first that is unfired and ready is the one that
issues, and where there is none nothing issues. -/
theorem lowestIndexIssues : Obligations.LowestIndexIssues := by
  unfold Obligations.LowestIndexIssues
  intro s c k b hb
  rw [issueFrom_of_blk hb]
  constructor
  · intro n e t hn hc ht hfirst
    exact findSome?_zipIdx_eq_some_of_first hn ((issueAt_of_not_carries hc).trans ht)
      fun m x hm hx => issueAt_eq_none (hfirst m x hm hx)
  · intro hnone
    exact findSome?_zipIdx_eq_none fun n e hn => issueAt_eq_none (hnone n e hn)

end Sys2Proof.Machine
end

section
/-!
The scalar integer forms at their firing (R20, R86): what a form with no flag completes with on live operands, and the reading of
`Insn.wf` for a form that has an encoding.
-/
namespace Sys2Proof.Machine

variable {row : Instr} {lat : Nat} {f : Here → Word → Word → Word → Word}

/-- On live operands a form that raises no flag completes with its value. -/
theorem fireInt_of_live {s : State} {h : Here} {a b c : Word} (hf : Fires s h row) (hl : Live h a b c) :
    fireInt row lat f s = .next ((s.issue h).result h (.sc (f h a b c)) .null lat) := by
  obtain ⟨hhere, hrow, hmay⟩ := hf
  obtain ⟨hp, ha, hb, hc⟩ := hl
  rw [fireInt, fireScalar, fires_next s h row always _ hhere hrow hmay rfl]
  simp only [hp, ha, hb, hc, State.flag, if_true]

theorem gives_of_exec {v : Here → Word → Word → Word → Word} (hexec : ∀ s, exec row s = fireInt row lat f s)
    (hv : ∀ h a b c, f h a b c = v h a b c) : Gives row lat v :=
  fun s h a b c hf hl => by rw [hexec s, fireInt_of_live hf hl, hv]

theorem givesSuch_of_exec {P : Here → Word → Word → Word → Word → Prop} (hexec : ∀ s, exec row s = fireInt row lat f s)
    (hP : ∀ h a b c, P h a b c (f h a b c)) : GivesSuch row lat P :=
  fun s h a b c hf hl => ⟨f h a b c, gives_of_exec hexec (fun _ _ _ _ => rfl) s h a b c hf hl, hP h a b c⟩

end Sys2Proof.Machine

namespace Sys2Proof

/-- An encoding carries an instruction of a form exactly where its FN, its result parcels, its immediate and its other fields fit. -/
theorem Insn.wf_iff_of_form {i : Insn} {f : Form} (hf : i.row.form = some f) :
    i.wf = true ↔ i.x.fn.toNat ∈ f.fns ∧ f.outsOk i.x.outs = true ∧ f.immOk i.x = true ∧ f.fieldsOk i.x = true := by
  simp [Insn.wf, hf, and_assoc]

theorem fn_mem_of_wf {i : Insn} {f : Form} (hf : i.row.form = some f) (hwf : i.wf = true) : i.fn ∈ f.fns :=
  ((Insn.wf_iff_of_form hf).mp hwf).1

/-- A class that does not ask for exactly two result parcels bounds their number. -/
theorem outs_length_le_of_wf {i : Insn} {f : Form} (hf : i.row.form = some f) (ht2 : f.cls ≠ .t2) (hm2 : f.cls ≠ .m2)
    (hwf : i.wf = true) : i.x.outs.length ≤ f.maxR := by
  obtain ⟨-, houts, -, -⟩ := (Insn.wf_iff_of_form hf).mp hwf
  rw [Form.outsOk, Bool.and_eq_true] at houts
  obtain ⟨hlen, -⟩ := houts
  split at hlen
  · next hc => exact absurd hc ht2
  · next hc => exact absurd hc hm2
  · exact of_decide_eq_true hlen

/-- The immediate fits the field of its class. -/
theorem imm_lt_immBits_of_wf {i : Insn} {f : Form} (hf : i.row.form = some f) (hwf : i.wf = true) :
    i.x.imm.toNat < 2 ^ f.cls.immBits := by
  obtain ⟨-, -, -, hfields⟩ := (Insn.wf_iff_of_form hf).mp hwf
  simp only [Form.fieldsOk, Bool.and_eq_true, decide_eq_true_eq] at hfields
  obtain ⟨⟨⟨⟨himm, -⟩, -⟩, -⟩, -⟩ := hfields
  exact himm

/-- The high bits of an immediate that its form reserves are 0. -/
theorem imm_lt_low_of_wf {i : Insn} {f : Form} {n : Nat} (hf : i.row.form = some f) (himm : f.imm = .low n) (hwf : i.wf = true) :
    i.x.imm.toNat < 2 ^ n := by
  obtain ⟨-, -, hok, -⟩ := (Insn.wf_iff_of_form hf).mp hwf
  simpa [Form.immOk, himm] using hok

end Sys2Proof
end

section
/-!
Division (R93): the model's four functions are the library's division of bit vectors, whose value as a number is known.
-/
namespace Sys2Proof.Machine

theorem exec_divS (s : State) : exec .divS s = fireInt .divS 24 (fun _ a b _ => divS a b) s := rfl
theorem exec_remS (s : State) : exec .remS s = fireInt .remS 24 (fun _ a b _ => remS a b) s := rfl
theorem exec_divU (s : State) : exec .divU s = fireInt .divU 24 (fun _ a b _ => divU a b) s := rfl
theorem exec_remU (s : State) : exec .remU s = fireInt .remU 24 (fun _ a b _ => remU a b) s := rfl

@[simp] theorem divS_zero (a : Word) : divS a 0 = BitVec.allOnes 64 := if_pos rfl
@[simp] theorem remS_zero (a : Word) : remS a 0 = a := if_pos rfl
@[simp] theorem divU_zero (a : Word) : divU a 0 = BitVec.allOnes 64 := if_pos rfl
@[simp] theorem remU_zero (a : Word) : remU a 0 = a := if_pos rfl

theorem toNat_divU {a b : Word} (hb : b ≠ 0) : (divU a b).toNat = a.toNat / b.toNat := by
  rw [divU, if_neg hb, ← BitVec.udiv_def, BitVec.toNat_udiv]

theorem toNat_remU {a b : Word} (hb : b ≠ 0) : (remU a b).toNat = a.toNat % b.toNat := by
  rw [remU, if_neg hb, ← BitVec.umod_def, BitVec.toNat_umod]

/-- Only −2^63 ÷ −1 has a quotient that does not fit. -/
theorem toInt_divS {a b : Word} (hb : b ≠ 0) (hfit : ¬(a.toInt = -2 ^ 63 ∧ b.toInt = -1)) :
    (divS a b).toInt = a.toInt.tdiv b.toInt := by
  rw [divS, if_neg hb, BitVec.toInt_ofInt, ← BitVec.toInt_sdiv]
  refine BitVec.toInt_sdiv_of_ne_or_ne a b (not_and_or.mp fun hov => hfit ?_)
  obtain ⟨rfl, rfl⟩ := hov
  decide

theorem toInt_divS_overflow {a b : Word} (ha : a.toInt = -2 ^ 63) (hb : b.toInt = -1) : (divS a b).toInt = -2 ^ 63 := by
  obtain rfl : a = BitVec.intMin 64 := BitVec.eq_of_toInt_eq ha
  obtain rfl : b = -1#64 := BitVec.eq_of_toInt_eq hb
  decide

theorem toInt_remS {a b : Word} (hb : b ≠ 0) : (remS a b).toInt = a.toInt.tmod b.toInt := by
  rw [remS, if_neg hb, ← BitVec.toInt_srem, BitVec.ofInt_toInt]

theorem remS_overflow {a b : Word} (ha : a.toInt = -2 ^ 63) (hb : b.toInt = -1) : remS a b = 0 := by
  obtain rfl : a = BitVec.intMin 64 := BitVec.eq_of_toInt_eq ha
  obtain rfl : b = -1#64 := BitVec.eq_of_toInt_eq hb
  decide

/-- A remainder other than 0 has the sign of the dividend. -/
theorem tmod_neg_iff {x y : Int} (hr : x.tmod y ≠ 0) : x.tmod y < 0 ↔ x < 0 := by
  have hsign := Int.sign_tmod x y
  rw [if_neg fun hd => hr (Int.tmod_eq_zero_of_dvd hd)] at hsign
  rw [← Int.sign_eq_neg_one_iff_neg, hsign, Int.sign_eq_neg_one_iff_neg]

/-- Settles O2: each form completes with its function's value, and the quotient and remainder of R93 are those of `Int.tdiv` and
`Int.tmod`, or of `Nat`. -/
theorem divide : Obligations.Divide := by
  unfold Obligations.Divide
  refine ⟨?_, ?_, ?_, ?_⟩
  · refine givesSuch_of_exec exec_divS fun _ a b _ => ⟨fun hb => ?_, ?_, toInt_divS⟩
    · rw [hb, divS_zero, BitVec.toInt_allOnes]; rfl
    · exact fun ⟨ha, hb⟩ => toInt_divS_overflow ha hb
  · refine givesSuch_of_exec exec_remS fun _ a b _ => ⟨fun hb => ?_, ?_, fun hb _ => ?_⟩
    · rw [hb, remS_zero]
    · exact fun ⟨ha, hb⟩ => remS_overflow ha hb
    · rw [toInt_remS hb]
      exact ⟨(Int.tdiv_mul_add_tmod _ _).symm, tmod_neg_iff⟩
  · refine givesSuch_of_exec exec_divU fun _ a b _ => ⟨fun hb => ?_, toNat_divU⟩
    rw [hb, divU_zero, BitVec.toNat_allOnes]
  · refine givesSuch_of_exec exec_remU fun _ a b _ => ⟨fun hb => ?_, fun hb => ?_⟩
    · rw [hb, remU_zero]
    · rw [toNat_remU hb]
      exact ⟨Nat.mod_lt _ (Nat.pos_of_ne_zero (BitVec.toNat_ne.mp hb)), (Nat.div_add_mod' _ _).symm⟩

end Sys2Proof.Machine
end

section
/-!
Bit fields (R94): bfx.u and bfx.s are the field cut out of a and extended with zeros or with its highest bit; bfi is known bit by bit.
-/
namespace Sys2Proof.Machine

theorem exec_bfxU (s : State) : exec .bfxU s = fireInt .bfxU 1 (fun h a _ _ => bfxU a h.pos h.len) s := rfl
theorem exec_bfxS (s : State) : exec .bfxS s = fireInt .bfxS 1 (fun h a _ _ => bfxS a h.pos h.len) s := rfl
theorem exec_bfi (s : State) : exec .bfi s = fireInt .bfi 1 (fun h a b _ => bfi a b h.pos h.len) s := rfl

theorem getLsbD_lowMask (l i : Nat) : (lowMask l).getLsbD i = (decide (i < 64) && decide (i < l)) := by
  rw [lowMask, BitVec.getLsbD_ofNat, Nat.testBit_two_pow_sub_one]

theorem Here.len_pos (h : Here) : 0 < h.len := by unfold Here.len Here.pos; omega

theorem Here.len_le (h : Here) : h.len ≤ 64 := by unfold Here.len; omega

theorem getLsbD_bfxU (a : Word) (pos l : Nat) {i : Nat} (hi : i < 64) :
    (bfxU a pos l).getLsbD i = (decide (i < l) && a.getLsbD (pos + i)) := by
  rw [bfxU, BitVec.getLsbD_and, BitVec.getLsbD_ushiftRight, getLsbD_lowMask, decide_eq_true hi, Bool.true_and, Bool.and_comm]

theorem bfxU_eq_setWidth (a : Word) (pos l : Nat) : bfxU a pos l = (a.extractLsb' pos l).setWidth 64 := by
  refine BitVec.eq_of_getLsbD_eq fun i hi => ?_
  rw [getLsbD_bfxU a pos l hi, BitVec.getLsbD_setWidth, BitVec.getLsbD_extractLsb', decide_eq_true hi, Bool.true_and]

/-- Bit l − 1 of the field is its sign. -/
theorem getLsbD_bfxU_last (a : Word) (pos : Nat) {l : Nat} (hl : 0 < l) (hl64 : l ≤ 64) :
    (bfxU a pos l).getLsbD (l - 1) = (a.extractLsb' pos l).msb := by
  rw [BitVec.msb_eq_getLsbD_last, BitVec.getLsbD_extractLsb', getLsbD_bfxU a pos l (by omega)]

theorem bfxS_eq_signExtend (a : Word) (pos : Nat) {l : Nat} (hl : 0 < l) (hl64 : l ≤ 64) :
    bfxS a pos l = (a.extractLsb' pos l).signExtend 64 := by
  refine BitVec.eq_of_getLsbD_eq fun i hi => ?_
  simp only [bfxS, getLsbD_bfxU_last a pos hl hl64, BitVec.getLsbD_signExtend, decide_eq_true hi]
  split
  · next hneg =>
    rw [BitVec.getLsbD_or, BitVec.getLsbD_not, getLsbD_lowMask, getLsbD_bfxU a pos l hi]
    by_cases hil : i < l <;> simp [hi, hil, hneg]
  · next hpos =>
    rw [getLsbD_bfxU a pos l hi]
    by_cases hil : i < l <;> simp [hil, hpos]

theorem toNat_bfxU (a : Word) (pos : Nat) {l : Nat} (hl64 : l ≤ 64) : (bfxU a pos l).toNat = a.toNat / 2 ^ pos % 2 ^ l := by
  rw [bfxU_eq_setWidth, BitVec.toNat_setWidth_of_le hl64, BitVec.extractLsb'_toNat, Nat.shiftRight_eq_div_pow]

theorem toInt_bfxS (a : Word) (pos : Nat) {l : Nat} (hl : 0 < l) (hl64 : l ≤ 64) :
    (bfxS a pos l).toInt = if a.toNat / 2 ^ pos % 2 ^ l < 2 ^ (l - 1) then ((a.toNat / 2 ^ pos % 2 ^ l : Nat) : Int)
      else ((a.toNat / 2 ^ pos % 2 ^ l : Nat) : Int) - 2 ^ l := by
  obtain ⟨n, rfl⟩ : ∃ n, l = n + 1 := ⟨l - 1, by omega⟩
  rw [bfxS_eq_signExtend a pos hl hl64, BitVec.toInt_signExtend_of_le hl64, BitVec.toInt_eq_toNat_cond, BitVec.extractLsb'_toNat,
    Nat.shiftRight_eq_div_pow, Nat.add_sub_cancel]
  have hhalf (u : Nat) : 2 * u < 2 ^ (n + 1) ↔ u < 2 ^ n := by rw [pow_succ]; omega
  simp only [hhalf]
  norm_cast

theorem getLsbD_bfi (a b : Word) (pos l : Nat) {i : Nat} (hi : i < 64) :
    (bfi a b pos l).getLsbD i = if pos ≤ i ∧ i < pos + l then b.getLsbD (i - pos) else a.getLsbD i := by
  have hmask : (lowMask l <<< pos).getLsbD i = decide (pos ≤ i ∧ i < pos + l) := by
    rw [BitVec.getLsbD_shiftLeft, getLsbD_lowMask, Bool.eq_iff_iff]
    simp only [Bool.and_eq_true, Bool.not_eq_true', decide_eq_true_eq, decide_eq_false_iff_not]
    omega
  simp only [bfi, BitVec.getLsbD_or, BitVec.getLsbD_and, BitVec.getLsbD_not, BitVec.getLsbD_shiftLeft, hmask]
  split
  · next hin => simp [-BitVec.getLsbD_eq_getElem, hi, hin]
  · next hout => simp [hi, hout]

/-- Settles O5: `Here.pos` and `Here.len` are pos and L of R94, and the immediate of these forms has 12 bits. -/
theorem bitFields : Obligations.BitFields := by
  unfold Obligations.BitFields
  refine ⟨?_, ?_, ?_, ?_⟩
  · exact givesSuch_of_exec exec_bfxU fun h a _ _ => toNat_bfxU a h.pos h.len_le
  · exact givesSuch_of_exec exec_bfxS fun h a _ _ => toInt_bfxS a h.pos h.len_pos h.len_le
  · exact givesSuch_of_exec exec_bfi fun h a b _ i hi => getLsbD_bfi a b h.pos h.len hi
  · rintro ⟨row, x⟩ hwf (rfl | rfl | rfl)
    all_goals exact imm_lt_low_of_wf rfl rfl hwf

end Sys2Proof.Machine
end

section
/-!
Comparison (R95): the model's conditions are those of Table 3.7, read as statements about numbers, and `Here.cond` is 1 or 0.
-/
namespace Sys2Proof.Machine

theorem exec_cmp (s : State) : exec .cmp s = fireInt .cmp 1 (fun h a b _ => h.cond a b) s := rfl
theorem exec_cmpi (s : State) : exec .cmpi s = fireInt .cmpi 1 (fun h a _ _ => h.cond a h.imm16) s := rfl

theorem beq_eq_beq_toNat (a b : Word) : (a == b) = (a.toNat == b.toNat) := by
  rw [Bool.eq_iff_iff, beq_iff_eq, beq_iff_eq, BitVec.toNat_inj]

theorem and_eq_zero_eq_all (a b : Word) : (a &&& b == 0) = (List.range 64).all fun i => !(bitAt a i && bitAt b i) := by
  rw [Bool.eq_iff_iff, beq_iff_eq, List.all_eq_true, BitVec.eq_of_getLsbD_eq_iff]
  simp only [List.mem_range, BitVec.getLsbD_and, BitVec.testBit_toNat, BitVec.ofNat_eq_ofNat, BitVec.getLsbD_zero, Bool.not_eq_true']

theorem and_ne_zero_eq_any (a b : Word) : (a &&& b != 0) = (List.range 64).any fun i => bitAt a i && bitAt b i := by
  rw [bne, and_eq_zero_eq_all, List.not_all_eq_any_not]
  simp only [Bool.not_not]

/-- Each code of Table 3.7 holds as its numbers compare; a code without a condition holds of nothing. -/
theorem any_ccHolds_ofCode (n : Nat) (a b : Word) : (Cc.ofCode n).any (fun cc => ccHolds cc a b) = condHolds n a b :=
  match n with
  | 0 => beq_eq_beq_toNat a b
  | 1 => congrArg (!·) (beq_eq_beq_toNat a b)
  | 2 => rfl
  | 3 => BitVec.sle_eq_not_slt.symm
  | 4 => rfl
  | 5 => BitVec.sle_eq_not_slt.symm
  | 6 => rfl
  | 7 => (BitVec.ule_eq_not_ult a b).symm
  | 8 => rfl
  | 9 => (BitVec.ule_eq_not_ult b a).symm
  | 10 => and_ne_zero_eq_any a b
  | 11 => and_eq_zero_eq_all a b
  | _ + 12 => rfl

theorem Here.cond_eq_ite (h : Here) (a b : Word) : h.cond a b = if condHolds h.fn a b then 1 else 0 := by
  rw [Here.cond, ← any_ccHolds_ofCode]
  cases Cc.ofCode h.fn <;> rfl

theorem Here.imm16_eq_ofInt (h : Here) : h.imm16 = BitVec.ofInt 64 h.immS := rfl

theorem wf_cmp {i : Insn} (hrow : i.row = .cmp) (hwf : i.wf = true) : i.fn < 12 ∧ i.x.outs.length ≤ 3 ∧ i.x.imm = 0 := by
  have hform := congrArg Instr.form hrow
  exact ⟨List.mem_range.mp (fn_mem_of_wf hform hwf), outs_length_le_of_wf hform (by decide) (by decide) hwf,
    BitVec.eq_of_toNat_eq (Nat.lt_one_iff.mp (imm_lt_immBits_of_wf hform hwf))⟩

theorem wf_cmpi {i : Insn} (hrow : i.row = .cmpi) (hwf : i.wf = true) : i.fn < 12 ∧ i.x.outs.length ≤ 2 := by
  have hform := congrArg Instr.form hrow
  exact ⟨List.mem_range.mp (fn_mem_of_wf hform hwf), outs_length_le_of_wf hform (by decide) (by decide) hwf⟩

/-- The head depends on the number of result parcels alone. -/
theorem encode_cmp_ltU (r : RP) : encode ⟨.cmp, ⟨6, .always, 0, 0, 0, 0, [r], 0⟩⟩ = some (0x3886, [rpParcel r], 0) := by
  simp only [encode, Instr.form, headOf, tailsOf, List.map_cons, List.map_nil, List.length_cons, List.length_nil]
  rfl

/-- Settles O6: `Here.cond` is the condition of Table 3.7, and the two forms of Table 3.8 bound FN, the parcels and the immediate. -/
theorem compare : Obligations.Compare := by
  unfold Obligations.Compare
  refine ⟨?_, ?_, ?_, ?_⟩
  · exact gives_of_exec exec_cmp fun h a b _ => h.cond_eq_ite a b
  · refine gives_of_exec exec_cmpi fun h a _ _ => ?_
    rw [h.cond_eq_ite, h.imm16_eq_ofInt]
  · exact fun i hwf => ⟨fun hrow => wf_cmp hrow hwf, fun hrow => wf_cmpi hrow hwf⟩
  · exact fun r => ⟨[rpParcel r], encode_cmp_ltU r⟩

end Sys2Proof.Machine
end
